-- ==== Sys2Proof/Word.lean ====
section
/-! DEFINITION. The word types of the machine. -/
namespace Sys2Proof

/-- One byte of memory. -/
abbrev Byte := BitVec 8
/-- A 32-bit field: a lane register's field, an instruction word. -/
abbrev W32 := BitVec 32
/-- A uniform register, a control register. -/
abbrev W64 := BitVec 64
/-- The bits of a capability (R140). -/
abbrev W128 := BitVec 128

end Sys2Proof
end

