-- ==== Sys2Proof/Syntax.lean ====
section
/-! DEFINITION. The instruction set as syntax: one constructor per row of the opcode table, events first, then the
lane set, then the uniform set. Operands are the encoded field values as natural numbers; WellFormed bounds them.
Event operands say which agent or which record the event concerns, or what the outside world sends with it. -/
namespace Sys2Proof

/-- Reads of an event that see memory as it stood after an earlier write, where the rules allow it (13_ordering R322): the read's place among the
event's reads, and that write's number. -/
abbrev OldReads := List (Nat × Nat)

/-- The access of a sector that returns. -/
structure SectorReturn where
  acc : Nat
  old : OldReads
deriving DecidableEq, Repr

/-- Table entries written, with the values; the accesses that had translated before and complete under the old ones (R212); pages that EVICT took
away, given back: launch, object, page (R437). -/
structure TableChange where
  writes : List (Nat × Nat)
  kept : List Nat
  back : List (Nat × Nat × Nat)
deriving DecidableEq, Repr

/-- A copy operation that starts: which of its writes are seen before its finish (R289), and what its reads see. -/
structure CopyStart where
  early : List Nat
  old : OldReads
deriving DecidableEq, Repr

/-- The channel whose chain goes on, with the start of the operation its record holds. -/
structure ChainWalk where
  chan : Nat
  start : CopyStart
deriving DecidableEq, Repr

/-- A notice of HOLD or RESUME (R386): in a place among those of this module; to a gang here from a rank on another module, by its rank-list entry; or to
a gang here from a gang of its launch, by index, that has been packed away to another module. -/
inductive NoticeRef where
  | here (idx : Nat)
  | peer (gang rank : Nat)
  | packed (gang index : Nat)
deriving DecidableEq, Repr

/-- Where a gang of a cohort stands again: its key, its quad, a core for each team. -/
structure Seat where
  gang : Nat
  quad : Nat
  cores : List Nat
deriving DecidableEq, Repr

/-- Where the teams of a gang stand again, a core for each, and the seats of the other gangs of its cohort. -/
structure Seating where
  cores : List Nat
  rest : List Seat
deriving DecidableEq, Repr

/-- What a relay engine reads: its gang, and what its reads see. -/
structure RelayRead where
  gang : Nat
  old : OldReads
deriving DecidableEq, Repr

/-- What a peer module does (R329): the bytes, the operation, and for a load the earlier write after which it sees memory (R322). -/
structure PeerOp where
  size : Nat
  op : Nat
  old : Option Nat
deriving DecidableEq, Repr

/-- What a host core does (R330, R331): its number, the operation, whether it acquires (1), releases (2) or both (3), and for a load the earlier write
after which it sees memory (R322). -/
structure HostOp where
  core : Nat
  op : Nat
  order : Nat
  old : Option Nat
deriving DecidableEq, Repr

/-- Every instruction and every event of the KB640 (04_encoding R82 to R84 for the encoded ones). -/
inductive Instr where
  /-- R106: The core forms a group from the oldest eligible bin. -/
  | groupFormation (core : Nat)
  /-- R105: A bin's age reaches the age limit and it becomes eligible. -/
  | binAgeLimit (team : Nat) (bin : Nat)
  /-- R107: At its next boundary a chosen thin group files its threads to free a group slot. -/
  | thinGroupYield (core : Nat)
  /-- R217: A load sector returns, writes its destination bytes and decrements the outstanding-sector counter. -/
  | loadSectorReturn (ret : SectorReturn)
  /-- R260: A global atomic is performed at the home die cache and its return arrives. -/
  | atomicPerformed (acc : Nat)
  /-- R115: A store is performed at its scope and its store-window entry is acknowledged. -/
  | storeAcknowledged (acc : Nat)
  /-- R226: A negative acknowledgement suppresses a store and stops its thread at the next boundary. -/
  | storeRefused (acc : Nat)
  /-- R267: An ordered contribution is validated and enters the ordered buffer. -/
  | orderedValidate (acc : Nat)
  /-- R222: A memory-side check fails and the access is parked with an operand log entry. -/
  | memorySideFault (acc : Nat)
  /-- R221: A queued fault takes a freed operand log entry. -/
  | faultEntersLog (acc : Nat)
  /-- R222: A resolved parked access is replayed from its log entry. -/
  | faultReplay (acc : Nat)
  /-- R222: A resolving fault is declared fatal and a trap record is written. -/
  | faultDeclaredFatal (acc : Nat)
  /-- R223: A privileged command ends the launches of named parked accesses. -/
  | cancel (port : Nat) (slot : Nat) (pc : Nat)
  /-- R212: A privileged command makes later translations use changed table entries. -/
  | memoryPortInvalidate (fn : Nat) (change : TableChange)
  /-- R392: The service handler resumes a trapped group. -/
  | trapResume (rec : Nat)
  /-- R392: The service handler declares a trap fatal and ends the launch. -/
  | trapDeclareFatal (rec : Nat)
  /-- R243: A range-scoreboard entry retires when its copy's glade bytes are done. -/
  | scoreboardEntryRetire (team : Nat) (entry : Nat)
  /-- R246: The last thread arrives at a step and the step's checks are made. -/
  | gstepArrivalsComplete (team : Nat) (wide : Nat)
  /-- R246: No scoreboard entry names a stepped region; collisions are resolved, planes swapped and threads released. -/
  | gstepDrained (team : Nat) (wide : Nat)
  /-- R257: Every thread has arrived at a GCFG and the configuration word is checked. -/
  | gcfgArrivalsComplete (team : Nat) (region : Nat)
  /-- R257: No access names the region; it is configured, zeroed and threads released. -/
  | gcfgDrained (team : Nat) (region : Nat)
  /-- R279: Every member has made its arrival and the phase releases waiters. -/
  | barrierPhaseComplete (level : Nat) (key : Nat)
  /-- R285: A channel starts its next accepted operation. -/
  | copyOperationStart (gang : Nat) (chan : Nat) (start : CopyStart)
  /-- R289: An operation's writes are performed and its timeline is signalled. -/
  | copyOperationFinish (gang : Nat) (chan : Nat)
  /-- R290: An operation meets an unresolvable fault and aborts with a trap to its issuer. -/
  | copyOperationAbort (gang : Nat) (chan : Nat)
  /-- R302: The engine reads the next transfer record of a chain and performs or ends it. -/
  | chainRecordWalk (gang : Nat) (walk : ChainWalk)
  /-- R304: After its last glade byte lands, the engine issues the latched follow-on matrix command. -/
  | cpymFollowIssue (gang : Nat) (chan : Nat)
  /-- R334: The command at the head of a macro's queue begins, with its run-time checks. -/
  | macroCommandStart (team : Nat) (mac : Nat)
  /-- R336: A macro command's occupancy ends and its timeline is signalled. -/
  | macroCommandFinish (team : Nat) (mac : Nat)
  /-- R360: A gang's next accepted relay run starts, reading its header and steps. -/
  | relayRunStart (read : RelayRead)
  /-- R365: Step SEND sends a chunk to a peer. -/
  | relaySend (read : RelayRead)
  /-- R365: Step RECV receives a chunk from a peer into a buffer. -/
  | relayRecv (gang : Nat)
  /-- R365: Step RRS receives, reduces and sends the result to the mirror peer. -/
  | relayRrs (gang : Nat)
  /-- R365: Step RRD receives and reduces into a destination chunk. -/
  | relayRrd (gang : Nat)
  /-- R365: Step COPY copies a chunk between buffers. -/
  | relayCopy (read : RelayRead)
  /-- R365: Step WAIT waits for a timeline value and acquires. -/
  | relayWait (gang : Nat)
  /-- R365: Step LOOP advances a loop counter and branches. -/
  | relayLoop (gang : Nat)
  /-- R365: Step END finishes the run and signals t6. -/
  | relayEnd (gang : Nat)
  /-- R369: A peer's chunk arrives and its signature and length are compared. -/
  | relayChunkArrival (chunk : Nat) (fn : Nat) (coll : Nat) (signature : Nat) (n : Nat) (sender : Nat) (target : Nat) (len : Nat) (bytes : List Nat)
  /-- R367: A landed 64-byte flit decrements the reduce launch counter. -/
  | flitLanded (gang : Nat)
  /-- R367: The launch counter reaches zero and the reduce kernel is dispatched. -/
  | reduceKernelDispatch (gang : Nat) (core : Nat)
  /-- R369: An abort notice ends the runs of a collective. -/
  | relayAbortNotice (gang : Nat) (coll : Nat) (status : Nat)
  /-- R370: A run's patience count expires and the run ends with status 2. -/
  | relayPatienceExpired (gang : Nat)
  /-- R386: A HOLD from a stopped peer pauses a partner's patience. -/
  | holdNotice (notice : NoticeRef)
  /-- R386: A RESUME from a peer restarts a partner's paused patience. -/
  | resumeNotice (notice : NoticeRef)
  /-- R379: An armed timer reaches its deadline and posts a stamped event. -/
  | timerExpiry (gang : Nat) (timer : Nat)
  /-- R381: A host, peer or service event arrives in the inbox and is stamped. -/
  | inboxEventArrival (gang : Nat) (kind : Nat) (source : Nat) (length : Nat) (p0 : Nat) (p1 : Nat)
  /-- R385: The host posts an event with a 32-byte store to the event window. -/
  | hostEventStore (fn : Nat) (bytes : Nat)
  /-- R405: The host appends a spawn record to a queue with a 64-byte store. -/
  | spawnWindowStore (fn : Nat) (off : Nat) (size : Nat) (bytes : Nat)
  /-- R407: A record reaches its queue's head and is checked. -/
  | launchHeadCheck (fn : Nat) (queue : Nat)
  /-- R407: The dependence timeline reaches depval and the head becomes ready or fails. -/
  | dependenceMet (fn : Nat) (queue : Nat)
  /-- R408: The command processor admits a ready head in class order. -/
  | launchAdmit (fn : Nat) (queue : Nat)
  /-- R408: A ready head's waiting time passes an aging step and it counts one class higher. -/
  | headAging (fn : Nat) (queue : Nat)
  /-- R409: A die scheduler places a gang atomically on a quad. -/
  | gangPlace (launch : Nat) (gang : Nat) (quad : Nat) (cores : List Nat)
  /-- R411: An unplaceable head's delay expires and lower-class gangs are stopped. -/
  | priorityPreemption (fn : Nat) (queue : Nat)
  /-- R417: A deterministic launch's slice ends, stopping one gang and resuming another. -/
  | timeSliceExpiry (gang : Nat) (gang2 : Nat)
  /-- R412: Issue stops for pre-emption, migration, slice, single-step or debugger halt and the clock halts. -/
  | gangStop (gang : Nat) (reason : Nat)
  /-- R413: Quiescing completes and the gang's state is saved. -/
  | gangSaved (gang : Nat)
  /-- R412: A suspended gang is placed again, restored and its clock restarts; rest: the other gangs of its cohort (R410). -/
  | gangResume (gang : Nat) (quad : Nat) (seating : Seating)
  /-- R414: A suspended gang is packed in fabric messages for another die. -/
  | gangPack (gang : Nat) (die : Nat)
  /-- R414: The target die accepts a moving gang as suspended. -/
  | gangMigrateAccept (gang : Nat)
  /-- R412: A gang whose teams ended and operations finished releases its resources. -/
  | gangRetire (gang : Nat)
  /-- R420: Every gang has retired; the ordered fold runs and the completion timeline is signalled. -/
  | launchComplete (launch : Nat)
  /-- R423: A replayable launch that consumed uncorrectable data is restored and readmitted. -/
  | launchReplay (launch : Nat)
  /-- R423: A held first store's page is copied to the snapshot area and the store released. -/
  | snapshotPageCopy (acc : Nat) (frame : Nat)
  /-- R425: The scrubber corrects a sector and writes it back only if unchanged. -/
  | scrubSector (sector : Nat) (version : Nat)
  /-- R426: A die-to-die link or fabric port fails, poisoning or dropping accesses behind it. -/
  | linkFailure (link : Nat)
  /-- R415: The power manager samples the draw and sets quad clock dividers. -/
  | powerSample (rates : List Nat) (dividers : List (Nat × Nat))
  /-- R422: The physical function's driver resets one virtual function. -/
  | functionReset (fn : Nat)
  /-- R422: A closure message for a peer's flow ends its relay runs with PEER_RESET. -/
  | flowClosed (peer : Nat) (fn : Nat)
  /-- R421: The physical function's driver writes a per-function setting. -/
  | settingWrite (fn : Nat) (setting : Nat) (value : Nat)
  /-- R330: A host access over CXL to a host-visible object is performed at the home die cache. -/
  | hostMemoryAccess (fn : Nat) (object : Nat) (off : Nat) (size : Nat) (op : HostOp) (data : Nat)
  /-- R92: The finaliser checks and finalises a portable image into a native image. -/
  | zpfLoad (fn : Nat) (src : Nat) (len : Nat) (handle : Nat) (codeObj : Nat) (sectionObj : Nat)
  /-- R96: A privileged command loads all 2,048 decode-table entries of a context. -/
  | decodeTableLoad (fn : Nat) (entries : List Nat)
  /-- R443: Power-on or PERST# resets every die and memory content. -/
  | coldReset
  /-- R443: Management command resetting the module except fuses and flash. -/
  | moduleReset
  /-- R444: On reset release the boot ROM reads the slot flag and verifies firmware. -/
  | bootRomStart
  /-- R444: HBM and link training ends; memory and decode tables are initialised and the module is Ready. -/
  | trainingDone
  /-- R442: The hottest die reaches 100 °C and dividers are set. -/
  | thermalThrottle (die : Nat) (temp : Nat) (dividers : List (Nat × Nat))
  /-- R442: The hottest die reaches 105 °C; its quads run at divider 8 and an event is sent. -/
  | overTemperature (die : Nat) (temp : Nat)
  /-- R442: The die falls below 103 °C and leaves the over-temperature action. -/
  | overTemperatureClear (die : Nat) (temp : Nat)
  /-- R442: The die passes 115 °C and the module stops all issue. -/
  | thermalTrip (die : Nat) (temp : Nat)
  /-- R446: PLDM type 5 transfer writes an image into the inactive slot and checks it. -/
  | pldmFirmwareUpdate (image : List Nat)
  /-- R446: Raises the fused minimum svn to the running image's svn. -/
  | activateCommit
  /-- R449: PLDM type 2 message serving the module's sensors. -/
  | pldmPlatformMonitoring (sensor : Nat) (index : Nat) (reading : Nat)
  /-- R448: SPDM request for supported versions. -/
  | getVersion
  /-- R448: SPDM request for capabilities. -/
  | getCapabilities
  /-- R448: SPDM algorithm negotiation offering P-521 and SHA-512. -/
  | negotiateAlgorithms (offered : Nat)
  /-- R448: SPDM request for certificate chain digests. -/
  | getDigests
  /-- R448: SPDM request for the certificate chain. -/
  | getCertificate (off : Nat) (len : Nat)
  /-- R448: SPDM signed request for a snapshot of the measurement registers. -/
  | getMeasurements (index : Nat) (nonce : Nat)
  /-- R85: Issue reaches a word whose OP10 the context's decode table leaves unassigned, a reserved order combination, or a lane-set word on a service core, and ILLEGAL_INSTRUCTION is raised with no effect. -/
  | unassignedOpcode
  /-- R401: The service context's reply to a SYSC arrives and writes the status to s_d and results to s_a to s_(a+3), releasing the waiting subset. -/
  | serviceCallReply (call : Nat) (status : Nat) (r0 : Nat) (r1 : Nat) (r2 : Nat) (r3 : Nat)
  /-- R329: An access from a peer module arrives over an ordered or unordered fabric flow and is performed at its home die on this module and acknowledged back. -/
  | peerModuleAccess (src : Nat) (ordered : Nat) (seq : Nat) (op : PeerOp) (addr : Nat) (data : Nat)
  /-- R168: Adds two lane registers modulo 2^32 in each active lane and clears S. -/
  | vadd (d : Nat) (a : Nat) (b : Nat)
  /-- R168: Subtracts lane registers modulo 2^32 in each active lane. -/
  | vsub (d : Nat) (a : Nat) (b : Nat)
  /-- R168: Multiplies lane registers modulo 2^32. -/
  | vmul (d : Nat) (a : Nat) (b : Nat)
  /-- R168: Writes the high 32 bits of the signed 64-bit product. -/
  | vmulhI32 (d : Nat) (a : Nat) (b : Nat)
  /-- R168: Writes the high 32 bits of the unsigned 64-bit product. -/
  | vmulhN32 (d : Nat) (a : Nat) (b : Nat)
  /-- R168: Adds the product of va and vb to vd modulo 2^32. -/
  | vmad (d : Nat) (a : Nat) (b : Nat)
  /-- R169: Signed saturating add, setting S when the clamp acts. -/
  | vaddsI32 (d : Nat) (a : Nat) (b : Nat)
  /-- R169: Signed saturating subtract, setting S when the clamp acts. -/
  | vsubsI32 (d : Nat) (a : Nat) (b : Nat)
  /-- R169: Unsigned saturating add, setting S when the clamp acts. -/
  | vaddsN32 (d : Nat) (a : Nat) (b : Nat)
  /-- R169: Unsigned saturating subtract, setting S when the clamp acts. -/
  | vsubsN32 (d : Nat) (a : Nat) (b : Nat)
  /-- R168: Bitwise AND of two lane registers. -/
  | vand (d : Nat) (a : Nat) (b : Nat)
  /-- R168: Bitwise OR of two lane registers. -/
  | vor (d : Nat) (a : Nat) (b : Nat)
  /-- R168: Bitwise XOR of two lane registers. -/
  | vxor (d : Nat) (a : Nat) (b : Nat)
  /-- R168: Bitwise va AND NOT vb. -/
  | vandn (d : Nat) (a : Nat) (b : Nat)
  /-- R168: Shifts left by vb[4:0]. -/
  | vshl (d : Nat) (a : Nat) (b : Nat)
  /-- R168: Logical right shift by vb[4:0]. -/
  | vshrN32 (d : Nat) (a : Nat) (b : Nat)
  /-- R168: Arithmetic right shift by vb[4:0]. -/
  | vshrI32 (d : Nat) (a : Nat) (b : Nat)
  /-- R168: Signed minimum of two lane registers. -/
  | vminI32 (d : Nat) (a : Nat) (b : Nat)
  /-- R168: Unsigned minimum of two lane registers. -/
  | vminN32 (d : Nat) (a : Nat) (b : Nat)
  /-- R168: Signed maximum of two lane registers. -/
  | vmaxI32 (d : Nat) (a : Nat) (b : Nat)
  /-- R168: Unsigned maximum of two lane registers. -/
  | vmaxN32 (d : Nat) (a : Nat) (b : Nat)
  /-- R170: Signed absolute value, saturating 0x8000_0000 with S set. -/
  | vabsI32 (d : Nat) (a : Nat)
  /-- R170: Counts the set bits of va. -/
  | vpopc (d : Nat) (a : Nat)
  /-- R170: Counts the leading zero bits of va. -/
  | vclz (d : Nat) (a : Nat)
  /-- R171: Extracts a bit field described by vb, optionally sign-extended. -/
  | vbfx (d : Nat) (a : Nat) (b : Nat)
  /-- R171: Inserts va into a bit field of vd described by vb. -/
  | vbfi (d : Nat) (a : Nat) (b : Nat)
  /-- R172: Adds four signed byte products to vd, wrapping. -/
  | vdot4I8 (d : Nat) (a : Nat) (b : Nat)
  /-- R172: Adds four unsigned byte products to vd, wrapping. -/
  | vdot4N8 (d : Nat) (a : Nat) (b : Nat)
  /-- R170: Copies the whole image of va, S included. -/
  | vmov (d : Nat) (a : Nat)
  /-- R173: Moves the low or high half of each lane's wave-of-origin uniform register into the lane. -/
  | vmovs (d : Nat) (a : Nat) (h : Nat)
  /-- R174: Writes the selected identity or position value of the thread. -/
  | vid (d : Nat) (s : Nat)
  /-- R175: Adds a sign-extended 7-bit immediate. -/
  | vaddi (d : Nat) (a : Nat) (i : Nat)
  /-- R175: Adds a 32-bit literal immediate. -/
  | vaddiTwin (d : Nat) (a : Nat) (w : Nat)
  /-- R175: Shifts left by an immediate count. -/
  | vshli (d : Nat) (a : Nat) (i : Nat)
  /-- R175: Logical right shift by an immediate count. -/
  | vshriN32 (d : Nat) (a : Nat) (i : Nat)
  /-- R175: Arithmetic right shift by an immediate count. -/
  | vshriI32 (d : Nat) (a : Nat) (i : Nat)
  /-- R175: ANDs with a sign-extended 7-bit immediate. -/
  | vandi (d : Nat) (a : Nat) (i : Nat)
  /-- R175: ANDs with a 32-bit literal immediate. -/
  | vandiTwin (d : Nat) (a : Nat) (w : Nat)
  /-- R175: Loads a sign-extended 7-bit immediate into each lane. -/
  | vli (d : Nat) (i : Nat)
  /-- R175: Loads a 32-bit literal immediate into each lane. -/
  | vliTwin (d : Nat) (w : Nat)
  /-- R176: Signed integer compare into a lane predicate. -/
  | icmpI32 (p : Nat) (c : Nat) (a : Nat) (b : Nat)
  /-- R176: Unsigned integer compare into a lane predicate. -/
  | icmpN32 (p : Nat) (c : Nat) (a : Nat) (b : Nat)
  /-- R177: FP32 compare into a lane predicate, unordered on NaN. -/
  | fcmpF32 (p : Nat) (c : Nat) (a : Nat) (b : Nat)
  /-- R177: FP32 compare that treats an operand with S set as unordered. -/
  | fcmpX (p : Nat) (c : Nat) (a : Nat) (b : Nat)
  /-- R178: Combines two lane predicates by the selected logic operation. -/
  | plog (p : Nat) (o : Nat) (a : Nat) (b : Nat)
  /-- R179: Sets a predicate where the field is nonzero. -/
  | vtop (p : Nat) (a : Nat)
  /-- R179: Writes 1 or 0 from a predicate into a lane register. -/
  | vfromp (d : Nat) (b : Nat)
  /-- R180: Selects the image of va or vb by predicate pk. -/
  | vsel (k : Nat) (d : Nat) (a : Nat) (b : Nat)
  /-- R193: FP32 add rounded once with the arithmetic mode. -/
  | fadd (d : Nat) (a : Nat) (b : Nat)
  /-- R193: FP32 subtract rounded once. -/
  | fsub (d : Nat) (a : Nat) (b : Nat)
  /-- R193: FP32 multiply rounded once. -/
  | fmul (d : Nat) (a : Nat) (b : Nat)
  /-- R193: Fused d + a × b with one rounding. -/
  | fma (d : Nat) (a : Nat) (b : Nat)
  /-- R193: Fused d − a × b with one rounding. -/
  | fnma (d : Nat) (a : Nat) (b : Nat)
  /-- R194: Chooses the smaller FP32 image, ignoring a single NaN. -/
  | fmin (d : Nat) (a : Nat) (b : Nat)
  /-- R194: Chooses the larger FP32 image, ignoring a single NaN. -/
  | fmax (d : Nat) (a : Nat) (b : Nat)
  /-- R195: Clears the sign bit, keeping S. -/
  | fabs (d : Nat) (a : Nat)
  /-- R195: Inverts the sign bit, keeping S. -/
  | fneg (d : Nat) (a : Nat)
  /-- R195: Copies vb's sign bit onto va. -/
  | fcopysign (d : Nat) (a : Nat) (b : Nat)
  /-- R196: Adds two BF16 element products to vd with one rounding. -/
  | fdot2Bf16 (d : Nat) (a : Nat) (b : Nat)
  /-- R196: Adds four E4M3 element products to vd with one rounding. -/
  | fdot4E4m3 (d : Nat) (a : Nat) (b : Nat)
  /-- R196: Adds four E5M2 element products to vd with one rounding. -/
  | fdot4E5m2 (d : Nat) (a : Nat) (b : Nat)
  /-- R196: Adds eight E2M1 element products to vd with one rounding. -/
  | fdot8E2m1 (d : Nat) (a : Nat) (b : Nat)
  /-- R198: Reciprocal rounded to 12 significant bits by RNE. -/
  | frcpa (d : Nat) (a : Nat)
  /-- R198: Reciprocal square root rounded to 12 significant bits. -/
  | frsqa (d : Nat) (a : Nat)
  /-- R198: Base-2 exponential rounded to 12 significant bits. -/
  | fexp2a (d : Nat) (a : Nat)
  /-- R198: Base-2 logarithm rounded to 12 significant bits. -/
  | flog2a (d : Nat) (a : Nat)
  /-- R200: Correctly rounded FP32 square root. -/
  | fsqrt (d : Nat) (a : Nat)
  /-- R200: Correctly rounded FP32 division. -/
  | fdiv (d : Nat) (a : Nat) (b : Nat)
  /-- R202: Converts a signed integer to FP32. -/
  | cvtF32I32 (d : Nat) (a : Nat) (r : Nat)
  /-- R202: Converts an unsigned integer to FP32. -/
  | cvtF32N32 (d : Nat) (a : Nat) (r : Nat)
  /-- R203: Converts FP32 to a saturated signed integer. -/
  | cvtI32F32 (d : Nat) (a : Nat) (r : Nat)
  /-- R203: Converts FP32 to a saturated unsigned integer. -/
  | cvtN32F32 (d : Nat) (a : Nat) (r : Nat)
  /-- R204: Narrows the held value to its BF16 carrier. -/
  | nrwBf16 (d : Nat) (a : Nat)
  /-- R204: Narrows the held value to its FP16 carrier. -/
  | nrwF16 (d : Nat) (a : Nat)
  /-- R204: Narrows the held value to its E4M3 carrier. -/
  | nrwE4m3 (d : Nat) (a : Nat)
  /-- R204: Narrows the held value to its E5M2 carrier. -/
  | nrwE5m2 (d : Nat) (a : Nat)
  /-- R204: Narrows the held value to its E2M1 carrier. -/
  | nrwE2m1 (d : Nat) (a : Nat)
  /-- R205: Final-rounds to BF16 in the register, consuming one draw number. -/
  | finBf16 (d : Nat) (a : Nat)
  /-- R205: Final-rounds to FP16 in the register. -/
  | finF16 (d : Nat) (a : Nat)
  /-- R205: Final-rounds to E4M3 in the register. -/
  | finE4m3 (d : Nat) (a : Nat)
  /-- R205: Final-rounds to E5M2 in the register. -/
  | finE5m2 (d : Nat) (a : Nat)
  /-- R205: Final-rounds to E2M1 in the register. -/
  | finE2m1 (d : Nat) (a : Nat)
  /-- R206: Final-rounds two values into packed BF16 halves. -/
  | pack2Bf16 (d : Nat) (a : Nat) (b : Nat)
  /-- R206: Final-rounds two values into packed FP16 halves. -/
  | pack2F16 (d : Nat) (a : Nat) (b : Nat)
  /-- R207: Final-rounds four consecutive registers into E4M3 bytes. -/
  | pack4E4m3 (d : Nat) (a : Nat)
  /-- R207: Final-rounds four consecutive registers into E5M2 bytes. -/
  | pack4E5m2 (d : Nat) (a : Nat)
  /-- R208: Decodes one BF16 element exactly to FP32. -/
  | widBf16 (d : Nat) (a : Nat) (k : Nat)
  /-- R208: Decodes one FP16 element exactly to FP32. -/
  | widF16 (d : Nat) (a : Nat) (k : Nat)
  /-- R208: Decodes one E4M3 element exactly to FP32. -/
  | widE4m3 (d : Nat) (a : Nat) (k : Nat)
  /-- R208: Decodes one E5M2 element exactly to FP32. -/
  | widE5m2 (d : Nat) (a : Nat) (k : Nat)
  /-- R183: Reads va from the thread in the virtual lane named by vb, falling back and clearing p7 otherwise. -/
  | vshfl (d : Nat) (a : Nat) (b : Nat)
  /-- R183: Reads va from the virtual lane l xor vb. -/
  | vshflx (d : Nat) (a : Nat) (b : Nat)
  /-- R183: Reads va from the thread with the logical index vb. -/
  | vshfll (d : Nat) (a : Nat) (b : Nat)
  /-- R183: Broadcasts va from virtual lane n. -/
  | vbcast (d : Nat) (a : Nat) (n : Nat)
  /-- R184: Inclusive integer prefix sum in ascending rank. -/
  | vscanI32 (d : Nat) (a : Nat)
  /-- R184: Inclusive FP32 prefix sum in ascending rank, rounding each addition. -/
  | vscanF32 (d : Nat) (a : Nat)
  /-- R184: Integer sum over active lanes written to every lane. -/
  | vredI32 (d : Nat) (a : Nat)
  /-- R184: FP32 sum in ascending rank written to every lane. -/
  | vredF32 (d : Nat) (a : Nat)
  /-- R185: Writes the largest FP32 image of the active lanes to every lane. -/
  | vredmax (d : Nat) (a : Nat)
  /-- R185: Writes the smallest FP32 image of the active lanes to every lane. -/
  | vredmin (d : Nat) (a : Nat)
  /-- R186: Votes a lane predicate into each subset's uniform predicate. -/
  | vvote (d : Nat) (a : Nat) (m : Nat)
  /-- R187: Writes a mask of predicate lanes to each subset's uniform register. -/
  | vballot (d : Nat) (a : Nat) (m : Nat)
  /-- R188: Writes the count of active lanes with the predicate set. -/
  | vcount (d : Nat) (a : Nat)
  /-- R229: Loads a zero-extended byte per lane through a capability. -/
  | ldN8 (t : Nat) (x : Nat) (s : Nat) (l : Nat)
  /-- R229: LD.n8 with a 32-bit literal displacement. -/
  | ldN8Twin (t : Nat) (x : Nat) (s : Nat) (l : Nat) (w : Nat)
  /-- R229: Loads a sign-extended byte per lane. -/
  | ldI8 (t : Nat) (x : Nat) (s : Nat) (l : Nat)
  /-- R229: LD.i8 with a literal displacement. -/
  | ldI8Twin (t : Nat) (x : Nat) (s : Nat) (l : Nat) (w : Nat)
  /-- R229: Loads a zero-extended halfword per lane. -/
  | ldN16 (t : Nat) (x : Nat) (s : Nat) (l : Nat)
  /-- R229: LD.n16 with a literal displacement. -/
  | ldN16Twin (t : Nat) (x : Nat) (s : Nat) (l : Nat) (w : Nat)
  /-- R229: Loads a sign-extended halfword per lane. -/
  | ldI16 (t : Nat) (x : Nat) (s : Nat) (l : Nat)
  /-- R229: LD.i16 with a literal displacement. -/
  | ldI16Twin (t : Nat) (x : Nat) (s : Nat) (l : Nat) (w : Nat)
  /-- R229: Loads a 32-bit word per lane. -/
  | ldB32 (t : Nat) (x : Nat) (s : Nat) (l : Nat)
  /-- R229: LD.b32 with a literal displacement. -/
  | ldB32Twin (t : Nat) (x : Nat) (s : Nat) (l : Nat) (w : Nat)
  /-- R229: Loads 8 bytes per lane into two registers. -/
  | ldB64 (t : Nat) (x : Nat) (s : Nat) (l : Nat)
  /-- R229: LD.b64 with a literal displacement. -/
  | ldB64Twin (t : Nat) (x : Nat) (s : Nat) (l : Nat) (w : Nat)
  /-- R229: Loads 16 bytes per lane into four registers. -/
  | ldB128 (t : Nat) (x : Nat) (s : Nat) (l : Nat)
  /-- R229: LD.b128 with a literal displacement. -/
  | ldB128Twin (t : Nat) (x : Nat) (s : Nat) (l : Nat) (w : Nat)
  /-- R230: Stores a byte per lane, dropping S and raising inexact if set. -/
  | stB8 (t : Nat) (x : Nat) (s : Nat) (l : Nat)
  /-- R230: ST.b8 with a literal displacement. -/
  | stB8Twin (t : Nat) (x : Nat) (s : Nat) (l : Nat) (w : Nat)
  /-- R230: Stores a halfword per lane. -/
  | stB16 (t : Nat) (x : Nat) (s : Nat) (l : Nat)
  /-- R230: ST.b16 with a literal displacement. -/
  | stB16Twin (t : Nat) (x : Nat) (s : Nat) (l : Nat) (w : Nat)
  /-- R230: Stores a word per lane. -/
  | stB32 (t : Nat) (x : Nat) (s : Nat) (l : Nat)
  /-- R230: ST.b32 with a literal displacement. -/
  | stB32Twin (t : Nat) (x : Nat) (s : Nat) (l : Nat) (w : Nat)
  /-- R230: Stores 8 bytes per lane from two registers. -/
  | stB64 (t : Nat) (x : Nat) (s : Nat) (l : Nat)
  /-- R230: ST.b64 with a literal displacement. -/
  | stB64Twin (t : Nat) (x : Nat) (s : Nat) (l : Nat) (w : Nat)
  /-- R230: Stores 16 bytes per lane from four registers. -/
  | stB128 (t : Nat) (x : Nat) (s : Nat) (l : Nat)
  /-- R230: ST.b128 with a literal displacement. -/
  | stB128Twin (t : Nat) (x : Nat) (s : Nat) (l : Nat) (w : Nat)
  /-- R231: Loads and decodes a BF16 element exactly. -/
  | ldBf16 (t : Nat) (x : Nat) (s : Nat) (l : Nat)
  /-- R231: LD.bf16 with a literal displacement. -/
  | ldBf16Twin (t : Nat) (x : Nat) (s : Nat) (l : Nat) (w : Nat)
  /-- R231: Loads and decodes an FP16 element exactly. -/
  | ldF16 (t : Nat) (x : Nat) (s : Nat) (l : Nat)
  /-- R231: LD.f16 with a literal displacement. -/
  | ldF16Twin (t : Nat) (x : Nat) (s : Nat) (l : Nat) (w : Nat)
  /-- R231: Loads and decodes an E4M3 element exactly. -/
  | ldE4m3 (t : Nat) (x : Nat) (s : Nat) (l : Nat)
  /-- R231: LD.e4m3 with a literal displacement. -/
  | ldE4m3Twin (t : Nat) (x : Nat) (s : Nat) (l : Nat) (w : Nat)
  /-- R231: Loads and decodes an E5M2 element exactly. -/
  | ldE5m2 (t : Nat) (x : Nat) (s : Nat) (l : Nat)
  /-- R231: LD.e5m2 with a literal displacement. -/
  | ldE5m2Twin (t : Nat) (x : Nat) (s : Nat) (l : Nat) (w : Nat)
  /-- R233: Loads and decodes a pair of ZB4 block elements with their scale pair. -/
  | ldZb4 (t : Nat) (x : Nat) (s : Nat) (l : Nat)
  /-- R233: LD.zb4 with a whole-block literal displacement. -/
  | ldZb4Twin (t : Nat) (x : Nat) (s : Nat) (l : Nat) (w : Nat)
  /-- R233: Loads and decodes a pair of ZB8 block elements. -/
  | ldZb8 (t : Nat) (x : Nat) (s : Nat) (l : Nat)
  /-- R233: LD.zb8 with a whole-block literal displacement. -/
  | ldZb8Twin (t : Nat) (x : Nat) (s : Nat) (l : Nat) (w : Nat)
  /-- R232: Final-rounds to BF16 and stores, one draw number per lane. -/
  | stBf16 (t : Nat) (x : Nat) (s : Nat) (l : Nat)
  /-- R232: ST.bf16 with a literal displacement. -/
  | stBf16Twin (t : Nat) (x : Nat) (s : Nat) (l : Nat) (w : Nat)
  /-- R232: Final-rounds to FP16 and stores. -/
  | stF16 (t : Nat) (x : Nat) (s : Nat) (l : Nat)
  /-- R232: ST.f16 with a literal displacement. -/
  | stF16Twin (t : Nat) (x : Nat) (s : Nat) (l : Nat) (w : Nat)
  /-- R232: Final-rounds to E4M3 and stores. -/
  | stE4m3 (t : Nat) (x : Nat) (s : Nat) (l : Nat)
  /-- R232: ST.e4m3 with a literal displacement. -/
  | stE4m3Twin (t : Nat) (x : Nat) (s : Nat) (l : Nat) (w : Nat)
  /-- R232: Final-rounds to E5M2 and stores. -/
  | stE5m2 (t : Nat) (x : Nat) (s : Nat) (l : Nat)
  /-- R232: ST.e5m2 with a literal displacement. -/
  | stE5m2Twin (t : Nat) (x : Nat) (s : Nat) (l : Nat) (w : Nat)
  /-- R234: Encodes whole ZB4 blocks from the group's supplied pairs and stores data and scales. -/
  | stZb4 (t : Nat) (x : Nat) (s : Nat) (l : Nat)
  /-- R234: ST.zb4 with a whole-block literal displacement. -/
  | stZb4Twin (t : Nat) (x : Nat) (s : Nat) (l : Nat) (w : Nat)
  /-- R234: Encodes whole ZB8 blocks from supplied pairs and stores them. -/
  | stZb8 (t : Nat) (x : Nat) (s : Nat) (l : Nat)
  /-- R234: ST.zb8 with a whole-block literal displacement. -/
  | stZb8Twin (t : Nat) (x : Nat) (s : Nat) (l : Nat) (w : Nat)
  /-- R235: Stores a register image with its S bit as 8 bytes. -/
  | vspill (t : Nat) (x : Nat) (s : Nat) (l : Nat)
  /-- R235: VSPILL with a literal displacement. -/
  | vspillTwin (t : Nat) (x : Nat) (s : Nat) (l : Nat) (w : Nat)
  /-- R235: Loads 8 bytes restoring a register image and its S bit. -/
  | vfill (t : Nat) (x : Nat) (s : Nat) (l : Nat)
  /-- R235: VFILL with a literal displacement. -/
  | vfillTwin (t : Nat) (x : Nat) (s : Nat) (l : Nat) (w : Nat)
  /-- R256: Loads a word per lane from a glade region's present or single plane. -/
  | ldgB32 (t : Nat) (x : Nat) (s : Nat) (l : Nat)
  /-- R256: Loads 8 glade bytes per lane. -/
  | ldgB64 (t : Nat) (x : Nat) (s : Nat) (l : Nat)
  /-- R256: Loads 16 glade bytes per lane. -/
  | ldgB128 (t : Nat) (x : Nat) (s : Nat) (l : Nat)
  /-- R256: Stores a word per lane to the next or single plane, recording the rank. -/
  | stgB32 (t : Nat) (x : Nat) (s : Nat) (l : Nat)
  /-- R256: Stores 8 glade bytes per lane. -/
  | stgB64 (t : Nat) (x : Nat) (s : Nat) (l : Nat)
  /-- R256: Stores 16 glade bytes per lane. -/
  | stgB128 (t : Nat) (x : Nat) (s : Nat) (l : Nat)
  /-- R256: Loads a word from a gang member team's region. -/
  | ldgmB32 (t : Nat) (x : Nat) (s : Nat) (l : Nat)
  /-- R256: Stores a word to a gang member team's region. -/
  | stgmB32 (t : Nat) (x : Nat) (s : Nat) (l : Nat)
  /-- R259: Looks up a key in the tag table and returns its slot or a miss value. -/
  | tlook (t : Nat) (x : Nat) (l : Nat)
  /-- R259: Sets a tag-table entry for a key at the given way. -/
  | tset (t : Nat) (x : Nat) (l : Nat)
  /-- R259: Invalidates the tag-table entry holding a key. -/
  | tclr (x : Nat) (l : Nat)
  /-- R264: Global atomic 32-bit add returning the old word, with ordering by the order field. -/
  | aaddI32 (r : Nat) (t : Nat) (x : Nat) (s : Nat) (l : Nat)
  /-- R264: Global atomic 64-bit add returning the old value. -/
  | aaddI64 (r : Nat) (t : Nat) (x : Nat) (s : Nat) (l : Nat)
  /-- R264: Global atomic signed minimum. -/
  | aminI32 (r : Nat) (t : Nat) (x : Nat) (s : Nat) (l : Nat)
  /-- R264: Global atomic signed maximum. -/
  | amaxI32 (r : Nat) (t : Nat) (x : Nat) (s : Nat) (l : Nat)
  /-- R264: Global atomic unsigned minimum. -/
  | aminN32 (r : Nat) (t : Nat) (x : Nat) (s : Nat) (l : Nat)
  /-- R264: Global atomic unsigned maximum. -/
  | amaxN32 (r : Nat) (t : Nat) (x : Nat) (s : Nat) (l : Nat)
  /-- R264: Global atomic AND. -/
  | aand (r : Nat) (t : Nat) (x : Nat) (s : Nat) (l : Nat)
  /-- R264: Global atomic OR. -/
  | aor (r : Nat) (t : Nat) (x : Nat) (s : Nat) (l : Nat)
  /-- R264: Global atomic XOR. -/
  | axor (r : Nat) (t : Nat) (x : Nat) (s : Nat) (l : Nat)
  /-- R264: Global atomic exchange. -/
  | axchg (r : Nat) (t : Nat) (x : Nat) (s : Nat) (l : Nat)
  /-- R264: Global atomic compare-and-swap. -/
  | acas (r : Nat) (t : Nat) (x : Nat) (s : Nat) (l : Nat)
  /-- R265: Global unordered FP32 atomic add rounded at the home. -/
  | aaddF32U (r : Nat) (t : Nat) (x : Nat) (s : Nat) (l : Nat)
  /-- R267: Contributes an FP32 value to an ordered object for the deterministic launch-end fold. -/
  | aaddF32O (t : Nat) (x : Nat) (s : Nat) (l : Nat)
  /-- R275: Loads a glade word and tries to take its lock bit, acquiring at .core. -/
  | ldl (t : Nat) (x : Nat) (s : Nat) (l : Nat)
  /-- R275: Stores a glade word and releases its lock bit, releasing at .core. -/
  | stul (t : Nat) (x : Nat) (s : Nat) (l : Nat)
  /-- R276: Glade atomic integer add. -/
  | gaddI32 (t : Nat) (x : Nat) (s : Nat) (l : Nat)
  /-- R276: Glade atomic FP32 add. -/
  | gaddF32 (t : Nat) (x : Nat) (s : Nat) (l : Nat)
  /-- R276: Glade atomic signed maximum. -/
  | gmaxI32 (t : Nat) (x : Nat) (s : Nat) (l : Nat)
  /-- R276: Glade atomic exchange. -/
  | gxchg (t : Nat) (x : Nat) (s : Nat) (l : Nat)
  /-- R276: Glade atomic compare-and-swap. -/
  | gcas (t : Nat) (x : Nat) (s : Nat) (l : Nat)
  /-- R355: Folds lane fields into an i32 checksum accumulator in rank order. -/
  | ckaccI32 (d : Nat) (a : Nat)
  /-- R355: Folds FP32 lane values exactly into an f32 checksum accumulator. -/
  | ckaccF32 (d : Nat) (a : Nat)
  /-- R355: Folds lane bytes into a CRC-32C checksum accumulator. -/
  | ckaccSig (d : Nat) (a : Nat)
  /-- R147: Uniform 64-bit add per subset. -/
  | sadd (d : Nat) (a : Nat) (b : Nat) (g : Nat)
  /-- R147: Uniform 64-bit subtract. -/
  | ssub (d : Nat) (a : Nat) (b : Nat) (g : Nat)
  /-- R147: Uniform 64-bit multiply. -/
  | smul (d : Nat) (a : Nat) (b : Nat) (g : Nat)
  /-- R147: High half of the signed 128-bit product. -/
  | smulh (d : Nat) (a : Nat) (b : Nat) (g : Nat)
  /-- R147: Uniform bitwise AND. -/
  | sand (d : Nat) (a : Nat) (b : Nat) (g : Nat)
  /-- R147: Uniform bitwise OR. -/
  | sor (d : Nat) (a : Nat) (b : Nat) (g : Nat)
  /-- R147: Uniform bitwise XOR. -/
  | sxor (d : Nat) (a : Nat) (b : Nat) (g : Nat)
  /-- R147: Uniform shift left. -/
  | sshl (d : Nat) (a : Nat) (b : Nat) (g : Nat)
  /-- R147: Uniform logical shift right. -/
  | sshrN (d : Nat) (a : Nat) (b : Nat) (g : Nat)
  /-- R147: Uniform arithmetic shift right. -/
  | sshrI (d : Nat) (a : Nat) (b : Nat) (g : Nat)
  /-- R147: Uniform signed minimum. -/
  | sminI (d : Nat) (a : Nat) (b : Nat) (g : Nat)
  /-- R147: Uniform signed maximum. -/
  | smaxI (d : Nat) (a : Nat) (b : Nat) (g : Nat)
  /-- R147: Uniform register move. -/
  | smov (d : Nat) (a : Nat) (g : Nat)
  /-- R148: Selects s_a or s_b by the guard predicate, always running. -/
  | ssel (d : Nat) (a : Nat) (b : Nat) (g : Nat)
  /-- R147: Counts the set bits of a uniform register. -/
  | spopc (d : Nat) (a : Nat) (g : Nat)
  /-- R147: Counts the leading zeros of a uniform register. -/
  | sclz (d : Nat) (a : Nat) (g : Nat)
  /-- R149: Signed compare into a uniform predicate. -/
  | scmpI (q : Nat) (c : Nat) (a : Nat) (b : Nat) (g : Nat)
  /-- R149: Unsigned compare into a uniform predicate. -/
  | scmpN (q : Nat) (c : Nat) (a : Nat) (b : Nat) (g : Nat)
  /-- R151: Adds a sign-extended 9-bit immediate. -/
  | saddi (d : Nat) (a : Nat) (i : Nat)
  /-- R151: Adds a sign-extended 32-bit literal. -/
  | saddiTwin (d : Nat) (a : Nat) (w : Nat)
  /-- R151: Shifts left by an immediate count 0 to 63. -/
  | sshli (d : Nat) (a : Nat) (i : Nat)
  /-- R151: ANDs with a sign-extended immediate. -/
  | sandi (d : Nat) (a : Nat) (i : Nat)
  /-- R151: Loads a sign-extended 9-bit immediate. -/
  | sli (d : Nat) (i : Nat)
  /-- R151: Loads a sign-extended 32-bit literal. -/
  | sliTwin (d : Nat) (w : Nat)
  /-- R152: Loads a 64-bit constant from two literal words. -/
  | sli64 (d : Nat) (w : Nat) (w2 : Nat)
  /-- R153: Reads the selected logical identity value into a uniform register. -/
  | sid (d : Nat) (s : Nat)
  /-- R150: Combines two uniform predicates by the selected logic operation. -/
  | qlog (q : Nat) (o : Nat) (a : Nat) (b : Nat) (g : Nat)
  /-- R154: Narrows a capability's bounds by an offset and length pair. -/
  | cbnd (d : Nat) (a : Nat) (b : Nat) (g : Nat)
  /-- R155: Narrows a capability's rights by a mask. -/
  | crgt (d : Nat) (a : Nat) (b : Nat) (g : Nat)
  /-- R156: Recolours a capability under the T right. -/
  | ccol (d : Nat) (a : Nat) (b : Nat) (g : Nat)
  /-- R157: Reads a selected field of a capability into a uniform register. -/
  | cget (d : Nat) (a : Nat) (b : Nat) (g : Nat)
  /-- R158: Copies a capability with its validity bit. -/
  | cmov (d : Nat) (a : Nat) (g : Nat)
  /-- R160: Loads a 16-byte capability with its validity bit from memory. -/
  | cld (d : Nat) (c : Nat) (b : Nat) (l : Nat)
  /-- R161: Stores a capability with its validity bit as one atomic update. -/
  | cst (d : Nat) (c : Nat) (b : Nat) (l : Nat)
  /-- R162: Recolours a run of memory granules and clears their validity bits. -/
  | ctag (d : Nat) (c : Nat) (b : Nat) (l : Nat)
  /-- R159: Tests validity, right and bounds of an access into a uniform predicate without trapping. -/
  | cchk (q : Nat) (r : Nat) (a : Nat) (b : Nat) (g : Nat)
  /-- R158: Writes the null capability. -/
  | cnull (d : Nat) (g : Nat)
  /-- R120: Branches each subset whose uniform predicate is true, dissolving the group on disagreement. -/
  | bq (k : Nat) (o : Nat)
  /-- R120: Branches each subset whose uniform predicate is false. -/
  | bqn (k : Nat) (o : Nat)
  /-- R120: Branches each lane whose lane predicate is set, filing threads in bins on disagreement. -/
  | brl (k : Nat) (o : Nat)
  /-- R120: Branches each lane whose lane predicate is clear. -/
  | brln (k : Nat) (o : Nat)
  /-- R121: Writes the link register and branches. -/
  | call (o : Nat)
  /-- R122: Returns to the address in a uniform register. -/
  | ret (a : Nat) (g : Nat)
  /-- R123: Jumps through a code capability, replacing c31. -/
  | jmpc (d : Nat) (a : Nat) (b : Nat) (g : Nat)
  /-- R124: Files the group's threads in bins at a join point. -/
  | reform (g : Nat)
  /-- R128: Issues a melded region of up to 32 instructions for both predicate paths. -/
  | heat (k : Nat) (n : Nat) (m : Nat)
  /-- R127: Loads the path A and path B rename tables of heat names. -/
  | hmap (a : Nat) (b : Nat)
  /-- R125: Ends the threads whose guard holds. -/
  | exit (g : Nat)
  /-- R126: Does nothing but occupy an issue slot. -/
  | nop (g : Nat)
  /-- R117: Waits until at most n long-latency instructions are incomplete. -/
  | waitm (n : Nat)
  /-- R118: Waits until each thread has at most n unacknowledged stores. -/
  | waits (n : Nat)
  /-- R163: Uniform 32-bit load per subset. -/
  | sldB32 (d : Nat) (c : Nat) (b : Nat) (l : Nat)
  /-- R163: SLD.b32 with a literal displacement. -/
  | sldB32Twin (d : Nat) (c : Nat) (b : Nat) (l : Nat) (w : Nat)
  /-- R163: Uniform 64-bit load per subset. -/
  | sldB64 (d : Nat) (c : Nat) (b : Nat) (l : Nat)
  /-- R163: SLD.b64 with a literal displacement. -/
  | sldB64Twin (d : Nat) (c : Nat) (b : Nat) (l : Nat) (w : Nat)
  /-- R163: Uniform 32-bit store per subset. -/
  | sstB32 (d : Nat) (c : Nat) (b : Nat) (l : Nat)
  /-- R163: SST.b32 with a literal displacement. -/
  | sstB32Twin (d : Nat) (c : Nat) (b : Nat) (l : Nat) (w : Nat)
  /-- R163: Uniform 64-bit store per subset. -/
  | sstB64 (d : Nat) (c : Nat) (b : Nat) (l : Nat)
  /-- R163: SST.b64 with a literal displacement. -/
  | sstB64Twin (d : Nat) (c : Nat) (b : Nat) (l : Nat) (w : Nat)
  /-- R277: Acquire fence: earlier loads complete before later memory instructions issue. -/
  | fenceAcq (s : Nat)
  /-- R277: Release fence: earlier loads complete and st and rc stores acknowledged. -/
  | fenceRel (s : Nat)
  /-- R277: Full fence over every page kind. -/
  | fenceFull (s : Nat)
  /-- R280: Arrives at a barrier and waits for its phase. -/
  | bar (l : Nat)
  /-- R280: Arrives at a barrier without waiting for its phase. -/
  | bara (l : Nat)
  /-- R280: Waits for the phase of the thread's latest arrival. -/
  | barw (l : Nat)
  /-- R258: Arrives at a step of the masked dual-plane regions. -/
  | gstep (m : Nat)
  /-- R257: Arrives at a team-wide configuration of a glade region. -/
  | gcfg (a : Nat) (k : Nat)
  /-- R298: Queues an inline copy operation described by an eight-register parameter block. -/
  | cpy (a : Nat) (b : Nat) (i : Nat) (l : Nat)
  /-- R299: Queues a chain of transfer records on a channel. -/
  | cpyc (a : Nat) (b : Nat) (i : Nat) (l : Nat)
  /-- R304: Queues a copy into the glade that fires a matrix command when it lands. -/
  | cpym (a : Nat) (b : Nat) (i : Nat) (l : Nat)
  /-- R305: Copies from a gang member's shared region into the issuer's region. -/
  | halo (a : Nat) (l : Nat)
  /-- R306: Seals the wave-of-origin's open copy batch and returns its number. -/
  | cbseal (d : Nat)
  /-- R307: Waits until at most n sealed batches are unfinished, then acquires. -/
  | cbwait (n : Nat)
  /-- R309: Raises a program timeline as a release at .pod. -/
  | tlsig (a : Nat) (b : Nat)
  /-- R310: Waits for a timeline to reach a value, then acquires. -/
  | tlwait (a : Nat) (b : Nat)
  /-- R311: Reads a timeline's value without ordering. -/
  | tlrd (a : Nat) (b : Nat)
  /-- R340: Queues a weight load into a macro bank with checksum computation. -/
  | mwld (a : Nat) (l : Nat)
  /-- R346: Queues a multiply of a glade tile by a bank into the accumulator. -/
  | mmul (a : Nat) (l : Nat)
  /-- R349: Queues a clear of masked accumulator rows. -/
  | mclr (a : Nat) (l : Nat)
  /-- R350: Queues a read of 32 accumulator cells into a lane register. -/
  | mrd (a : Nat) (l : Nat)
  /-- R351: Queues a writeback of accumulator rows to the glade in a chosen format. -/
  | mstg (a : Nat) (l : Nat)
  /-- R353: Reads a macro's status word. -/
  | mstat (d : Nat) (m : Nat)
  /-- R342: Queues a load of a sparse bank's 2:4 metadata. -/
  | mspl (a : Nat) (l : Nat)
  /-- R372: Queues a relay program run for the gang. -/
  | rlrun (a : Nat) (b : Nat) (d : Nat) (l : Nat)
  /-- R373: Invalidates the die's cached rank lists for later runs. -/
  | rlinv (l : Nat)
  /-- R374: Reads the gang's relay status. -/
  | rlstat (a : Nat)
  /-- R358: Compares two checksum accumulators, trapping or writing a predicate. -/
  | ckchk (a : Nat) (b : Nat) (m : Nat)
  /-- R357: Reads a part of a checksum accumulator. -/
  | ckrd (d : Nat) (a : Nat) (b : Nat) (g : Nat)
  /-- R356: Clears a checksum accumulator and sets its kind. -/
  | ckclr (d : Nat) (b : Nat) (g : Nat)
  /-- R394: Reads the gang's virtual clock. -/
  | vclk (d : Nat) (g : Nat)
  /-- R395: Arms a timer with a relative or absolute deadline, optionally as a patience timer. -/
  | tmarm (a : Nat) (b : Nat) (p : Nat) (s : Nat)
  /-- R395: Waits while a timer is armed or held. -/
  | tmwait (a : Nat)
  /-- R395: Cancels a timer to idle. -/
  | tmcan (a : Nat)
  /-- R396: Removes the first due inbox event into four uniform registers. -/
  | evpop (d : Nat) (b : Nat) (g : Nat)
  /-- R397: Reads a gang performance counter. -/
  | pcnt (d : Nat) (s : Nat)
  /-- R398: Reads a control and status register. -/
  | csrr (d : Nat) (i : Nat)
  /-- R399: Writes %mode or %flags of each subset's wave-of-origin. -/
  | csrw (a : Nat) (i : Nat)
  /-- R400: Raises a SOFTWARE trap carrying code n. -/
  | trap (n : Nat)
  /-- R401: Service call 0, which only fences and returns. -/
  | syscNull (d : Nat) (a : Nat)
  /-- R401: Service call 1 posting an event to a peer gang's inbox. -/
  | syscPostPeerEvent (d : Nat) (a : Nat)
  /-- R401: Service call 2 posting an event to the host. -/
  | syscPostHostEvent (d : Nat) (a : Nat)
  /-- R401: Service call 3 ending the launch as a fatal SOFTWARE trap. -/
  | syscEndLaunch (d : Nat) (a : Nat)
  /-- R401: Service codes 4 to 15, returning status 0x01. -/
  | syscReserved (d : Nat) (a : Nat) (c : Nat)
  /-- R432: Runtime service 16 pre-empting the calling gang for h real ticks. -/
  | syscHold (d : Nat) (a : Nat)
  /-- R437: Runtime service 17 evicting one page of a section of the caller's launch. -/
  | syscEvict (d : Nat) (a : Nat)
  /-- R401: Other loader-runtime service codes 18 to 255, or status 0x01 when absent. -/
  | syscRuntimeService (d : Nat) (a : Nat) (c : Nat)
  /-- R400: Raises a BREAKPOINT trap, or a debugger halt when attached. -/
  | brk (n : Nat)
  /-- R427: Builds and queues a spawn record from device registers. -/
  | spawn (d : Nat) (k : Nat) (b : Nat)
deriving DecidableEq, Repr

end Sys2Proof
end

