-- ==== Sys2Proof/WellFormed.lean ====
section
/-! DEFINITION. Which instructions are well formed for a kernel with `.regs` lane registers, inside or outside a heat:
the limits of R76, the illegal field values of each entry and the HEAT masks of R81 (the encoding checks of R85). -/
namespace Sys2Proof

/-- A lane register field (R76): below `.regs`, or 120 to 127 inside a heat, where it is h0 to h7. -/
def vOk (r : Nat) (h : Bool) (x : Nat) : Bool := decide (x < 128) && (decide (x < r) || (h && decide (120 ≤ x)))

/-- A span of registers x to x + k, each checked as a field (R76, R214). -/
def vSpan (r : Nat) (h : Bool) (x : Nat) : Nat → Bool
  | 0 => vOk r h x
  | k + 1 => vSpan r h x k && vOk r h (x + k + 1)

/-- A capability destination: c1 to c30 (R146). -/
def cDst (x : Nat) : Bool := decide (0 < x) && decide (x < 31)

/-- A timeline that TLWAIT and TLRD may name: t0 to t6, t8 to t15 (R76). -/
def tOk (x : Nat) : Bool := decide (x < 16) && !(x == 7)

/-- A parameter block's first register (R298): 8, 16, ..., 56. -/
def blockReg (x : Nat) : Bool := decide (8 ≤ x) && decide (x ≤ 56) && x % 8 == 0

/-- The first of four registers (R396, R401): a multiple of 4 from 4 to 60. -/
def quadReg (x : Nat) : Bool := decide (4 ≤ x) && decide (x ≤ 60) && x % 4 == 0

/-- The 2-bit mask of heat instruction i (R81). -/
def maskAt (m i : Nat) : Nat := m / 4 ^ i % 4

/-- No mask among the first n is 0b00. -/
def masksNonzero (m : Nat) : Nat → Bool
  | 0 => true
  | n + 1 => masksNonzero m n && !(maskAt m n == 0)

/-- The HEAT masks are legal (R81): nonzero among the first n, zero beyond. -/
def masksOk (n m : Nat) : Bool := masksNonzero m n && m / 4 ^ n == 0

/-- The encoding checks of R85 for `.regs` = regs; heat says whether the instruction stands in a heat. -/
def Instr.wellFormed (regs : Nat) (heat : Bool) : Instr → Bool
  | .groupFormation _ => true
  | .binAgeLimit _ _ => true
  | .thinGroupYield _ => true
  | .loadSectorReturn _ => true
  | .atomicPerformed _ => true
  | .storeAcknowledged _ => true
  | .storeRefused _ => true
  | .orderedValidate _ => true
  | .memorySideFault _ => true
  | .faultEntersLog _ => true
  | .faultReplay _ => true
  | .faultDeclaredFatal _ => true
  | .cancel _ _ _ => true
  | .memoryPortInvalidate _ _ => true
  | .trapResume _ => true
  | .trapDeclareFatal _ => true
  | .scoreboardEntryRetire _ _ => true
  | .gstepArrivalsComplete _ _ => true
  | .gstepDrained _ _ => true
  | .gcfgArrivalsComplete _ _ => true
  | .gcfgDrained _ _ => true
  | .barrierPhaseComplete _ _ => true
  | .copyOperationStart _ _ _ => true
  | .copyOperationFinish _ _ => true
  | .copyOperationAbort _ _ => true
  | .chainRecordWalk _ _ => true
  | .cpymFollowIssue _ _ => true
  | .macroCommandStart _ _ => true
  | .macroCommandFinish _ _ => true
  | .relayRunStart _ => true
  | .relaySend _ => true
  | .relayRecv _ => true
  | .relayRrs _ => true
  | .relayRrd _ => true
  | .relayCopy _ => true
  | .relayWait _ => true
  | .relayLoop _ => true
  | .relayEnd _ => true
  | .relayChunkArrival _ _ _ _ _ _ _ _ _ => true
  | .flitLanded _ => true
  | .reduceKernelDispatch _ _ => true
  | .relayAbortNotice _ _ _ => true
  | .relayPatienceExpired _ => true
  | .holdNotice _ => true
  | .resumeNotice _ => true
  | .timerExpiry _ _ => true
  | .inboxEventArrival _ _ _ _ _ _ => true
  | .hostEventStore _ _ => true
  | .spawnWindowStore _ _ _ _ => true
  | .launchHeadCheck _ _ => true
  | .dependenceMet _ _ => true
  | .launchAdmit _ _ => true
  | .headAging _ _ => true
  | .gangPlace _ _ _ _ => true
  | .priorityPreemption _ _ => true
  | .timeSliceExpiry _ _ => true
  | .gangStop _ _ => true
  | .gangSaved _ => true
  | .gangResume _ _ _ => true
  | .gangPack _ _ => true
  | .gangMigrateAccept _ => true
  | .gangRetire _ => true
  | .launchComplete _ => true
  | .launchReplay _ => true
  | .snapshotPageCopy _ _ => true
  | .scrubSector _ _ => true
  | .linkFailure _ => true
  | .powerSample _ _ => true
  | .functionReset _ => true
  | .flowClosed _ _ => true
  | .settingWrite _ _ _ => true
  | .hostMemoryAccess _ _ _ _ _ _ => true
  | .zpfLoad _ _ _ _ _ _ => true
  | .decodeTableLoad _ _ => true
  | .coldReset => true
  | .moduleReset => true
  | .bootRomStart => true
  | .trainingDone => true
  | .thermalThrottle _ _ _ => true
  | .overTemperature _ _ => true
  | .overTemperatureClear _ _ => true
  | .thermalTrip _ _ => true
  | .pldmFirmwareUpdate _ => true
  | .activateCommit => true
  | .pldmPlatformMonitoring _ _ _ => true
  | .getVersion => true
  | .getCapabilities => true
  | .negotiateAlgorithms _ => true
  | .getDigests => true
  | .getCertificate _ _ => true
  | .getMeasurements _ _ => true
  | .unassignedOpcode => true
  | .serviceCallReply _ _ _ _ _ _ => true
  | .peerModuleAccess _ _ _ _ _ _ => true
  | .vadd d a b => vOk regs heat d && vOk regs heat a && vOk regs heat b
  | .vsub d a b => vOk regs heat d && vOk regs heat a && vOk regs heat b
  | .vmul d a b => vOk regs heat d && vOk regs heat a && vOk regs heat b
  | .vmulhI32 d a b => vOk regs heat d && vOk regs heat a && vOk regs heat b
  | .vmulhN32 d a b => vOk regs heat d && vOk regs heat a && vOk regs heat b
  | .vmad d a b => vOk regs heat d && vOk regs heat a && vOk regs heat b
  | .vaddsI32 d a b => vOk regs heat d && vOk regs heat a && vOk regs heat b
  | .vsubsI32 d a b => vOk regs heat d && vOk regs heat a && vOk regs heat b
  | .vaddsN32 d a b => vOk regs heat d && vOk regs heat a && vOk regs heat b
  | .vsubsN32 d a b => vOk regs heat d && vOk regs heat a && vOk regs heat b
  | .vand d a b => vOk regs heat d && vOk regs heat a && vOk regs heat b
  | .vor d a b => vOk regs heat d && vOk regs heat a && vOk regs heat b
  | .vxor d a b => vOk regs heat d && vOk regs heat a && vOk regs heat b
  | .vandn d a b => vOk regs heat d && vOk regs heat a && vOk regs heat b
  | .vshl d a b => vOk regs heat d && vOk regs heat a && vOk regs heat b
  | .vshrN32 d a b => vOk regs heat d && vOk regs heat a && vOk regs heat b
  | .vshrI32 d a b => vOk regs heat d && vOk regs heat a && vOk regs heat b
  | .vminI32 d a b => vOk regs heat d && vOk regs heat a && vOk regs heat b
  | .vminN32 d a b => vOk regs heat d && vOk regs heat a && vOk regs heat b
  | .vmaxI32 d a b => vOk regs heat d && vOk regs heat a && vOk regs heat b
  | .vmaxN32 d a b => vOk regs heat d && vOk regs heat a && vOk regs heat b
  | .vabsI32 d a => vOk regs heat d && vOk regs heat a
  | .vpopc d a => vOk regs heat d && vOk regs heat a
  | .vclz d a => vOk regs heat d && vOk regs heat a
  | .vbfx d a b => vOk regs heat d && vOk regs heat a && vOk regs heat b
  | .vbfi d a b => vOk regs heat d && vOk regs heat a && vOk regs heat b
  | .vdot4I8 d a b => vOk regs heat d && vOk regs heat a && vOk regs heat b
  | .vdot4N8 d a b => vOk regs heat d && vOk regs heat a && vOk regs heat b
  | .vmov d a => vOk regs heat d && vOk regs heat a
  | .vmovs d a h => vOk regs heat d && decide (a < 64) && decide (h < 2)
  | .vid d s => vOk regs heat d && decide (s < 7)
  | .vaddi d a i => vOk regs heat d && vOk regs heat a && decide (i < 128)
  | .vaddiTwin d a w => vOk regs heat d && vOk regs heat a && decide (w < 4294967296)
  | .vshli d a i => vOk regs heat d && vOk regs heat a && decide (i < 32)
  | .vshriN32 d a i => vOk regs heat d && vOk regs heat a && decide (i < 32)
  | .vshriI32 d a i => vOk regs heat d && vOk regs heat a && decide (i < 32)
  | .vandi d a i => vOk regs heat d && vOk regs heat a && decide (i < 128)
  | .vandiTwin d a w => vOk regs heat d && vOk regs heat a && decide (w < 4294967296)
  | .vli d i => vOk regs heat d && decide (i < 128)
  | .vliTwin d w => vOk regs heat d && decide (w < 4294967296)
  | .icmpI32 p c a b => decide (p < 8) && decide (c < 8) && vOk regs heat a && vOk regs heat b
  | .icmpN32 p c a b => decide (p < 8) && decide (c < 8) && vOk regs heat a && vOk regs heat b
  | .fcmpF32 p c a b => decide (p < 8) && decide (c < 8) && vOk regs heat a && vOk regs heat b
  | .fcmpX p c a b => decide (p < 8) && decide (c < 8) && vOk regs heat a && vOk regs heat b
  | .plog p o a b => decide (p < 8) && decide (o < 8) && decide (a < 8) && decide (b < 8)
  | .vtop p a => decide (p < 8) && vOk regs heat a
  | .vfromp d b => vOk regs heat d && decide (b < 8)
  | .vsel k d a b => decide (k < 8) && vOk regs heat d && vOk regs heat a && vOk regs heat b
  | .fadd d a b => vOk regs heat d && vOk regs heat a && vOk regs heat b
  | .fsub d a b => vOk regs heat d && vOk regs heat a && vOk regs heat b
  | .fmul d a b => vOk regs heat d && vOk regs heat a && vOk regs heat b
  | .fma d a b => vOk regs heat d && vOk regs heat a && vOk regs heat b
  | .fnma d a b => vOk regs heat d && vOk regs heat a && vOk regs heat b
  | .fmin d a b => vOk regs heat d && vOk regs heat a && vOk regs heat b
  | .fmax d a b => vOk regs heat d && vOk regs heat a && vOk regs heat b
  | .fabs d a => vOk regs heat d && vOk regs heat a
  | .fneg d a => vOk regs heat d && vOk regs heat a
  | .fcopysign d a b => vOk regs heat d && vOk regs heat a && vOk regs heat b
  | .fdot2Bf16 d a b => vOk regs heat d && vOk regs heat a && vOk regs heat b
  | .fdot4E4m3 d a b => vOk regs heat d && vOk regs heat a && vOk regs heat b
  | .fdot4E5m2 d a b => vOk regs heat d && vOk regs heat a && vOk regs heat b
  | .fdot8E2m1 d a b => vOk regs heat d && vOk regs heat a && vOk regs heat b
  | .frcpa d a => vOk regs heat d && vOk regs heat a
  | .frsqa d a => vOk regs heat d && vOk regs heat a
  | .fexp2a d a => vOk regs heat d && vOk regs heat a
  | .flog2a d a => vOk regs heat d && vOk regs heat a
  | .fsqrt d a => vOk regs heat d && vOk regs heat a
  | .fdiv d a b => vOk regs heat d && vOk regs heat a && vOk regs heat b
  | .cvtF32I32 d a r => vOk regs heat d && vOk regs heat a && decide (r < 6)
  | .cvtF32N32 d a r => vOk regs heat d && vOk regs heat a && decide (r < 6)
  | .cvtI32F32 d a r => vOk regs heat d && vOk regs heat a && decide (r < 6)
  | .cvtN32F32 d a r => vOk regs heat d && vOk regs heat a && decide (r < 6)
  | .nrwBf16 d a => vOk regs heat d && vOk regs heat a
  | .nrwF16 d a => vOk regs heat d && vOk regs heat a
  | .nrwE4m3 d a => vOk regs heat d && vOk regs heat a
  | .nrwE5m2 d a => vOk regs heat d && vOk regs heat a
  | .nrwE2m1 d a => vOk regs heat d && vOk regs heat a
  | .finBf16 d a => vOk regs heat d && vOk regs heat a
  | .finF16 d a => vOk regs heat d && vOk regs heat a
  | .finE4m3 d a => vOk regs heat d && vOk regs heat a
  | .finE5m2 d a => vOk regs heat d && vOk regs heat a
  | .finE2m1 d a => vOk regs heat d && vOk regs heat a
  | .pack2Bf16 d a b => vOk regs heat d && vOk regs heat a && vOk regs heat b
  | .pack2F16 d a b => vOk regs heat d && vOk regs heat a && vOk regs heat b
  | .pack4E4m3 d a => vOk regs heat d && vSpan regs heat a 3
  | .pack4E5m2 d a => vOk regs heat d && vSpan regs heat a 3
  | .widBf16 d a k => vOk regs heat d && vOk regs heat a && decide (k < 2)
  | .widF16 d a k => vOk regs heat d && vOk regs heat a && decide (k < 2)
  | .widE4m3 d a k => vOk regs heat d && vOk regs heat a && decide (k < 4)
  | .widE5m2 d a k => vOk regs heat d && vOk regs heat a && decide (k < 4)
  | .vshfl d a b => vOk regs heat d && vOk regs heat a && vOk regs heat b
  | .vshflx d a b => vOk regs heat d && vOk regs heat a && vOk regs heat b
  | .vshfll d a b => vOk regs heat d && vOk regs heat a && vOk regs heat b
  | .vbcast d a n => vOk regs heat d && vOk regs heat a && decide (n < 32)
  | .vscanI32 d a => vOk regs heat d && vOk regs heat a
  | .vscanF32 d a => vOk regs heat d && vOk regs heat a
  | .vredI32 d a => vOk regs heat d && vOk regs heat a
  | .vredF32 d a => vOk regs heat d && vOk regs heat a
  | .vredmax d a => vOk regs heat d && vOk regs heat a
  | .vredmin d a => vOk regs heat d && vOk regs heat a
  | .vvote d a m => decide (d < 8) && decide (a < 8) && decide (m < 3)
  | .vballot d a m => decide (d < 64) && decide (a < 8) && decide (m < 2)
  | .vcount d a => vOk regs heat d && decide (a < 8)
  | .ldN8 t x s l => vOk regs heat t && vOk regs heat x && decide (s < 8) && decide (l < 16)
  | .ldN8Twin t x s l w => vOk regs heat t && vOk regs heat x && decide (s < 8) && decide (l < 16) && decide (w < 4294967296)
  | .ldI8 t x s l => vOk regs heat t && vOk regs heat x && decide (s < 8) && decide (l < 16)
  | .ldI8Twin t x s l w => vOk regs heat t && vOk regs heat x && decide (s < 8) && decide (l < 16) && decide (w < 4294967296)
  | .ldN16 t x s l => vOk regs heat t && vOk regs heat x && decide (s < 8) && decide (l < 16)
  | .ldN16Twin t x s l w => vOk regs heat t && vOk regs heat x && decide (s < 8) && decide (l < 16) && decide (w < 4294967296)
  | .ldI16 t x s l => vOk regs heat t && vOk regs heat x && decide (s < 8) && decide (l < 16)
  | .ldI16Twin t x s l w => vOk regs heat t && vOk regs heat x && decide (s < 8) && decide (l < 16) && decide (w < 4294967296)
  | .ldB32 t x s l => vOk regs heat t && vOk regs heat x && decide (s < 8) && decide (l < 16)
  | .ldB32Twin t x s l w => vOk regs heat t && vOk regs heat x && decide (s < 8) && decide (l < 16) && decide (w < 4294967296)
  | .ldB64 t x s l => vSpan regs heat t 1 && vOk regs heat x && decide (s < 8) && decide (l < 16)
  | .ldB64Twin t x s l w => vSpan regs heat t 1 && vOk regs heat x && decide (s < 8) && decide (l < 16) && decide (w < 4294967296)
  | .ldB128 t x s l => vSpan regs heat t 3 && vOk regs heat x && decide (s < 8) && decide (l < 16)
  | .ldB128Twin t x s l w => vSpan regs heat t 3 && vOk regs heat x && decide (s < 8) && decide (l < 16) && decide (w < 4294967296)
  | .stB8 t x s l => vOk regs heat t && vOk regs heat x && decide (s < 8) && decide (l < 16)
  | .stB8Twin t x s l w => vOk regs heat t && vOk regs heat x && decide (s < 8) && decide (l < 16) && decide (w < 4294967296)
  | .stB16 t x s l => vOk regs heat t && vOk regs heat x && decide (s < 8) && decide (l < 16)
  | .stB16Twin t x s l w => vOk regs heat t && vOk regs heat x && decide (s < 8) && decide (l < 16) && decide (w < 4294967296)
  | .stB32 t x s l => vOk regs heat t && vOk regs heat x && decide (s < 8) && decide (l < 16)
  | .stB32Twin t x s l w => vOk regs heat t && vOk regs heat x && decide (s < 8) && decide (l < 16) && decide (w < 4294967296)
  | .stB64 t x s l => vSpan regs heat t 1 && vOk regs heat x && decide (s < 8) && decide (l < 16)
  | .stB64Twin t x s l w => vSpan regs heat t 1 && vOk regs heat x && decide (s < 8) && decide (l < 16) && decide (w < 4294967296)
  | .stB128 t x s l => vSpan regs heat t 3 && vOk regs heat x && decide (s < 8) && decide (l < 16)
  | .stB128Twin t x s l w => vSpan regs heat t 3 && vOk regs heat x && decide (s < 8) && decide (l < 16) && decide (w < 4294967296)
  | .ldBf16 t x s l => vOk regs heat t && vOk regs heat x && decide (s < 8) && decide (l < 16)
  | .ldBf16Twin t x s l w => vOk regs heat t && vOk regs heat x && decide (s < 8) && decide (l < 16) && decide (w < 4294967296)
  | .ldF16 t x s l => vOk regs heat t && vOk regs heat x && decide (s < 8) && decide (l < 16)
  | .ldF16Twin t x s l w => vOk regs heat t && vOk regs heat x && decide (s < 8) && decide (l < 16) && decide (w < 4294967296)
  | .ldE4m3 t x s l => vOk regs heat t && vOk regs heat x && decide (s < 8) && decide (l < 16)
  | .ldE4m3Twin t x s l w => vOk regs heat t && vOk regs heat x && decide (s < 8) && decide (l < 16) && decide (w < 4294967296)
  | .ldE5m2 t x s l => vOk regs heat t && vOk regs heat x && decide (s < 8) && decide (l < 16)
  | .ldE5m2Twin t x s l w => vOk regs heat t && vOk regs heat x && decide (s < 8) && decide (l < 16) && decide (w < 4294967296)
  | .ldZb4 t x s l => vSpan regs heat t 1 && vOk regs heat x && decide (s < 7) && decide (l < 16)
  | .ldZb4Twin t x s l w => vSpan regs heat t 1 && vOk regs heat x && decide (s < 7) && decide (l < 16) && decide (w < 4294967296) && w % 32 == 0
  | .ldZb8 t x s l => vSpan regs heat t 1 && vOk regs heat x && decide (s < 7) && decide (l < 16)
  | .ldZb8Twin t x s l w => vSpan regs heat t 1 && vOk regs heat x && decide (s < 7) && decide (l < 16) && decide (w < 4294967296) && w % 64 == 0
  | .stBf16 t x s l => vOk regs heat t && vOk regs heat x && decide (s < 8) && decide (l < 16)
  | .stBf16Twin t x s l w => vOk regs heat t && vOk regs heat x && decide (s < 8) && decide (l < 16) && decide (w < 4294967296)
  | .stF16 t x s l => vOk regs heat t && vOk regs heat x && decide (s < 8) && decide (l < 16)
  | .stF16Twin t x s l w => vOk regs heat t && vOk regs heat x && decide (s < 8) && decide (l < 16) && decide (w < 4294967296)
  | .stE4m3 t x s l => vOk regs heat t && vOk regs heat x && decide (s < 8) && decide (l < 16)
  | .stE4m3Twin t x s l w => vOk regs heat t && vOk regs heat x && decide (s < 8) && decide (l < 16) && decide (w < 4294967296)
  | .stE5m2 t x s l => vOk regs heat t && vOk regs heat x && decide (s < 8) && decide (l < 16)
  | .stE5m2Twin t x s l w => vOk regs heat t && vOk regs heat x && decide (s < 8) && decide (l < 16) && decide (w < 4294967296)
  | .stZb4 t x s l => vSpan regs heat t 1 && vOk regs heat x && decide (s < 7) && decide (l < 16)
  | .stZb4Twin t x s l w => vSpan regs heat t 1 && vOk regs heat x && decide (s < 7) && decide (l < 16) && decide (w < 4294967296) && w % 32 == 0
  | .stZb8 t x s l => vSpan regs heat t 1 && vOk regs heat x && decide (s < 7) && decide (l < 16)
  | .stZb8Twin t x s l w => vSpan regs heat t 1 && vOk regs heat x && decide (s < 7) && decide (l < 16) && decide (w < 4294967296) && w % 64 == 0
  | .vspill t x s l => vOk regs heat t && vOk regs heat x && decide (s < 8) && decide (l < 16)
  | .vspillTwin t x s l w => vOk regs heat t && vOk regs heat x && decide (s < 8) && decide (l < 16) && decide (w < 4294967296)
  | .vfill t x s l => vOk regs heat t && vOk regs heat x && decide (s < 8) && decide (l < 16)
  | .vfillTwin t x s l w => vOk regs heat t && vOk regs heat x && decide (s < 8) && decide (l < 16) && decide (w < 4294967296)
  | .ldgB32 t x s l => vOk regs heat t && vOk regs heat x && decide (s < 8) && decide (l < 16)
  | .ldgB64 t x s l => vSpan regs heat t 1 && vOk regs heat x && decide (s < 8) && decide (l < 16)
  | .ldgB128 t x s l => vSpan regs heat t 3 && vOk regs heat x && decide (s < 8) && decide (l < 16)
  | .stgB32 t x s l => vOk regs heat t && vOk regs heat x && decide (s < 8) && decide (l < 16)
  | .stgB64 t x s l => vSpan regs heat t 1 && vOk regs heat x && decide (s < 8) && decide (l < 16)
  | .stgB128 t x s l => vSpan regs heat t 3 && vOk regs heat x && decide (s < 8) && decide (l < 16)
  | .ldgmB32 t x s l => vOk regs heat t && vOk regs heat x && decide (s < 8) && decide (l < 16)
  | .stgmB32 t x s l => vOk regs heat t && vOk regs heat x && decide (s < 8) && decide (l < 16)
  | .tlook t x l => vOk regs heat t && vOk regs heat x && decide (l < 16)
  | .tset t x l => vOk regs heat t && vOk regs heat x && decide (l < 16)
  | .tclr x l => vOk regs heat x && decide (l < 16)
  | .aaddI32 r t x s l => decide (r < 4) && vOk regs heat t && vOk regs heat x && decide (s < 8) && decide (l < 16)
  | .aaddI64 r t x s l => decide (r < 4) && vSpan regs heat t 1 && vOk regs heat x && decide (s < 8) && decide (l < 16)
  | .aminI32 r t x s l => decide (r < 4) && vOk regs heat t && vOk regs heat x && decide (s < 8) && decide (l < 16)
  | .amaxI32 r t x s l => decide (r < 4) && vOk regs heat t && vOk regs heat x && decide (s < 8) && decide (l < 16)
  | .aminN32 r t x s l => decide (r < 4) && vOk regs heat t && vOk regs heat x && decide (s < 8) && decide (l < 16)
  | .amaxN32 r t x s l => decide (r < 4) && vOk regs heat t && vOk regs heat x && decide (s < 8) && decide (l < 16)
  | .aand r t x s l => decide (r < 4) && vOk regs heat t && vOk regs heat x && decide (s < 8) && decide (l < 16)
  | .aor r t x s l => decide (r < 4) && vOk regs heat t && vOk regs heat x && decide (s < 8) && decide (l < 16)
  | .axor r t x s l => decide (r < 4) && vOk regs heat t && vOk regs heat x && decide (s < 8) && decide (l < 16)
  | .axchg r t x s l => decide (r < 4) && vOk regs heat t && vOk regs heat x && decide (s < 8) && decide (l < 16)
  | .acas r t x s l => decide (r < 4) && vSpan regs heat t 1 && vOk regs heat x && decide (s < 8) && decide (l < 16)
  | .aaddF32U r t x s l => decide (r < 4) && vOk regs heat t && vOk regs heat x && decide (s < 8) && decide (l < 16)
  | .aaddF32O t x s l => vOk regs heat t && vOk regs heat x && decide (s < 8) && decide (l < 16)
  | .ldl t x s l => vOk regs heat t && vOk regs heat x && decide (s < 8) && decide (l < 16)
  | .stul t x s l => vOk regs heat t && vOk regs heat x && decide (s < 8) && decide (l < 16)
  | .gaddI32 t x s l => vOk regs heat t && vOk regs heat x && decide (s < 8) && decide (l < 16)
  | .gaddF32 t x s l => vOk regs heat t && vOk regs heat x && decide (s < 8) && decide (l < 16)
  | .gmaxI32 t x s l => vOk regs heat t && vOk regs heat x && decide (s < 8) && decide (l < 16)
  | .gxchg t x s l => vOk regs heat t && vOk regs heat x && decide (s < 8) && decide (l < 16)
  | .gcas t x s l => vSpan regs heat t 1 && vOk regs heat x && decide (s < 8) && decide (l < 16)
  | .ckaccI32 d a => decide (d < 4) && vOk regs heat a
  | .ckaccF32 d a => decide (d < 4) && vOk regs heat a
  | .ckaccSig d a => decide (d < 4) && vOk regs heat a
  | .sadd d a b g => decide (d < 64) && decide (a < 64) && decide (b < 64) && decide (g < 8)
  | .ssub d a b g => decide (d < 64) && decide (a < 64) && decide (b < 64) && decide (g < 8)
  | .smul d a b g => decide (d < 64) && decide (a < 64) && decide (b < 64) && decide (g < 8)
  | .smulh d a b g => decide (d < 64) && decide (a < 64) && decide (b < 64) && decide (g < 8)
  | .sand d a b g => decide (d < 64) && decide (a < 64) && decide (b < 64) && decide (g < 8)
  | .sor d a b g => decide (d < 64) && decide (a < 64) && decide (b < 64) && decide (g < 8)
  | .sxor d a b g => decide (d < 64) && decide (a < 64) && decide (b < 64) && decide (g < 8)
  | .sshl d a b g => decide (d < 64) && decide (a < 64) && decide (b < 64) && decide (g < 8)
  | .sshrN d a b g => decide (d < 64) && decide (a < 64) && decide (b < 64) && decide (g < 8)
  | .sshrI d a b g => decide (d < 64) && decide (a < 64) && decide (b < 64) && decide (g < 8)
  | .sminI d a b g => decide (d < 64) && decide (a < 64) && decide (b < 64) && decide (g < 8)
  | .smaxI d a b g => decide (d < 64) && decide (a < 64) && decide (b < 64) && decide (g < 8)
  | .smov d a g => decide (d < 64) && decide (a < 64) && decide (g < 8)
  | .ssel d a b g => decide (d < 64) && decide (a < 64) && decide (b < 64) && decide (g < 8)
  | .spopc d a g => decide (d < 64) && decide (a < 64) && decide (g < 8)
  | .sclz d a g => decide (d < 64) && decide (a < 64) && decide (g < 8)
  | .scmpI q c a b g => decide (q < 8) && decide (c < 8) && decide (a < 64) && decide (b < 64) && decide (g < 8)
  | .scmpN q c a b g => decide (q < 8) && decide (c < 8) && decide (a < 64) && decide (b < 64) && decide (g < 8)
  | .saddi d a i => decide (d < 64) && decide (a < 64) && decide (i < 512)
  | .saddiTwin d a w => decide (d < 64) && decide (a < 64) && decide (w < 4294967296)
  | .sshli d a i => decide (d < 64) && decide (a < 64) && decide (i < 64)
  | .sandi d a i => decide (d < 64) && decide (a < 64) && decide (i < 512)
  | .sli d i => decide (d < 64) && decide (i < 512)
  | .sliTwin d w => decide (d < 64) && decide (w < 4294967296)
  | .sli64 d w w2 => decide (d < 64) && decide (w < 4294967296) && decide (w2 < 4294967296)
  | .sid d s => decide (d < 64) && decide (s < 7)
  | .qlog q o a b g => decide (q < 8) && decide (o < 8) && decide (a < 8) && decide (b < 8) && decide (g < 8)
  | .cbnd d a b g => cDst d && decide (a < 32) && decide (b < 64) && decide (g < 8) && b % 2 == 0
  | .crgt d a b g => cDst d && decide (a < 32) && decide (b < 64) && decide (g < 8)
  | .ccol d a b g => cDst d && decide (a < 32) && decide (b < 64) && decide (g < 8)
  | .cget d a b g => decide (d < 64) && decide (a < 32) && decide (b < 8) && decide (g < 8)
  | .cmov d a g => cDst d && decide (a < 32) && decide (g < 8)
  | .cld d c b l => cDst d && decide (c < 32) && decide (b < 64) && decide (l < 16)
  | .cst d c b l => decide (d < 32) && decide (c < 32) && decide (b < 64) && decide (l < 16)
  | .ctag d c b l => decide (d < 64) && decide (c < 32) && decide (b < 64) && decide (l < 16)
  | .cchk q r a b g => decide (q < 8) && decide (r < 7) && decide (a < 32) && decide (b < 64) && decide (g < 8) && b % 2 == 0
  | .cnull d g => cDst d && decide (g < 8)
  | .bq k o => decide (k < 8) && decide (o < 262144)
  | .bqn k o => decide (k < 8) && decide (o < 262144)
  | .brl k o => decide (k < 8) && decide (o < 262144)
  | .brln k o => decide (k < 8) && decide (o < 262144)
  | .call o => decide (o < 262144)
  | .ret a g => decide (a < 64) && decide (g < 8)
  | .jmpc d a b g => decide (d < 64) && decide (a < 32) && decide (b < 64) && decide (g < 8)
  | .reform g => decide (g < 8)
  | .heat k n m => decide (k < 8) && decide (1 ≤ n) && decide (n ≤ 32) && masksOk n m
  | .hmap a b => decide (a < 64) && decide (b < 64)
  | .exit g => decide (g < 8)
  | .nop g => decide (g < 8)
  | .waitm n => decide (n < 256)
  | .waits n => decide (n < 256)
  | .sldB32 d c b l => decide (d < 64) && decide (c < 32) && decide (b < 64) && decide (l < 16)
  | .sldB32Twin d c b l w => decide (d < 64) && decide (c < 32) && decide (b < 64) && decide (l < 16) && decide (w < 4294967296)
  | .sldB64 d c b l => decide (d < 64) && decide (c < 32) && decide (b < 64) && decide (l < 16)
  | .sldB64Twin d c b l w => decide (d < 64) && decide (c < 32) && decide (b < 64) && decide (l < 16) && decide (w < 4294967296)
  | .sstB32 d c b l => decide (d < 64) && decide (c < 32) && decide (b < 64) && decide (l < 16)
  | .sstB32Twin d c b l w => decide (d < 64) && decide (c < 32) && decide (b < 64) && decide (l < 16) && decide (w < 4294967296)
  | .sstB64 d c b l => decide (d < 64) && decide (c < 32) && decide (b < 64) && decide (l < 16)
  | .sstB64Twin d c b l w => decide (d < 64) && decide (c < 32) && decide (b < 64) && decide (l < 16) && decide (w < 4294967296)
  | .fenceAcq s => decide (s < 6)
  | .fenceRel s => decide (s < 6)
  | .fenceFull s => decide (s < 6)
  | .bar l => decide (l < 3)
  | .bara l => decide (l < 3)
  | .barw l => decide (l < 3)
  | .gstep m => decide (0 < m) && decide (m < 256)
  | .gcfg a k => decide (a < 64) && decide (k < 8)
  | .cpy a b i l => blockReg a && decide (b < 32) && decide (i < 32) && decide (l < 16)
  | .cpyc a b i l => decide (a < 32) && decide (b < 64) && decide (i < 4) && decide (l < 16)
  | .cpym a b i l => blockReg a && decide (b < 32) && decide (i < 32) && decide (l < 16)
  | .halo a l => blockReg a && decide (l < 16)
  | .cbseal d => decide (d < 64)
  | .cbwait n => decide (n < 256)
  | .tlsig a b => decide (8 ≤ a) && decide (a < 16) && decide (b < 64)
  | .tlwait a b => tOk a && decide (b < 64)
  | .tlrd a b => decide (a < 64) && tOk b
  | .mwld a l => decide (a < 64) && decide (l < 16)
  | .mmul a l => decide (a < 64) && decide (l < 16)
  | .mclr a l => decide (a < 64) && decide (l < 16)
  | .mrd a l => decide (a < 64) && decide (l < 16)
  | .mstg a l => decide (a < 64) && decide (l < 16)
  | .mstat d m => decide (d < 64) && decide (m < 2)
  | .mspl a l => decide (a < 64) && decide (l < 16)
  | .rlrun a b d l => decide (a < 32) && decide (b < 64) && decide (d < 29) && decide (l < 16)
  | .rlinv l => decide (l < 16)
  | .rlstat a => decide (a < 64)
  | .ckchk a b m => decide (a < 4) && decide (b < 4) && decide (m < 8)
  | .ckrd d a b g => decide (d < 64) && decide (a < 4) && decide (b < 6) && decide (g < 8)
  | .ckclr d b g => decide (d < 4) && decide (b < 3) && decide (g < 8)
  | .vclk d g => decide (d < 64) && decide (g < 8)
  | .tmarm a b p s => decide (a < 4) && decide (b < 64) && decide (p < 2) && decide (s < 2) && (p == 0 || b % 2 == 0)
  | .tmwait a => decide (a < 4)
  | .tmcan a => decide (a < 4)
  | .evpop d b g => quadReg d && decide (b < 8) && decide (g < 8)
  | .pcnt d s => decide (d < 64) && decide (s < 12)
  | .csrr d i => decide (d < 64) && decide (i < 6)
  | .csrw a i => decide (a < 64) && decide (i < 2)
  | .trap n => decide (n < 256)
  | .syscNull d a => decide (d < 64) && quadReg a
  | .syscPostPeerEvent d a => decide (d < 64) && quadReg a
  | .syscPostHostEvent d a => decide (d < 64) && quadReg a
  | .syscEndLaunch d a => decide (d < 64) && quadReg a
  | .syscReserved d a c => decide (d < 64) && quadReg a && decide (4 ≤ c) && decide (c < 16)
  | .syscHold d a => decide (d < 64) && quadReg a
  | .syscEvict d a => decide (d < 64) && quadReg a
  | .syscRuntimeService d a c => decide (d < 64) && quadReg a && decide (18 ≤ c) && decide (c < 256)
  | .brk n => decide (n < 256)
  | .spawn d k b => decide (d < 64) && decide (k < 25) && decide (b < 56)

end Sys2Proof
end

