-- ==== Sys2Proof/Decode.lean ====
section
/-! DEFINITION. The decoder from words and bytes, rejecting by name, and after it the encoder, both from the encoding tables of 04_encoding
and of each instruction's entry. A key is the set bit and OP10 of a first word (bits 31:21), the number the decode table of R95 uses. -/
namespace Sys2Proof

/-- Why a word is not an instruction. -/
inductive DecodeErr where
  /-- OP10 that R82 to R84 do not assign (safe: the machine takes ILLEGAL_INSTRUCTION, R85). -/
  | unassigned
  /-- A reserved order combination of R84 (safe: as above). -/
  | reservedOrder
  /-- A must-be-zero bit is set (R77; safe: as above). -/
  | nonzeroField
  /-- A SYSC code above 255 (R401; safe: as above). -/
  | badCode
  /-- Bytes missing: fewer than the instruction's words (only for `decode` on short lists). -/
  | truncated
deriving DecidableEq, Repr

/-- Bits lo + n - 1 down to lo. -/
def fld (w lo n : Nat) : Nat := w / 2 ^ lo % 2 ^ n

/-- The key of a first word: bits 31:21. -/
def keyOf (w : Nat) : Nat := fld w 21 11

/-- Accept i when the must-be-zero bits z are 0 (R77). -/
def zeroThen (z : Nat) (i : Instr) : Except DecodeErr Instr := if z = 0 then .ok i else .error .nonzeroField

/-- The number of literal words of a first word with key k (R73). -/
def litWords (k w : Nat) : Nat :=
  if k = 0x624 then 2
  else if k = 0x469 then (if fld w 13 5 < 16 then 1 else 2)
  else if (0x300 ≤ k ∧ k < 0x320) ∨ k = 0x220 ∨ k = 0x224 ∨ k = 0x225 ∨ k = 0x620 ∨ k = 0x623 ∨ (0x680 ≤ k ∧ k < 0x684) then 1
  else 0

/-- A HEAT's masks from its literal words (R81). -/
def heatMasks (w l1 l2 : Nat) : Nat := if fld w 13 5 < 16 then l1 else l1 + l2 * 4294967296

/-- FENCE (R277): kind in bits 14:9. A kind other than 1 to 3 is illegal. -/
noncomputable def decodeFence (w : Nat) : Except DecodeErr Instr :=
  if fld w 15 6 ≠ 0 then .error .nonzeroField
  else if fld w 9 6 = 1 then .ok (.fenceAcq (fld w 0 9))
  else if fld w 9 6 = 2 then .ok (.fenceRel (fld w 0 9))
  else if fld w 9 6 = 3 then .ok (.fenceFull (fld w 0 9))
  else .error .badCode

/-- SYSC (R401): the service code in imm9; a negative imm9 is illegal. Codes 16 and 17 are HOLD (R432) and EVICT (R437). -/
noncomputable def decodeSysc (w : Nat) : Except DecodeErr Instr :=
  let c := fld w 0 9
  let d := fld w 15 6
  let a := fld w 9 6
  if c = 0 then .ok (.syscNull d a)
  else if c = 1 then .ok (.syscPostPeerEvent d a)
  else if c = 2 then .ok (.syscPostHostEvent d a)
  else if c = 3 then .ok (.syscEndLaunch d a)
  else if c < 16 then .ok (.syscReserved d a c)
  else if c = 16 then .ok (.syscHold d a)
  else if c = 17 then .ok (.syscEvict d a)
  else if c < 256 then .ok (.syscRuntimeService d a c)
  else .error .badCode

/-- Keys 0x0 to 0x1f (bit 10 of a key is the set: 0 lane, 1 uniform). -/
noncomputable def decodeBlock0 (k w l1 l2 : Nat) : Except DecodeErr Instr :=
  match k with
  | 0x0 => .ok (.vadd (fld w 14 7) (fld w 7 7) (fld w 0 7))
  | 0x1 => .ok (.vsub (fld w 14 7) (fld w 7 7) (fld w 0 7))
  | 0x2 => .ok (.vmul (fld w 14 7) (fld w 7 7) (fld w 0 7))
  | 0x3 => .ok (.vmulhI32 (fld w 14 7) (fld w 7 7) (fld w 0 7))
  | 0x4 => .ok (.vmulhN32 (fld w 14 7) (fld w 7 7) (fld w 0 7))
  | 0x5 => .ok (.vmad (fld w 14 7) (fld w 7 7) (fld w 0 7))
  | 0x6 => .ok (.vaddsI32 (fld w 14 7) (fld w 7 7) (fld w 0 7))
  | 0x7 => .ok (.vsubsI32 (fld w 14 7) (fld w 7 7) (fld w 0 7))
  | 0x8 => .ok (.vaddsN32 (fld w 14 7) (fld w 7 7) (fld w 0 7))
  | 0x9 => .ok (.vsubsN32 (fld w 14 7) (fld w 7 7) (fld w 0 7))
  | 0xa => .ok (.vand (fld w 14 7) (fld w 7 7) (fld w 0 7))
  | 0xb => .ok (.vor (fld w 14 7) (fld w 7 7) (fld w 0 7))
  | 0xc => .ok (.vxor (fld w 14 7) (fld w 7 7) (fld w 0 7))
  | 0xd => .ok (.vandn (fld w 14 7) (fld w 7 7) (fld w 0 7))
  | 0xe => .ok (.vshl (fld w 14 7) (fld w 7 7) (fld w 0 7))
  | 0xf => .ok (.vshrN32 (fld w 14 7) (fld w 7 7) (fld w 0 7))
  | 0x10 => .ok (.vshrI32 (fld w 14 7) (fld w 7 7) (fld w 0 7))
  | 0x11 => .ok (.vminI32 (fld w 14 7) (fld w 7 7) (fld w 0 7))
  | 0x12 => .ok (.vminN32 (fld w 14 7) (fld w 7 7) (fld w 0 7))
  | 0x13 => .ok (.vmaxI32 (fld w 14 7) (fld w 7 7) (fld w 0 7))
  | 0x14 => .ok (.vmaxN32 (fld w 14 7) (fld w 7 7) (fld w 0 7))
  | 0x15 => zeroThen (fld w 0 7) (.vabsI32 (fld w 14 7) (fld w 7 7))
  | 0x16 => zeroThen (fld w 0 7) (.vpopc (fld w 14 7) (fld w 7 7))
  | 0x17 => zeroThen (fld w 0 7) (.vclz (fld w 14 7) (fld w 7 7))
  | 0x18 => .ok (.vbfx (fld w 14 7) (fld w 7 7) (fld w 0 7))
  | 0x19 => .ok (.vbfi (fld w 14 7) (fld w 7 7) (fld w 0 7))
  | 0x1a => .ok (.vdot4I8 (fld w 14 7) (fld w 7 7) (fld w 0 7))
  | 0x1b => .ok (.vdot4N8 (fld w 14 7) (fld w 7 7) (fld w 0 7))
  | 0x1c => zeroThen (fld w 0 7) (.vmov (fld w 14 7) (fld w 7 7))
  | 0x1d => .ok (.vmovs (fld w 14 7) (fld w 7 7) (fld w 0 7))
  | 0x1e => zeroThen (fld w 7 7) (.vid (fld w 14 7) (fld w 0 7))
  | _ => .error .unassigned

/-- Keys 0x20 to 0x3f (bit 10 of a key is the set: 0 lane, 1 uniform). -/
noncomputable def decodeBlock1 (k w l1 l2 : Nat) : Except DecodeErr Instr :=
  match k with
  | 0x20 => .ok (.vaddi (fld w 14 7) (fld w 7 7) (fld w 0 7))
  | 0x21 => .ok (.vshli (fld w 14 7) (fld w 7 7) (fld w 0 7))
  | 0x22 => .ok (.vshriN32 (fld w 14 7) (fld w 7 7) (fld w 0 7))
  | 0x23 => .ok (.vshriI32 (fld w 14 7) (fld w 7 7) (fld w 0 7))
  | 0x24 => .ok (.vandi (fld w 14 7) (fld w 7 7) (fld w 0 7))
  | 0x25 => zeroThen (fld w 7 7) (.vli (fld w 14 7) (fld w 0 7))
  | 0x30 => .ok (.icmpI32 (fld w 18 3) (fld w 14 4) (fld w 7 7) (fld w 0 7))
  | 0x31 => .ok (.icmpN32 (fld w 18 3) (fld w 14 4) (fld w 7 7) (fld w 0 7))
  | 0x32 => .ok (.fcmpF32 (fld w 18 3) (fld w 14 4) (fld w 7 7) (fld w 0 7))
  | 0x33 => .ok (.fcmpX (fld w 18 3) (fld w 14 4) (fld w 7 7) (fld w 0 7))
  | 0x34 => .ok (.plog (fld w 18 3) (fld w 14 4) (fld w 7 7) (fld w 0 7))
  | 0x35 => zeroThen (fld w 0 7 + fld w 14 4) (.vtop (fld w 18 3) (fld w 7 7))
  | 0x36 => zeroThen (fld w 7 7) (.vfromp (fld w 14 7) (fld w 0 7))
  | 0x38 => .ok (.vsel (k - 56) (fld w 14 7) (fld w 7 7) (fld w 0 7))
  | 0x39 => .ok (.vsel (k - 56) (fld w 14 7) (fld w 7 7) (fld w 0 7))
  | 0x3a => .ok (.vsel (k - 56) (fld w 14 7) (fld w 7 7) (fld w 0 7))
  | 0x3b => .ok (.vsel (k - 56) (fld w 14 7) (fld w 7 7) (fld w 0 7))
  | 0x3c => .ok (.vsel (k - 56) (fld w 14 7) (fld w 7 7) (fld w 0 7))
  | 0x3d => .ok (.vsel (k - 56) (fld w 14 7) (fld w 7 7) (fld w 0 7))
  | 0x3e => .ok (.vsel (k - 56) (fld w 14 7) (fld w 7 7) (fld w 0 7))
  | 0x3f => .ok (.vsel (k - 56) (fld w 14 7) (fld w 7 7) (fld w 0 7))
  | _ => .error .unassigned

/-- Keys 0x40 to 0x5f (bit 10 of a key is the set: 0 lane, 1 uniform). -/
noncomputable def decodeBlock2 (k w l1 l2 : Nat) : Except DecodeErr Instr :=
  match k with
  | 0x40 => .ok (.fadd (fld w 14 7) (fld w 7 7) (fld w 0 7))
  | 0x41 => .ok (.fsub (fld w 14 7) (fld w 7 7) (fld w 0 7))
  | 0x42 => .ok (.fmul (fld w 14 7) (fld w 7 7) (fld w 0 7))
  | 0x43 => .ok (.fma (fld w 14 7) (fld w 7 7) (fld w 0 7))
  | 0x44 => .ok (.fnma (fld w 14 7) (fld w 7 7) (fld w 0 7))
  | 0x45 => .ok (.fmin (fld w 14 7) (fld w 7 7) (fld w 0 7))
  | 0x46 => .ok (.fmax (fld w 14 7) (fld w 7 7) (fld w 0 7))
  | 0x47 => zeroThen (fld w 0 7) (.fabs (fld w 14 7) (fld w 7 7))
  | 0x48 => zeroThen (fld w 0 7) (.fneg (fld w 14 7) (fld w 7 7))
  | 0x49 => .ok (.fcopysign (fld w 14 7) (fld w 7 7) (fld w 0 7))
  | 0x4a => .ok (.fdot2Bf16 (fld w 14 7) (fld w 7 7) (fld w 0 7))
  | 0x4b => .ok (.fdot4E4m3 (fld w 14 7) (fld w 7 7) (fld w 0 7))
  | 0x4c => .ok (.fdot4E5m2 (fld w 14 7) (fld w 7 7) (fld w 0 7))
  | 0x4d => .ok (.fdot8E2m1 (fld w 14 7) (fld w 7 7) (fld w 0 7))
  | 0x50 => zeroThen (fld w 0 7) (.frcpa (fld w 14 7) (fld w 7 7))
  | 0x51 => zeroThen (fld w 0 7) (.frsqa (fld w 14 7) (fld w 7 7))
  | 0x52 => zeroThen (fld w 0 7) (.fexp2a (fld w 14 7) (fld w 7 7))
  | 0x53 => zeroThen (fld w 0 7) (.flog2a (fld w 14 7) (fld w 7 7))
  | 0x54 => zeroThen (fld w 0 7) (.fsqrt (fld w 14 7) (fld w 7 7))
  | 0x55 => .ok (.fdiv (fld w 14 7) (fld w 7 7) (fld w 0 7))
  | 0x58 => .ok (.cvtF32I32 (fld w 14 7) (fld w 7 7) (fld w 0 7))
  | 0x59 => .ok (.cvtF32N32 (fld w 14 7) (fld w 7 7) (fld w 0 7))
  | 0x5a => .ok (.cvtI32F32 (fld w 14 7) (fld w 7 7) (fld w 0 7))
  | 0x5b => .ok (.cvtN32F32 (fld w 14 7) (fld w 7 7) (fld w 0 7))
  | _ => .error .unassigned

/-- Keys 0x60 to 0x7f (bit 10 of a key is the set: 0 lane, 1 uniform). -/
noncomputable def decodeBlock3 (k w l1 l2 : Nat) : Except DecodeErr Instr :=
  match k with
  | 0x60 => zeroThen (fld w 0 7) (.nrwBf16 (fld w 14 7) (fld w 7 7))
  | 0x61 => zeroThen (fld w 0 7) (.nrwF16 (fld w 14 7) (fld w 7 7))
  | 0x62 => zeroThen (fld w 0 7) (.nrwE4m3 (fld w 14 7) (fld w 7 7))
  | 0x63 => zeroThen (fld w 0 7) (.nrwE5m2 (fld w 14 7) (fld w 7 7))
  | 0x64 => zeroThen (fld w 0 7) (.nrwE2m1 (fld w 14 7) (fld w 7 7))
  | 0x68 => zeroThen (fld w 0 7) (.finBf16 (fld w 14 7) (fld w 7 7))
  | 0x69 => zeroThen (fld w 0 7) (.finF16 (fld w 14 7) (fld w 7 7))
  | 0x6a => zeroThen (fld w 0 7) (.finE4m3 (fld w 14 7) (fld w 7 7))
  | 0x6b => zeroThen (fld w 0 7) (.finE5m2 (fld w 14 7) (fld w 7 7))
  | 0x6c => zeroThen (fld w 0 7) (.finE2m1 (fld w 14 7) (fld w 7 7))
  | 0x70 => .ok (.pack2Bf16 (fld w 14 7) (fld w 7 7) (fld w 0 7))
  | 0x71 => .ok (.pack2F16 (fld w 14 7) (fld w 7 7) (fld w 0 7))
  | 0x72 => zeroThen (fld w 0 7) (.pack4E4m3 (fld w 14 7) (fld w 7 7))
  | 0x73 => zeroThen (fld w 0 7) (.pack4E5m2 (fld w 14 7) (fld w 7 7))
  | 0x74 => .ok (.widBf16 (fld w 14 7) (fld w 7 7) (fld w 0 7))
  | 0x75 => .ok (.widF16 (fld w 14 7) (fld w 7 7) (fld w 0 7))
  | 0x76 => .ok (.widE4m3 (fld w 14 7) (fld w 7 7) (fld w 0 7))
  | 0x77 => .ok (.widE5m2 (fld w 14 7) (fld w 7 7) (fld w 0 7))
  | _ => .error .unassigned

/-- Keys 0x80 to 0x9f (bit 10 of a key is the set: 0 lane, 1 uniform). -/
noncomputable def decodeBlock4 (k w l1 l2 : Nat) : Except DecodeErr Instr :=
  match k with
  | 0x80 => .ok (.vshfl (fld w 14 7) (fld w 7 7) (fld w 0 7))
  | 0x81 => .ok (.vshflx (fld w 14 7) (fld w 7 7) (fld w 0 7))
  | 0x82 => .ok (.vshfll (fld w 14 7) (fld w 7 7) (fld w 0 7))
  | 0x83 => .ok (.vbcast (fld w 14 7) (fld w 7 7) (fld w 0 7))
  | 0x84 => zeroThen (fld w 0 7) (.vscanI32 (fld w 14 7) (fld w 7 7))
  | 0x85 => zeroThen (fld w 0 7) (.vscanF32 (fld w 14 7) (fld w 7 7))
  | 0x86 => zeroThen (fld w 0 7) (.vredI32 (fld w 14 7) (fld w 7 7))
  | 0x87 => zeroThen (fld w 0 7) (.vredF32 (fld w 14 7) (fld w 7 7))
  | 0x88 => zeroThen (fld w 0 7) (.vredmax (fld w 14 7) (fld w 7 7))
  | 0x89 => zeroThen (fld w 0 7) (.vredmin (fld w 14 7) (fld w 7 7))
  | 0x8a => .ok (.vvote (fld w 14 7) (fld w 7 7) (fld w 0 7))
  | 0x8b => .ok (.vballot (fld w 14 7) (fld w 7 7) (fld w 0 7))
  | 0x8c => zeroThen (fld w 0 7) (.vcount (fld w 14 7) (fld w 7 7))
  | _ => .error .unassigned

/-- Keys 0x100 to 0x11f (bit 10 of a key is the set: 0 lane, 1 uniform). -/
noncomputable def decodeBlock8 (k w l1 l2 : Nat) : Except DecodeErr Instr :=
  match k with
  | 0x100 => .ok (.ldN8 (fld w 14 7) (fld w 7 7) (fld w 4 3) (fld w 0 4))
  | 0x101 => .ok (.ldI8 (fld w 14 7) (fld w 7 7) (fld w 4 3) (fld w 0 4))
  | 0x102 => .ok (.ldN16 (fld w 14 7) (fld w 7 7) (fld w 4 3) (fld w 0 4))
  | 0x103 => .ok (.ldI16 (fld w 14 7) (fld w 7 7) (fld w 4 3) (fld w 0 4))
  | 0x104 => .ok (.ldB32 (fld w 14 7) (fld w 7 7) (fld w 4 3) (fld w 0 4))
  | 0x105 => .ok (.ldB64 (fld w 14 7) (fld w 7 7) (fld w 4 3) (fld w 0 4))
  | 0x106 => .ok (.ldB128 (fld w 14 7) (fld w 7 7) (fld w 4 3) (fld w 0 4))
  | 0x108 => .ok (.stB8 (fld w 14 7) (fld w 7 7) (fld w 4 3) (fld w 0 4))
  | 0x109 => .ok (.stB16 (fld w 14 7) (fld w 7 7) (fld w 4 3) (fld w 0 4))
  | 0x10a => .ok (.stB32 (fld w 14 7) (fld w 7 7) (fld w 4 3) (fld w 0 4))
  | 0x10b => .ok (.stB64 (fld w 14 7) (fld w 7 7) (fld w 4 3) (fld w 0 4))
  | 0x10c => .ok (.stB128 (fld w 14 7) (fld w 7 7) (fld w 4 3) (fld w 0 4))
  | 0x110 => .ok (.ldBf16 (fld w 14 7) (fld w 7 7) (fld w 4 3) (fld w 0 4))
  | 0x111 => .ok (.ldF16 (fld w 14 7) (fld w 7 7) (fld w 4 3) (fld w 0 4))
  | 0x112 => .ok (.ldE4m3 (fld w 14 7) (fld w 7 7) (fld w 4 3) (fld w 0 4))
  | 0x113 => .ok (.ldE5m2 (fld w 14 7) (fld w 7 7) (fld w 4 3) (fld w 0 4))
  | 0x114 => .ok (.ldZb4 (fld w 14 7) (fld w 7 7) (fld w 4 3) (fld w 0 4))
  | 0x115 => .ok (.ldZb8 (fld w 14 7) (fld w 7 7) (fld w 4 3) (fld w 0 4))
  | 0x118 => .ok (.stBf16 (fld w 14 7) (fld w 7 7) (fld w 4 3) (fld w 0 4))
  | 0x119 => .ok (.stF16 (fld w 14 7) (fld w 7 7) (fld w 4 3) (fld w 0 4))
  | 0x11a => .ok (.stE4m3 (fld w 14 7) (fld w 7 7) (fld w 4 3) (fld w 0 4))
  | 0x11b => .ok (.stE5m2 (fld w 14 7) (fld w 7 7) (fld w 4 3) (fld w 0 4))
  | 0x11c => .ok (.stZb4 (fld w 14 7) (fld w 7 7) (fld w 4 3) (fld w 0 4))
  | 0x11d => .ok (.stZb8 (fld w 14 7) (fld w 7 7) (fld w 4 3) (fld w 0 4))
  | 0x11e => .ok (.vspill (fld w 14 7) (fld w 7 7) (fld w 4 3) (fld w 0 4))
  | 0x11f => .ok (.vfill (fld w 14 7) (fld w 7 7) (fld w 4 3) (fld w 0 4))
  | _ => .error .unassigned

/-- Keys 0x140 to 0x15f (bit 10 of a key is the set: 0 lane, 1 uniform). -/
noncomputable def decodeBlock10 (k w l1 l2 : Nat) : Except DecodeErr Instr :=
  match k with
  | 0x140 => .ok (.ldgB32 (fld w 14 7) (fld w 7 7) (fld w 4 3) (fld w 0 4))
  | 0x141 => .ok (.ldgB64 (fld w 14 7) (fld w 7 7) (fld w 4 3) (fld w 0 4))
  | 0x142 => .ok (.ldgB128 (fld w 14 7) (fld w 7 7) (fld w 4 3) (fld w 0 4))
  | 0x144 => .ok (.stgB32 (fld w 14 7) (fld w 7 7) (fld w 4 3) (fld w 0 4))
  | 0x145 => .ok (.stgB64 (fld w 14 7) (fld w 7 7) (fld w 4 3) (fld w 0 4))
  | 0x146 => .ok (.stgB128 (fld w 14 7) (fld w 7 7) (fld w 4 3) (fld w 0 4))
  | 0x148 => .ok (.ldgmB32 (fld w 14 7) (fld w 7 7) (fld w 4 3) (fld w 0 4))
  | 0x149 => .ok (.stgmB32 (fld w 14 7) (fld w 7 7) (fld w 4 3) (fld w 0 4))
  | 0x150 => zeroThen (fld w 4 3) (.tlook (fld w 14 7) (fld w 7 7) (fld w 0 4))
  | 0x151 => zeroThen (fld w 4 3) (.tset (fld w 14 7) (fld w 7 7) (fld w 0 4))
  | 0x152 => zeroThen (fld w 4 3 + fld w 14 7) (.tclr (fld w 7 7) (fld w 0 4))
  | _ => .error .unassigned

/-- Keys 0x180 to 0x19f (bit 10 of a key is the set: 0 lane, 1 uniform). -/
noncomputable def decodeBlock12 (k w l1 l2 : Nat) : Except DecodeErr Instr :=
  match k with
  | 0x180 => .ok (.aaddI32 (fld k 4 2) (fld w 14 7) (fld w 7 7) (fld w 4 3) (fld w 0 4))
  | 0x181 => .ok (.aaddI64 (fld k 4 2) (fld w 14 7) (fld w 7 7) (fld w 4 3) (fld w 0 4))
  | 0x182 => .ok (.aminI32 (fld k 4 2) (fld w 14 7) (fld w 7 7) (fld w 4 3) (fld w 0 4))
  | 0x183 => .ok (.amaxI32 (fld k 4 2) (fld w 14 7) (fld w 7 7) (fld w 4 3) (fld w 0 4))
  | 0x184 => .ok (.aminN32 (fld k 4 2) (fld w 14 7) (fld w 7 7) (fld w 4 3) (fld w 0 4))
  | 0x185 => .ok (.amaxN32 (fld k 4 2) (fld w 14 7) (fld w 7 7) (fld w 4 3) (fld w 0 4))
  | 0x186 => .ok (.aand (fld k 4 2) (fld w 14 7) (fld w 7 7) (fld w 4 3) (fld w 0 4))
  | 0x187 => .ok (.aor (fld k 4 2) (fld w 14 7) (fld w 7 7) (fld w 4 3) (fld w 0 4))
  | 0x188 => .ok (.axor (fld k 4 2) (fld w 14 7) (fld w 7 7) (fld w 4 3) (fld w 0 4))
  | 0x189 => .ok (.axchg (fld k 4 2) (fld w 14 7) (fld w 7 7) (fld w 4 3) (fld w 0 4))
  | 0x18a => .ok (.acas (fld k 4 2) (fld w 14 7) (fld w 7 7) (fld w 4 3) (fld w 0 4))
  | 0x18b => .ok (.aaddF32U (fld k 4 2) (fld w 14 7) (fld w 7 7) (fld w 4 3) (fld w 0 4))
  | 0x18c => .ok (.aaddF32O (fld w 14 7) (fld w 7 7) (fld w 4 3) (fld w 0 4))
  | 0x190 => .ok (.aaddI32 (fld k 4 2) (fld w 14 7) (fld w 7 7) (fld w 4 3) (fld w 0 4))
  | 0x191 => .ok (.aaddI64 (fld k 4 2) (fld w 14 7) (fld w 7 7) (fld w 4 3) (fld w 0 4))
  | 0x192 => .ok (.aminI32 (fld k 4 2) (fld w 14 7) (fld w 7 7) (fld w 4 3) (fld w 0 4))
  | 0x193 => .ok (.amaxI32 (fld k 4 2) (fld w 14 7) (fld w 7 7) (fld w 4 3) (fld w 0 4))
  | 0x194 => .ok (.aminN32 (fld k 4 2) (fld w 14 7) (fld w 7 7) (fld w 4 3) (fld w 0 4))
  | 0x195 => .ok (.amaxN32 (fld k 4 2) (fld w 14 7) (fld w 7 7) (fld w 4 3) (fld w 0 4))
  | 0x196 => .ok (.aand (fld k 4 2) (fld w 14 7) (fld w 7 7) (fld w 4 3) (fld w 0 4))
  | 0x197 => .ok (.aor (fld k 4 2) (fld w 14 7) (fld w 7 7) (fld w 4 3) (fld w 0 4))
  | 0x198 => .ok (.axor (fld k 4 2) (fld w 14 7) (fld w 7 7) (fld w 4 3) (fld w 0 4))
  | 0x199 => .ok (.axchg (fld k 4 2) (fld w 14 7) (fld w 7 7) (fld w 4 3) (fld w 0 4))
  | 0x19a => .ok (.acas (fld k 4 2) (fld w 14 7) (fld w 7 7) (fld w 4 3) (fld w 0 4))
  | 0x19b => .ok (.aaddF32U (fld k 4 2) (fld w 14 7) (fld w 7 7) (fld w 4 3) (fld w 0 4))
  | 0x19c => .error .reservedOrder
  | _ => .error .unassigned

/-- Keys 0x1a0 to 0x1bf (bit 10 of a key is the set: 0 lane, 1 uniform). -/
noncomputable def decodeBlock13 (k w l1 l2 : Nat) : Except DecodeErr Instr :=
  match k with
  | 0x1a0 => .ok (.aaddI32 (fld k 4 2) (fld w 14 7) (fld w 7 7) (fld w 4 3) (fld w 0 4))
  | 0x1a1 => .ok (.aaddI64 (fld k 4 2) (fld w 14 7) (fld w 7 7) (fld w 4 3) (fld w 0 4))
  | 0x1a2 => .ok (.aminI32 (fld k 4 2) (fld w 14 7) (fld w 7 7) (fld w 4 3) (fld w 0 4))
  | 0x1a3 => .ok (.amaxI32 (fld k 4 2) (fld w 14 7) (fld w 7 7) (fld w 4 3) (fld w 0 4))
  | 0x1a4 => .ok (.aminN32 (fld k 4 2) (fld w 14 7) (fld w 7 7) (fld w 4 3) (fld w 0 4))
  | 0x1a5 => .ok (.amaxN32 (fld k 4 2) (fld w 14 7) (fld w 7 7) (fld w 4 3) (fld w 0 4))
  | 0x1a6 => .ok (.aand (fld k 4 2) (fld w 14 7) (fld w 7 7) (fld w 4 3) (fld w 0 4))
  | 0x1a7 => .ok (.aor (fld k 4 2) (fld w 14 7) (fld w 7 7) (fld w 4 3) (fld w 0 4))
  | 0x1a8 => .ok (.axor (fld k 4 2) (fld w 14 7) (fld w 7 7) (fld w 4 3) (fld w 0 4))
  | 0x1a9 => .ok (.axchg (fld k 4 2) (fld w 14 7) (fld w 7 7) (fld w 4 3) (fld w 0 4))
  | 0x1aa => .ok (.acas (fld k 4 2) (fld w 14 7) (fld w 7 7) (fld w 4 3) (fld w 0 4))
  | 0x1ab => .ok (.aaddF32U (fld k 4 2) (fld w 14 7) (fld w 7 7) (fld w 4 3) (fld w 0 4))
  | 0x1ac => .error .reservedOrder
  | 0x1b0 => .ok (.aaddI32 (fld k 4 2) (fld w 14 7) (fld w 7 7) (fld w 4 3) (fld w 0 4))
  | 0x1b1 => .ok (.aaddI64 (fld k 4 2) (fld w 14 7) (fld w 7 7) (fld w 4 3) (fld w 0 4))
  | 0x1b2 => .ok (.aminI32 (fld k 4 2) (fld w 14 7) (fld w 7 7) (fld w 4 3) (fld w 0 4))
  | 0x1b3 => .ok (.amaxI32 (fld k 4 2) (fld w 14 7) (fld w 7 7) (fld w 4 3) (fld w 0 4))
  | 0x1b4 => .ok (.aminN32 (fld k 4 2) (fld w 14 7) (fld w 7 7) (fld w 4 3) (fld w 0 4))
  | 0x1b5 => .ok (.amaxN32 (fld k 4 2) (fld w 14 7) (fld w 7 7) (fld w 4 3) (fld w 0 4))
  | 0x1b6 => .ok (.aand (fld k 4 2) (fld w 14 7) (fld w 7 7) (fld w 4 3) (fld w 0 4))
  | 0x1b7 => .ok (.aor (fld k 4 2) (fld w 14 7) (fld w 7 7) (fld w 4 3) (fld w 0 4))
  | 0x1b8 => .ok (.axor (fld k 4 2) (fld w 14 7) (fld w 7 7) (fld w 4 3) (fld w 0 4))
  | 0x1b9 => .ok (.axchg (fld k 4 2) (fld w 14 7) (fld w 7 7) (fld w 4 3) (fld w 0 4))
  | 0x1ba => .ok (.acas (fld k 4 2) (fld w 14 7) (fld w 7 7) (fld w 4 3) (fld w 0 4))
  | 0x1bb => .ok (.aaddF32U (fld k 4 2) (fld w 14 7) (fld w 7 7) (fld w 4 3) (fld w 0 4))
  | 0x1bc => .error .reservedOrder
  | _ => .error .unassigned

/-- Keys 0x1c0 to 0x1df (bit 10 of a key is the set: 0 lane, 1 uniform). -/
noncomputable def decodeBlock14 (k w l1 l2 : Nat) : Except DecodeErr Instr :=
  match k with
  | 0x1c0 => .ok (.ldl (fld w 14 7) (fld w 7 7) (fld w 4 3) (fld w 0 4))
  | 0x1c1 => .ok (.stul (fld w 14 7) (fld w 7 7) (fld w 4 3) (fld w 0 4))
  | 0x1c2 => .ok (.gaddI32 (fld w 14 7) (fld w 7 7) (fld w 4 3) (fld w 0 4))
  | 0x1c3 => .ok (.gaddF32 (fld w 14 7) (fld w 7 7) (fld w 4 3) (fld w 0 4))
  | 0x1c4 => .ok (.gmaxI32 (fld w 14 7) (fld w 7 7) (fld w 4 3) (fld w 0 4))
  | 0x1c5 => .ok (.gxchg (fld w 14 7) (fld w 7 7) (fld w 4 3) (fld w 0 4))
  | 0x1c6 => .ok (.gcas (fld w 14 7) (fld w 7 7) (fld w 4 3) (fld w 0 4))
  | 0x1d0 => zeroThen (fld w 0 7) (.ckaccI32 (fld w 14 7) (fld w 7 7))
  | 0x1d1 => zeroThen (fld w 0 7) (.ckaccF32 (fld w 14 7) (fld w 7 7))
  | 0x1d2 => zeroThen (fld w 0 7) (.ckaccSig (fld w 14 7) (fld w 7 7))
  | _ => .error .unassigned

/-- Keys 0x220 to 0x23f (bit 10 of a key is the set: 0 lane, 1 uniform). -/
noncomputable def decodeBlock17 (k w l1 l2 : Nat) : Except DecodeErr Instr :=
  match k with
  | 0x220 => zeroThen (fld w 0 7) (.vaddiTwin (fld w 14 7) (fld w 7 7) l1)
  | 0x224 => zeroThen (fld w 0 7) (.vandiTwin (fld w 14 7) (fld w 7 7) l1)
  | 0x225 => zeroThen (fld w 0 14) (.vliTwin (fld w 14 7) l1)
  | _ => .error .unassigned

/-- Keys 0x300 to 0x31f (bit 10 of a key is the set: 0 lane, 1 uniform). -/
noncomputable def decodeBlock24 (k w l1 l2 : Nat) : Except DecodeErr Instr :=
  match k with
  | 0x300 => .ok (.ldN8Twin (fld w 14 7) (fld w 7 7) (fld w 4 3) (fld w 0 4) l1)
  | 0x301 => .ok (.ldI8Twin (fld w 14 7) (fld w 7 7) (fld w 4 3) (fld w 0 4) l1)
  | 0x302 => .ok (.ldN16Twin (fld w 14 7) (fld w 7 7) (fld w 4 3) (fld w 0 4) l1)
  | 0x303 => .ok (.ldI16Twin (fld w 14 7) (fld w 7 7) (fld w 4 3) (fld w 0 4) l1)
  | 0x304 => .ok (.ldB32Twin (fld w 14 7) (fld w 7 7) (fld w 4 3) (fld w 0 4) l1)
  | 0x305 => .ok (.ldB64Twin (fld w 14 7) (fld w 7 7) (fld w 4 3) (fld w 0 4) l1)
  | 0x306 => .ok (.ldB128Twin (fld w 14 7) (fld w 7 7) (fld w 4 3) (fld w 0 4) l1)
  | 0x308 => .ok (.stB8Twin (fld w 14 7) (fld w 7 7) (fld w 4 3) (fld w 0 4) l1)
  | 0x309 => .ok (.stB16Twin (fld w 14 7) (fld w 7 7) (fld w 4 3) (fld w 0 4) l1)
  | 0x30a => .ok (.stB32Twin (fld w 14 7) (fld w 7 7) (fld w 4 3) (fld w 0 4) l1)
  | 0x30b => .ok (.stB64Twin (fld w 14 7) (fld w 7 7) (fld w 4 3) (fld w 0 4) l1)
  | 0x30c => .ok (.stB128Twin (fld w 14 7) (fld w 7 7) (fld w 4 3) (fld w 0 4) l1)
  | 0x310 => .ok (.ldBf16Twin (fld w 14 7) (fld w 7 7) (fld w 4 3) (fld w 0 4) l1)
  | 0x311 => .ok (.ldF16Twin (fld w 14 7) (fld w 7 7) (fld w 4 3) (fld w 0 4) l1)
  | 0x312 => .ok (.ldE4m3Twin (fld w 14 7) (fld w 7 7) (fld w 4 3) (fld w 0 4) l1)
  | 0x313 => .ok (.ldE5m2Twin (fld w 14 7) (fld w 7 7) (fld w 4 3) (fld w 0 4) l1)
  | 0x314 => .ok (.ldZb4Twin (fld w 14 7) (fld w 7 7) (fld w 4 3) (fld w 0 4) l1)
  | 0x315 => .ok (.ldZb8Twin (fld w 14 7) (fld w 7 7) (fld w 4 3) (fld w 0 4) l1)
  | 0x318 => .ok (.stBf16Twin (fld w 14 7) (fld w 7 7) (fld w 4 3) (fld w 0 4) l1)
  | 0x319 => .ok (.stF16Twin (fld w 14 7) (fld w 7 7) (fld w 4 3) (fld w 0 4) l1)
  | 0x31a => .ok (.stE4m3Twin (fld w 14 7) (fld w 7 7) (fld w 4 3) (fld w 0 4) l1)
  | 0x31b => .ok (.stE5m2Twin (fld w 14 7) (fld w 7 7) (fld w 4 3) (fld w 0 4) l1)
  | 0x31c => .ok (.stZb4Twin (fld w 14 7) (fld w 7 7) (fld w 4 3) (fld w 0 4) l1)
  | 0x31d => .ok (.stZb8Twin (fld w 14 7) (fld w 7 7) (fld w 4 3) (fld w 0 4) l1)
  | 0x31e => .ok (.vspillTwin (fld w 14 7) (fld w 7 7) (fld w 4 3) (fld w 0 4) l1)
  | 0x31f => .ok (.vfillTwin (fld w 14 7) (fld w 7 7) (fld w 4 3) (fld w 0 4) l1)
  | _ => .error .unassigned

/-- Keys 0x400 to 0x41f (bit 10 of a key is the set: 0 lane, 1 uniform). -/
noncomputable def decodeBlock32 (k w l1 l2 : Nat) : Except DecodeErr Instr :=
  match k with
  | 0x400 => .ok (.sadd (fld w 15 6) (fld w 9 6) (fld w 3 6) (fld w 0 3))
  | 0x401 => .ok (.ssub (fld w 15 6) (fld w 9 6) (fld w 3 6) (fld w 0 3))
  | 0x402 => .ok (.smul (fld w 15 6) (fld w 9 6) (fld w 3 6) (fld w 0 3))
  | 0x403 => .ok (.smulh (fld w 15 6) (fld w 9 6) (fld w 3 6) (fld w 0 3))
  | 0x404 => .ok (.sand (fld w 15 6) (fld w 9 6) (fld w 3 6) (fld w 0 3))
  | 0x405 => .ok (.sor (fld w 15 6) (fld w 9 6) (fld w 3 6) (fld w 0 3))
  | 0x406 => .ok (.sxor (fld w 15 6) (fld w 9 6) (fld w 3 6) (fld w 0 3))
  | 0x407 => .ok (.sshl (fld w 15 6) (fld w 9 6) (fld w 3 6) (fld w 0 3))
  | 0x408 => .ok (.sshrN (fld w 15 6) (fld w 9 6) (fld w 3 6) (fld w 0 3))
  | 0x409 => .ok (.sshrI (fld w 15 6) (fld w 9 6) (fld w 3 6) (fld w 0 3))
  | 0x40a => .ok (.sminI (fld w 15 6) (fld w 9 6) (fld w 3 6) (fld w 0 3))
  | 0x40b => .ok (.smaxI (fld w 15 6) (fld w 9 6) (fld w 3 6) (fld w 0 3))
  | 0x40c => zeroThen (fld w 3 6) (.smov (fld w 15 6) (fld w 9 6) (fld w 0 3))
  | 0x40d => .ok (.ssel (fld w 15 6) (fld w 9 6) (fld w 3 6) (fld w 0 3))
  | 0x40e => zeroThen (fld w 3 6) (.spopc (fld w 15 6) (fld w 9 6) (fld w 0 3))
  | 0x40f => zeroThen (fld w 3 6) (.sclz (fld w 15 6) (fld w 9 6) (fld w 0 3))
  | 0x410 => .ok (.scmpI (fld w 18 3) (fld w 15 3) (fld w 9 6) (fld w 3 6) (fld w 0 3))
  | 0x411 => .ok (.scmpN (fld w 18 3) (fld w 15 3) (fld w 9 6) (fld w 3 6) (fld w 0 3))
  | _ => .error .unassigned

/-- Keys 0x420 to 0x43f (bit 10 of a key is the set: 0 lane, 1 uniform). -/
noncomputable def decodeBlock33 (k w l1 l2 : Nat) : Except DecodeErr Instr :=
  match k with
  | 0x420 => .ok (.saddi (fld w 15 6) (fld w 9 6) (fld w 0 9))
  | 0x421 => .ok (.sshli (fld w 15 6) (fld w 9 6) (fld w 0 9))
  | 0x422 => .ok (.sandi (fld w 15 6) (fld w 9 6) (fld w 0 9))
  | 0x423 => zeroThen (fld w 9 6) (.sli (fld w 15 6) (fld w 0 9))
  | 0x428 => zeroThen (fld w 9 6) (.sid (fld w 15 6) (fld w 0 9))
  | 0x429 => .ok (.qlog (fld w 18 3) (fld w 15 3) (fld w 9 6) (fld w 3 6) (fld w 0 3))
  | _ => .error .unassigned

/-- Keys 0x440 to 0x45f (bit 10 of a key is the set: 0 lane, 1 uniform). -/
noncomputable def decodeBlock34 (k w l1 l2 : Nat) : Except DecodeErr Instr :=
  match k with
  | 0x440 => .ok (.cbnd (fld w 15 6) (fld w 9 6) (fld w 3 6) (fld w 0 3))
  | 0x441 => .ok (.crgt (fld w 15 6) (fld w 9 6) (fld w 3 6) (fld w 0 3))
  | 0x442 => .ok (.ccol (fld w 15 6) (fld w 9 6) (fld w 3 6) (fld w 0 3))
  | 0x443 => .ok (.cget (fld w 15 6) (fld w 9 6) (fld w 3 6) (fld w 0 3))
  | 0x444 => zeroThen (fld w 3 6) (.cmov (fld w 15 6) (fld w 9 6) (fld w 0 3))
  | 0x445 => .ok (.cld (fld w 15 6) (fld w 10 5) (fld w 4 6) (fld w 0 4))
  | 0x446 => .ok (.cst (fld w 15 6) (fld w 10 5) (fld w 4 6) (fld w 0 4))
  | 0x447 => .ok (.ctag (fld w 15 6) (fld w 10 5) (fld w 4 6) (fld w 0 4))
  | 0x448 => .ok (.cchk (fld w 18 3) (fld w 15 3) (fld w 9 6) (fld w 3 6) (fld w 0 3))
  | 0x449 => zeroThen (fld w 3 12) (.cnull (fld w 15 6) (fld w 0 3))
  | _ => .error .unassigned

/-- Keys 0x460 to 0x47f (bit 10 of a key is the set: 0 lane, 1 uniform). -/
noncomputable def decodeBlock35 (k w l1 l2 : Nat) : Except DecodeErr Instr :=
  match k with
  | 0x460 => .ok (.bq (fld w 18 3) (fld w 0 18))
  | 0x461 => .ok (.bqn (fld w 18 3) (fld w 0 18))
  | 0x462 => .ok (.brl (fld w 18 3) (fld w 0 18))
  | 0x463 => .ok (.brln (fld w 18 3) (fld w 0 18))
  | 0x464 => zeroThen (fld w 18 3) (.call (fld w 0 18))
  | 0x465 => zeroThen (fld w 3 6 + fld w 15 6) (.ret (fld w 9 6) (fld w 0 3))
  | 0x466 => .ok (.jmpc (fld w 15 6) (fld w 9 6) (fld w 3 6) (fld w 0 3))
  | 0x468 => zeroThen (fld w 3 18) (.reform (fld w 0 3))
  | 0x469 => zeroThen (fld w 0 13) (.heat (fld w 18 3) (fld w 13 5 + 1) (heatMasks w l1 l2))
  | 0x46a => zeroThen (fld w 0 9) (.hmap (fld w 15 6) (fld w 9 6))
  | 0x46b => zeroThen (fld w 3 18) (.exit (fld w 0 3))
  | 0x46c => zeroThen (fld w 3 18) (.nop (fld w 0 3))
  | 0x46d => zeroThen (fld w 9 12) (.waitm (fld w 0 9))
  | 0x46e => zeroThen (fld w 9 12) (.waits (fld w 0 9))
  | _ => .error .unassigned

/-- Keys 0x480 to 0x49f (bit 10 of a key is the set: 0 lane, 1 uniform). -/
noncomputable def decodeBlock36 (k w l1 l2 : Nat) : Except DecodeErr Instr :=
  match k with
  | 0x480 => .ok (.sldB32 (fld w 15 6) (fld w 10 5) (fld w 4 6) (fld w 0 4))
  | 0x481 => .ok (.sldB64 (fld w 15 6) (fld w 10 5) (fld w 4 6) (fld w 0 4))
  | 0x482 => .ok (.sstB32 (fld w 15 6) (fld w 10 5) (fld w 4 6) (fld w 0 4))
  | 0x483 => .ok (.sstB64 (fld w 15 6) (fld w 10 5) (fld w 4 6) (fld w 0 4))
  | 0x490 => decodeFence w
  | 0x491 => zeroThen (fld w 9 12) (.bar (fld w 0 9))
  | 0x492 => zeroThen (fld w 9 12) (.bara (fld w 0 9))
  | 0x493 => zeroThen (fld w 9 12) (.barw (fld w 0 9))
  | 0x494 => zeroThen (fld w 8 13) (.gstep (fld w 0 8))
  | 0x495 => zeroThen (fld w 0 4 + fld w 9 6) (.gcfg (fld w 15 6) (fld w 4 5))
  | _ => .error .unassigned

/-- Keys 0x4a0 to 0x4bf (bit 10 of a key is the set: 0 lane, 1 uniform). -/
noncomputable def decodeBlock37 (k w l1 l2 : Nat) : Except DecodeErr Instr :=
  match k with
  | 0x4a0 => .ok (.cpy (fld w 15 6) (fld w 9 6) (fld w 4 5) (fld w 0 4))
  | 0x4a1 => .ok (.cpyc (fld w 15 6) (fld w 9 6) (fld w 4 5) (fld w 0 4))
  | 0x4a2 => .ok (.cpym (fld w 15 6) (fld w 9 6) (fld w 4 5) (fld w 0 4))
  | 0x4a3 => zeroThen (fld w 4 11) (.halo (fld w 15 6) (fld w 0 4))
  | 0x4a4 => zeroThen (fld w 0 15) (.cbseal (fld w 15 6))
  | 0x4a5 => zeroThen (fld w 9 12) (.cbwait (fld w 0 9))
  | 0x4a8 => zeroThen (fld w 0 9) (.tlsig (fld w 15 6) (fld w 9 6))
  | 0x4a9 => zeroThen (fld w 0 9) (.tlwait (fld w 15 6) (fld w 9 6))
  | 0x4aa => zeroThen (fld w 0 9) (.tlrd (fld w 15 6) (fld w 9 6))
  | _ => .error .unassigned

/-- Keys 0x4c0 to 0x4df (bit 10 of a key is the set: 0 lane, 1 uniform). -/
noncomputable def decodeBlock38 (k w l1 l2 : Nat) : Except DecodeErr Instr :=
  match k with
  | 0x4c0 => zeroThen (fld w 4 11) (.mwld (fld w 15 6) (fld w 0 4))
  | 0x4c1 => zeroThen (fld w 4 11) (.mmul (fld w 15 6) (fld w 0 4))
  | 0x4c2 => zeroThen (fld w 4 11) (.mclr (fld w 15 6) (fld w 0 4))
  | 0x4c3 => zeroThen (fld w 4 11) (.mrd (fld w 15 6) (fld w 0 4))
  | 0x4c4 => zeroThen (fld w 4 11) (.mstg (fld w 15 6) (fld w 0 4))
  | 0x4c5 => zeroThen (fld w 0 4 + fld w 9 6) (.mstat (fld w 15 6) (fld w 4 5))
  | 0x4c6 => zeroThen (fld w 4 11) (.mspl (fld w 15 6) (fld w 0 4))
  | 0x4d0 => .ok (.rlrun (fld w 15 6) (fld w 9 6) (fld w 4 5) (fld w 0 4))
  | 0x4d1 => zeroThen (fld w 4 17) (.rlinv (fld w 0 4))
  | 0x4d2 => zeroThen (fld w 0 15) (.rlstat (fld w 15 6))
  | 0x4d8 => zeroThen (fld w 0 4) (.ckchk (fld w 15 6) (fld w 9 6) (fld w 4 5))
  | 0x4d9 => .ok (.ckrd (fld w 15 6) (fld w 9 6) (fld w 3 6) (fld w 0 3))
  | 0x4da => zeroThen (fld w 9 6) (.ckclr (fld w 15 6) (fld w 3 6) (fld w 0 3))
  | _ => .error .unassigned

/-- Keys 0x4e0 to 0x4ff (bit 10 of a key is the set: 0 lane, 1 uniform). -/
noncomputable def decodeBlock39 (k w l1 l2 : Nat) : Except DecodeErr Instr :=
  match k with
  | 0x4e0 => zeroThen (fld w 3 12) (.vclk (fld w 15 6) (fld w 0 3))
  | 0x4e1 => zeroThen (fld w 0 4 + fld w 6 3) (.tmarm (fld w 15 6) (fld w 9 6) (fld w 5 1) (fld w 4 1))
  | 0x4e2 => zeroThen (fld w 0 15) (.tmwait (fld w 15 6))
  | 0x4e3 => zeroThen (fld w 0 15) (.tmcan (fld w 15 6))
  | 0x4e4 => zeroThen (fld w 9 6) (.evpop (fld w 15 6) (fld w 3 6) (fld w 0 3))
  | 0x4e5 => zeroThen (fld w 9 6) (.pcnt (fld w 15 6) (fld w 0 9))
  | 0x4e6 => zeroThen (fld w 9 6) (.csrr (fld w 15 6) (fld w 0 9))
  | 0x4e7 => zeroThen (fld w 15 6) (.csrw (fld w 9 6) (fld w 0 9))
  | 0x4e8 => zeroThen (fld w 9 12) (.trap (fld w 0 9))
  | 0x4e9 => decodeSysc w
  | 0x4ea => zeroThen (fld w 9 12) (.brk (fld w 0 9))
  | 0x4f0 => zeroThen (fld w 0 4) (.spawn (fld w 15 6) (fld w 10 5) (fld w 4 6))
  | _ => .error .unassigned

/-- Keys 0x620 to 0x63f (bit 10 of a key is the set: 0 lane, 1 uniform). -/
noncomputable def decodeBlock49 (k w l1 l2 : Nat) : Except DecodeErr Instr :=
  match k with
  | 0x620 => zeroThen (fld w 0 9) (.saddiTwin (fld w 15 6) (fld w 9 6) l1)
  | 0x623 => zeroThen (fld w 0 15) (.sliTwin (fld w 15 6) l1)
  | 0x624 => zeroThen (fld w 0 15) (.sli64 (fld w 15 6) l1 l2)
  | _ => .error .unassigned

/-- Keys 0x680 to 0x69f (bit 10 of a key is the set: 0 lane, 1 uniform). -/
noncomputable def decodeBlock52 (k w l1 l2 : Nat) : Except DecodeErr Instr :=
  match k with
  | 0x680 => .ok (.sldB32Twin (fld w 15 6) (fld w 10 5) (fld w 4 6) (fld w 0 4) l1)
  | 0x681 => .ok (.sldB64Twin (fld w 15 6) (fld w 10 5) (fld w 4 6) (fld w 0 4) l1)
  | 0x682 => .ok (.sstB32Twin (fld w 15 6) (fld w 10 5) (fld w 4 6) (fld w 0 4) l1)
  | 0x683 => .ok (.sstB64Twin (fld w 15 6) (fld w 10 5) (fld w 4 6) (fld w 0 4) l1)
  | _ => .error .unassigned

/-- The instruction whose key is k, first word w and literal words l1, l2 (R82 to R84). -/
noncomputable def decodeOp (k w l1 l2 : Nat) : Except DecodeErr Instr :=
  match k / 32 with
  | 0 => decodeBlock0 k w l1 l2
  | 1 => decodeBlock1 k w l1 l2
  | 2 => decodeBlock2 k w l1 l2
  | 3 => decodeBlock3 k w l1 l2
  | 4 => decodeBlock4 k w l1 l2
  | 8 => decodeBlock8 k w l1 l2
  | 10 => decodeBlock10 k w l1 l2
  | 12 => decodeBlock12 k w l1 l2
  | 13 => decodeBlock13 k w l1 l2
  | 14 => decodeBlock14 k w l1 l2
  | 17 => decodeBlock17 k w l1 l2
  | 24 => decodeBlock24 k w l1 l2
  | 32 => decodeBlock32 k w l1 l2
  | 33 => decodeBlock33 k w l1 l2
  | 34 => decodeBlock34 k w l1 l2
  | 35 => decodeBlock35 k w l1 l2
  | 36 => decodeBlock36 k w l1 l2
  | 37 => decodeBlock37 k w l1 l2
  | 38 => decodeBlock38 k w l1 l2
  | 39 => decodeBlock39 k w l1 l2
  | 49 => decodeBlock49 k w l1 l2
  | 52 => decodeBlock52 k w l1 l2
  | _ => .error .unassigned

/-- The keys that R82, R83 and R84 assign, as ranges (low, high). -/
def assignedKeys : List (Nat × Nat) :=
  [(0x0, 0x1e),
   (0x20, 0x25),
   (0x30, 0x36),
   (0x38, 0x4d),
   (0x50, 0x55),
   (0x58, 0x5b),
   (0x60, 0x64),
   (0x68, 0x6c),
   (0x70, 0x77),
   (0x80, 0x8c),
   (0x100, 0x106),
   (0x108, 0x10c),
   (0x110, 0x115),
   (0x118, 0x11f),
   (0x140, 0x142),
   (0x144, 0x146),
   (0x148, 0x149),
   (0x150, 0x152),
   (0x180, 0x18c),
   (0x190, 0x19b),
   (0x1a0, 0x1ab),
   (0x1b0, 0x1bb),
   (0x1c0, 0x1c6),
   (0x1d0, 0x1d2),
   (0x220, 0x220),
   (0x224, 0x225),
   (0x300, 0x306),
   (0x308, 0x30c),
   (0x310, 0x315),
   (0x318, 0x31f),
   (0x400, 0x411),
   (0x420, 0x423),
   (0x428, 0x429),
   (0x440, 0x449),
   (0x460, 0x466),
   (0x468, 0x46e),
   (0x480, 0x483),
   (0x490, 0x495),
   (0x4a0, 0x4a5),
   (0x4a8, 0x4aa),
   (0x4c0, 0x4c6),
   (0x4d0, 0x4d2),
   (0x4d8, 0x4da),
   (0x4e0, 0x4ea),
   (0x4f0, 0x4f0),
   (0x620, 0x620),
   (0x623, 0x624),
   (0x680, 0x683)]

/-- Whether key k is assigned. -/
def assigned (k : Nat) : Bool := assignedKeys.any fun r => decide (r.1 ≤ k) && decide (k ≤ r.2)

/-- The decode table's entry at reset (R95): valid and naming itself, or 0x0000. -/
def resetEntry (k : Nat) : Nat := if assigned k then 0x8000 + k else 0

/-- Little-endian bytes as a number, first byte lowest. -/
def leNat : List Byte → Nat
  | [] => 0
  | b :: bs => b.toNat + 256 * leNat bs

/-- n little-endian bytes of a number. -/
def leBytes : Nat → Nat → List Byte
  | 0, _ => []
  | n + 1, x => BitVec.ofNat 8 x :: leBytes n (x / 256)

/-- Decode words: the first word and the literal words that follow it. -/
noncomputable def decodeWords : List Nat → Except DecodeErr (Instr × List Nat)
  | [] => .error .truncated
  | w :: rest =>
    let k := keyOf w
    if assigned k then
      match litWords k w, rest with
      | 0, r => (decodeOp k w 0 0).map fun i => (i, r)
      | 1, l1 :: r => (decodeOp k w l1 0).map fun i => (i, r)
      | 2, l1 :: l2 :: r => (decodeOp k w l1 l2).map fun i => (i, r)
      | _, _ => .error .truncated
    else match decodeOp k w 0 0 with
      | .error e => .error e
      | .ok _ => .error .unassigned

/-- Group bytes into little-endian 32-bit words; a last partial word is dropped. -/
def wordsOf : List Byte → List Nat
  | a :: b :: c :: d :: rest => leNat [a, b, c, d] :: wordsOf rest
  | _ => []

/-- Decode the bytes of an instruction (R72: words are little-endian): the instruction and how many bytes it takes. Total on any bytes. -/
noncomputable def decode (bs : List Byte) : Except DecodeErr (Instr × Nat) :=
  let ws := wordsOf bs
  (decodeWords ws).map fun p => (p.1, 4 * (ws.length - p.2.length))

/-- The instruction the decoder reads from the table's numbering: bit 0 is the lowest bit of the first word and bits above nbits are 0. -/
noncomputable def decodeTableWord (nbits w : Nat) : Option Instr :=
  match decode (leBytes 12 (w % 2 ^ nbits)) with
  | .ok p => some p.1
  | .error _ => none

/-! ### The encoder -/

/-- A HEAT's words: one mask word for up to 16 instructions, two above (R81). -/
def heatWords (w n m : Nat) : List Nat := if n ≤ 16 then [w, m] else [w, m % 4294967296, m / 4294967296]

/-- The words of a well-formed encoded instruction; an event has none. -/
def encode : Instr → List Nat
  | .groupFormation _ => []
  | .binAgeLimit _ _ => []
  | .thinGroupYield _ => []
  | .loadSectorReturn _ => []
  | .atomicPerformed _ => []
  | .storeAcknowledged _ => []
  | .storeRefused _ => []
  | .orderedValidate _ => []
  | .memorySideFault _ => []
  | .faultEntersLog _ => []
  | .faultReplay _ => []
  | .faultDeclaredFatal _ => []
  | .cancel _ _ _ => []
  | .memoryPortInvalidate _ _ => []
  | .trapResume _ => []
  | .trapDeclareFatal _ => []
  | .scoreboardEntryRetire _ _ => []
  | .gstepArrivalsComplete _ _ => []
  | .gstepDrained _ _ => []
  | .gcfgArrivalsComplete _ _ => []
  | .gcfgDrained _ _ => []
  | .barrierPhaseComplete _ _ => []
  | .copyOperationStart _ _ _ => []
  | .copyOperationFinish _ _ => []
  | .copyOperationAbort _ _ => []
  | .chainRecordWalk _ _ => []
  | .cpymFollowIssue _ _ => []
  | .macroCommandStart _ _ => []
  | .macroCommandFinish _ _ => []
  | .relayRunStart _ => []
  | .relaySend _ => []
  | .relayRecv _ => []
  | .relayRrs _ => []
  | .relayRrd _ => []
  | .relayCopy _ => []
  | .relayWait _ => []
  | .relayLoop _ => []
  | .relayEnd _ => []
  | .relayChunkArrival _ _ _ _ _ _ _ _ _ => []
  | .flitLanded _ => []
  | .reduceKernelDispatch _ _ => []
  | .relayAbortNotice _ _ _ => []
  | .relayPatienceExpired _ => []
  | .holdNotice _ => []
  | .resumeNotice _ => []
  | .timerExpiry _ _ => []
  | .inboxEventArrival _ _ _ _ _ _ => []
  | .hostEventStore _ _ => []
  | .spawnWindowStore _ _ _ _ => []
  | .launchHeadCheck _ _ => []
  | .dependenceMet _ _ => []
  | .launchAdmit _ _ => []
  | .headAging _ _ => []
  | .gangPlace _ _ _ _ => []
  | .priorityPreemption _ _ => []
  | .timeSliceExpiry _ _ => []
  | .gangStop _ _ => []
  | .gangSaved _ => []
  | .gangResume _ _ _ => []
  | .gangPack _ _ => []
  | .gangMigrateAccept _ => []
  | .gangRetire _ => []
  | .launchComplete _ => []
  | .launchReplay _ => []
  | .snapshotPageCopy _ _ => []
  | .scrubSector _ _ => []
  | .linkFailure _ => []
  | .powerSample _ _ => []
  | .functionReset _ => []
  | .flowClosed _ _ => []
  | .settingWrite _ _ _ => []
  | .hostMemoryAccess _ _ _ _ _ _ => []
  | .zpfLoad _ _ _ _ _ _ => []
  | .decodeTableLoad _ _ => []
  | .coldReset => []
  | .moduleReset => []
  | .bootRomStart => []
  | .trainingDone => []
  | .thermalThrottle _ _ _ => []
  | .overTemperature _ _ => []
  | .overTemperatureClear _ _ => []
  | .thermalTrip _ _ => []
  | .pldmFirmwareUpdate _ => []
  | .activateCommit => []
  | .pldmPlatformMonitoring _ _ _ => []
  | .getVersion => []
  | .getCapabilities => []
  | .negotiateAlgorithms _ => []
  | .getDigests => []
  | .getCertificate _ _ => []
  | .getMeasurements _ _ => []
  | .unassignedOpcode => []
  | .serviceCallReply _ _ _ _ _ _ => []
  | .peerModuleAccess _ _ _ _ _ _ => []
  | .vadd d a b => [0x0 + d * 16384 + a * 128 + b]
  | .vsub d a b => [0x200000 + d * 16384 + a * 128 + b]
  | .vmul d a b => [0x400000 + d * 16384 + a * 128 + b]
  | .vmulhI32 d a b => [0x600000 + d * 16384 + a * 128 + b]
  | .vmulhN32 d a b => [0x800000 + d * 16384 + a * 128 + b]
  | .vmad d a b => [0xa00000 + d * 16384 + a * 128 + b]
  | .vaddsI32 d a b => [0xc00000 + d * 16384 + a * 128 + b]
  | .vsubsI32 d a b => [0xe00000 + d * 16384 + a * 128 + b]
  | .vaddsN32 d a b => [0x1000000 + d * 16384 + a * 128 + b]
  | .vsubsN32 d a b => [0x1200000 + d * 16384 + a * 128 + b]
  | .vand d a b => [0x1400000 + d * 16384 + a * 128 + b]
  | .vor d a b => [0x1600000 + d * 16384 + a * 128 + b]
  | .vxor d a b => [0x1800000 + d * 16384 + a * 128 + b]
  | .vandn d a b => [0x1a00000 + d * 16384 + a * 128 + b]
  | .vshl d a b => [0x1c00000 + d * 16384 + a * 128 + b]
  | .vshrN32 d a b => [0x1e00000 + d * 16384 + a * 128 + b]
  | .vshrI32 d a b => [0x2000000 + d * 16384 + a * 128 + b]
  | .vminI32 d a b => [0x2200000 + d * 16384 + a * 128 + b]
  | .vminN32 d a b => [0x2400000 + d * 16384 + a * 128 + b]
  | .vmaxI32 d a b => [0x2600000 + d * 16384 + a * 128 + b]
  | .vmaxN32 d a b => [0x2800000 + d * 16384 + a * 128 + b]
  | .vabsI32 d a => [0x2a00000 + d * 16384 + a * 128]
  | .vpopc d a => [0x2c00000 + d * 16384 + a * 128]
  | .vclz d a => [0x2e00000 + d * 16384 + a * 128]
  | .vbfx d a b => [0x3000000 + d * 16384 + a * 128 + b]
  | .vbfi d a b => [0x3200000 + d * 16384 + a * 128 + b]
  | .vdot4I8 d a b => [0x3400000 + d * 16384 + a * 128 + b]
  | .vdot4N8 d a b => [0x3600000 + d * 16384 + a * 128 + b]
  | .vmov d a => [0x3800000 + d * 16384 + a * 128]
  | .vmovs d a h => [0x3a00000 + d * 16384 + a * 128 + h]
  | .vid d s => [0x3c00000 + d * 16384 + s]
  | .vaddi d a i => [0x4000000 + d * 16384 + a * 128 + i]
  | .vaddiTwin d a w => [0x44000000 + d * 16384 + a * 128, w]
  | .vshli d a i => [0x4200000 + d * 16384 + a * 128 + i]
  | .vshriN32 d a i => [0x4400000 + d * 16384 + a * 128 + i]
  | .vshriI32 d a i => [0x4600000 + d * 16384 + a * 128 + i]
  | .vandi d a i => [0x4800000 + d * 16384 + a * 128 + i]
  | .vandiTwin d a w => [0x44800000 + d * 16384 + a * 128, w]
  | .vli d i => [0x4a00000 + d * 16384 + i]
  | .vliTwin d w => [0x44a00000 + d * 16384, w]
  | .icmpI32 p c a b => [0x6000000 + p * 262144 + c * 16384 + a * 128 + b]
  | .icmpN32 p c a b => [0x6200000 + p * 262144 + c * 16384 + a * 128 + b]
  | .fcmpF32 p c a b => [0x6400000 + p * 262144 + c * 16384 + a * 128 + b]
  | .fcmpX p c a b => [0x6600000 + p * 262144 + c * 16384 + a * 128 + b]
  | .plog p o a b => [0x6800000 + p * 262144 + o * 16384 + a * 128 + b]
  | .vtop p a => [0x6a00000 + p * 262144 + a * 128]
  | .vfromp d b => [0x6c00000 + d * 16384 + b]
  | .vsel k d a b => [0x7000000 + k * 2097152 + d * 16384 + a * 128 + b]
  | .fadd d a b => [0x8000000 + d * 16384 + a * 128 + b]
  | .fsub d a b => [0x8200000 + d * 16384 + a * 128 + b]
  | .fmul d a b => [0x8400000 + d * 16384 + a * 128 + b]
  | .fma d a b => [0x8600000 + d * 16384 + a * 128 + b]
  | .fnma d a b => [0x8800000 + d * 16384 + a * 128 + b]
  | .fmin d a b => [0x8a00000 + d * 16384 + a * 128 + b]
  | .fmax d a b => [0x8c00000 + d * 16384 + a * 128 + b]
  | .fabs d a => [0x8e00000 + d * 16384 + a * 128]
  | .fneg d a => [0x9000000 + d * 16384 + a * 128]
  | .fcopysign d a b => [0x9200000 + d * 16384 + a * 128 + b]
  | .fdot2Bf16 d a b => [0x9400000 + d * 16384 + a * 128 + b]
  | .fdot4E4m3 d a b => [0x9600000 + d * 16384 + a * 128 + b]
  | .fdot4E5m2 d a b => [0x9800000 + d * 16384 + a * 128 + b]
  | .fdot8E2m1 d a b => [0x9a00000 + d * 16384 + a * 128 + b]
  | .frcpa d a => [0xa000000 + d * 16384 + a * 128]
  | .frsqa d a => [0xa200000 + d * 16384 + a * 128]
  | .fexp2a d a => [0xa400000 + d * 16384 + a * 128]
  | .flog2a d a => [0xa600000 + d * 16384 + a * 128]
  | .fsqrt d a => [0xa800000 + d * 16384 + a * 128]
  | .fdiv d a b => [0xaa00000 + d * 16384 + a * 128 + b]
  | .cvtF32I32 d a r => [0xb000000 + d * 16384 + a * 128 + r]
  | .cvtF32N32 d a r => [0xb200000 + d * 16384 + a * 128 + r]
  | .cvtI32F32 d a r => [0xb400000 + d * 16384 + a * 128 + r]
  | .cvtN32F32 d a r => [0xb600000 + d * 16384 + a * 128 + r]
  | .nrwBf16 d a => [0xc000000 + d * 16384 + a * 128]
  | .nrwF16 d a => [0xc200000 + d * 16384 + a * 128]
  | .nrwE4m3 d a => [0xc400000 + d * 16384 + a * 128]
  | .nrwE5m2 d a => [0xc600000 + d * 16384 + a * 128]
  | .nrwE2m1 d a => [0xc800000 + d * 16384 + a * 128]
  | .finBf16 d a => [0xd000000 + d * 16384 + a * 128]
  | .finF16 d a => [0xd200000 + d * 16384 + a * 128]
  | .finE4m3 d a => [0xd400000 + d * 16384 + a * 128]
  | .finE5m2 d a => [0xd600000 + d * 16384 + a * 128]
  | .finE2m1 d a => [0xd800000 + d * 16384 + a * 128]
  | .pack2Bf16 d a b => [0xe000000 + d * 16384 + a * 128 + b]
  | .pack2F16 d a b => [0xe200000 + d * 16384 + a * 128 + b]
  | .pack4E4m3 d a => [0xe400000 + d * 16384 + a * 128]
  | .pack4E5m2 d a => [0xe600000 + d * 16384 + a * 128]
  | .widBf16 d a k => [0xe800000 + d * 16384 + a * 128 + k]
  | .widF16 d a k => [0xea00000 + d * 16384 + a * 128 + k]
  | .widE4m3 d a k => [0xec00000 + d * 16384 + a * 128 + k]
  | .widE5m2 d a k => [0xee00000 + d * 16384 + a * 128 + k]
  | .vshfl d a b => [0x10000000 + d * 16384 + a * 128 + b]
  | .vshflx d a b => [0x10200000 + d * 16384 + a * 128 + b]
  | .vshfll d a b => [0x10400000 + d * 16384 + a * 128 + b]
  | .vbcast d a n => [0x10600000 + d * 16384 + a * 128 + n]
  | .vscanI32 d a => [0x10800000 + d * 16384 + a * 128]
  | .vscanF32 d a => [0x10a00000 + d * 16384 + a * 128]
  | .vredI32 d a => [0x10c00000 + d * 16384 + a * 128]
  | .vredF32 d a => [0x10e00000 + d * 16384 + a * 128]
  | .vredmax d a => [0x11000000 + d * 16384 + a * 128]
  | .vredmin d a => [0x11200000 + d * 16384 + a * 128]
  | .vvote d a m => [0x11400000 + d * 16384 + a * 128 + m]
  | .vballot d a m => [0x11600000 + d * 16384 + a * 128 + m]
  | .vcount d a => [0x11800000 + d * 16384 + a * 128]
  | .ldN8 t x s l => [0x20000000 + t * 16384 + x * 128 + s * 16 + l]
  | .ldN8Twin t x s l w => [0x60000000 + t * 16384 + x * 128 + s * 16 + l, w]
  | .ldI8 t x s l => [0x20200000 + t * 16384 + x * 128 + s * 16 + l]
  | .ldI8Twin t x s l w => [0x60200000 + t * 16384 + x * 128 + s * 16 + l, w]
  | .ldN16 t x s l => [0x20400000 + t * 16384 + x * 128 + s * 16 + l]
  | .ldN16Twin t x s l w => [0x60400000 + t * 16384 + x * 128 + s * 16 + l, w]
  | .ldI16 t x s l => [0x20600000 + t * 16384 + x * 128 + s * 16 + l]
  | .ldI16Twin t x s l w => [0x60600000 + t * 16384 + x * 128 + s * 16 + l, w]
  | .ldB32 t x s l => [0x20800000 + t * 16384 + x * 128 + s * 16 + l]
  | .ldB32Twin t x s l w => [0x60800000 + t * 16384 + x * 128 + s * 16 + l, w]
  | .ldB64 t x s l => [0x20a00000 + t * 16384 + x * 128 + s * 16 + l]
  | .ldB64Twin t x s l w => [0x60a00000 + t * 16384 + x * 128 + s * 16 + l, w]
  | .ldB128 t x s l => [0x20c00000 + t * 16384 + x * 128 + s * 16 + l]
  | .ldB128Twin t x s l w => [0x60c00000 + t * 16384 + x * 128 + s * 16 + l, w]
  | .stB8 t x s l => [0x21000000 + t * 16384 + x * 128 + s * 16 + l]
  | .stB8Twin t x s l w => [0x61000000 + t * 16384 + x * 128 + s * 16 + l, w]
  | .stB16 t x s l => [0x21200000 + t * 16384 + x * 128 + s * 16 + l]
  | .stB16Twin t x s l w => [0x61200000 + t * 16384 + x * 128 + s * 16 + l, w]
  | .stB32 t x s l => [0x21400000 + t * 16384 + x * 128 + s * 16 + l]
  | .stB32Twin t x s l w => [0x61400000 + t * 16384 + x * 128 + s * 16 + l, w]
  | .stB64 t x s l => [0x21600000 + t * 16384 + x * 128 + s * 16 + l]
  | .stB64Twin t x s l w => [0x61600000 + t * 16384 + x * 128 + s * 16 + l, w]
  | .stB128 t x s l => [0x21800000 + t * 16384 + x * 128 + s * 16 + l]
  | .stB128Twin t x s l w => [0x61800000 + t * 16384 + x * 128 + s * 16 + l, w]
  | .ldBf16 t x s l => [0x22000000 + t * 16384 + x * 128 + s * 16 + l]
  | .ldBf16Twin t x s l w => [0x62000000 + t * 16384 + x * 128 + s * 16 + l, w]
  | .ldF16 t x s l => [0x22200000 + t * 16384 + x * 128 + s * 16 + l]
  | .ldF16Twin t x s l w => [0x62200000 + t * 16384 + x * 128 + s * 16 + l, w]
  | .ldE4m3 t x s l => [0x22400000 + t * 16384 + x * 128 + s * 16 + l]
  | .ldE4m3Twin t x s l w => [0x62400000 + t * 16384 + x * 128 + s * 16 + l, w]
  | .ldE5m2 t x s l => [0x22600000 + t * 16384 + x * 128 + s * 16 + l]
  | .ldE5m2Twin t x s l w => [0x62600000 + t * 16384 + x * 128 + s * 16 + l, w]
  | .ldZb4 t x s l => [0x22800000 + t * 16384 + x * 128 + s * 16 + l]
  | .ldZb4Twin t x s l w => [0x62800000 + t * 16384 + x * 128 + s * 16 + l, w]
  | .ldZb8 t x s l => [0x22a00000 + t * 16384 + x * 128 + s * 16 + l]
  | .ldZb8Twin t x s l w => [0x62a00000 + t * 16384 + x * 128 + s * 16 + l, w]
  | .stBf16 t x s l => [0x23000000 + t * 16384 + x * 128 + s * 16 + l]
  | .stBf16Twin t x s l w => [0x63000000 + t * 16384 + x * 128 + s * 16 + l, w]
  | .stF16 t x s l => [0x23200000 + t * 16384 + x * 128 + s * 16 + l]
  | .stF16Twin t x s l w => [0x63200000 + t * 16384 + x * 128 + s * 16 + l, w]
  | .stE4m3 t x s l => [0x23400000 + t * 16384 + x * 128 + s * 16 + l]
  | .stE4m3Twin t x s l w => [0x63400000 + t * 16384 + x * 128 + s * 16 + l, w]
  | .stE5m2 t x s l => [0x23600000 + t * 16384 + x * 128 + s * 16 + l]
  | .stE5m2Twin t x s l w => [0x63600000 + t * 16384 + x * 128 + s * 16 + l, w]
  | .stZb4 t x s l => [0x23800000 + t * 16384 + x * 128 + s * 16 + l]
  | .stZb4Twin t x s l w => [0x63800000 + t * 16384 + x * 128 + s * 16 + l, w]
  | .stZb8 t x s l => [0x23a00000 + t * 16384 + x * 128 + s * 16 + l]
  | .stZb8Twin t x s l w => [0x63a00000 + t * 16384 + x * 128 + s * 16 + l, w]
  | .vspill t x s l => [0x23c00000 + t * 16384 + x * 128 + s * 16 + l]
  | .vspillTwin t x s l w => [0x63c00000 + t * 16384 + x * 128 + s * 16 + l, w]
  | .vfill t x s l => [0x23e00000 + t * 16384 + x * 128 + s * 16 + l]
  | .vfillTwin t x s l w => [0x63e00000 + t * 16384 + x * 128 + s * 16 + l, w]
  | .ldgB32 t x s l => [0x28000000 + t * 16384 + x * 128 + s * 16 + l]
  | .ldgB64 t x s l => [0x28200000 + t * 16384 + x * 128 + s * 16 + l]
  | .ldgB128 t x s l => [0x28400000 + t * 16384 + x * 128 + s * 16 + l]
  | .stgB32 t x s l => [0x28800000 + t * 16384 + x * 128 + s * 16 + l]
  | .stgB64 t x s l => [0x28a00000 + t * 16384 + x * 128 + s * 16 + l]
  | .stgB128 t x s l => [0x28c00000 + t * 16384 + x * 128 + s * 16 + l]
  | .ldgmB32 t x s l => [0x29000000 + t * 16384 + x * 128 + s * 16 + l]
  | .stgmB32 t x s l => [0x29200000 + t * 16384 + x * 128 + s * 16 + l]
  | .tlook t x l => [0x2a000000 + t * 16384 + x * 128 + l]
  | .tset t x l => [0x2a200000 + t * 16384 + x * 128 + l]
  | .tclr x l => [0x2a400000 + x * 128 + l]
  | .aaddI32 r t x s l => [0x30000000 + r * 33554432 + t * 16384 + x * 128 + s * 16 + l]
  | .aaddI64 r t x s l => [0x30200000 + r * 33554432 + t * 16384 + x * 128 + s * 16 + l]
  | .aminI32 r t x s l => [0x30400000 + r * 33554432 + t * 16384 + x * 128 + s * 16 + l]
  | .amaxI32 r t x s l => [0x30600000 + r * 33554432 + t * 16384 + x * 128 + s * 16 + l]
  | .aminN32 r t x s l => [0x30800000 + r * 33554432 + t * 16384 + x * 128 + s * 16 + l]
  | .amaxN32 r t x s l => [0x30a00000 + r * 33554432 + t * 16384 + x * 128 + s * 16 + l]
  | .aand r t x s l => [0x30c00000 + r * 33554432 + t * 16384 + x * 128 + s * 16 + l]
  | .aor r t x s l => [0x30e00000 + r * 33554432 + t * 16384 + x * 128 + s * 16 + l]
  | .axor r t x s l => [0x31000000 + r * 33554432 + t * 16384 + x * 128 + s * 16 + l]
  | .axchg r t x s l => [0x31200000 + r * 33554432 + t * 16384 + x * 128 + s * 16 + l]
  | .acas r t x s l => [0x31400000 + r * 33554432 + t * 16384 + x * 128 + s * 16 + l]
  | .aaddF32U r t x s l => [0x31600000 + r * 33554432 + t * 16384 + x * 128 + s * 16 + l]
  | .aaddF32O t x s l => [0x31800000 + t * 16384 + x * 128 + s * 16 + l]
  | .ldl t x s l => [0x38000000 + t * 16384 + x * 128 + s * 16 + l]
  | .stul t x s l => [0x38200000 + t * 16384 + x * 128 + s * 16 + l]
  | .gaddI32 t x s l => [0x38400000 + t * 16384 + x * 128 + s * 16 + l]
  | .gaddF32 t x s l => [0x38600000 + t * 16384 + x * 128 + s * 16 + l]
  | .gmaxI32 t x s l => [0x38800000 + t * 16384 + x * 128 + s * 16 + l]
  | .gxchg t x s l => [0x38a00000 + t * 16384 + x * 128 + s * 16 + l]
  | .gcas t x s l => [0x38c00000 + t * 16384 + x * 128 + s * 16 + l]
  | .ckaccI32 d a => [0x3a000000 + d * 16384 + a * 128]
  | .ckaccF32 d a => [0x3a200000 + d * 16384 + a * 128]
  | .ckaccSig d a => [0x3a400000 + d * 16384 + a * 128]
  | .sadd d a b g => [0x80000000 + d * 32768 + a * 512 + b * 8 + g]
  | .ssub d a b g => [0x80200000 + d * 32768 + a * 512 + b * 8 + g]
  | .smul d a b g => [0x80400000 + d * 32768 + a * 512 + b * 8 + g]
  | .smulh d a b g => [0x80600000 + d * 32768 + a * 512 + b * 8 + g]
  | .sand d a b g => [0x80800000 + d * 32768 + a * 512 + b * 8 + g]
  | .sor d a b g => [0x80a00000 + d * 32768 + a * 512 + b * 8 + g]
  | .sxor d a b g => [0x80c00000 + d * 32768 + a * 512 + b * 8 + g]
  | .sshl d a b g => [0x80e00000 + d * 32768 + a * 512 + b * 8 + g]
  | .sshrN d a b g => [0x81000000 + d * 32768 + a * 512 + b * 8 + g]
  | .sshrI d a b g => [0x81200000 + d * 32768 + a * 512 + b * 8 + g]
  | .sminI d a b g => [0x81400000 + d * 32768 + a * 512 + b * 8 + g]
  | .smaxI d a b g => [0x81600000 + d * 32768 + a * 512 + b * 8 + g]
  | .smov d a g => [0x81800000 + d * 32768 + a * 512 + g]
  | .ssel d a b g => [0x81a00000 + d * 32768 + a * 512 + b * 8 + g]
  | .spopc d a g => [0x81c00000 + d * 32768 + a * 512 + g]
  | .sclz d a g => [0x81e00000 + d * 32768 + a * 512 + g]
  | .scmpI q c a b g => [0x82000000 + q * 262144 + c * 32768 + a * 512 + b * 8 + g]
  | .scmpN q c a b g => [0x82200000 + q * 262144 + c * 32768 + a * 512 + b * 8 + g]
  | .saddi d a i => [0x84000000 + d * 32768 + a * 512 + i]
  | .saddiTwin d a w => [0xc4000000 + d * 32768 + a * 512, w]
  | .sshli d a i => [0x84200000 + d * 32768 + a * 512 + i]
  | .sandi d a i => [0x84400000 + d * 32768 + a * 512 + i]
  | .sli d i => [0x84600000 + d * 32768 + i]
  | .sliTwin d w => [0xc4600000 + d * 32768, w]
  | .sli64 d w w2 => [0xc4800000 + d * 32768, w, w2]
  | .sid d s => [0x85000000 + d * 32768 + s]
  | .qlog q o a b g => [0x85200000 + q * 262144 + o * 32768 + a * 512 + b * 8 + g]
  | .cbnd d a b g => [0x88000000 + d * 32768 + a * 512 + b * 8 + g]
  | .crgt d a b g => [0x88200000 + d * 32768 + a * 512 + b * 8 + g]
  | .ccol d a b g => [0x88400000 + d * 32768 + a * 512 + b * 8 + g]
  | .cget d a b g => [0x88600000 + d * 32768 + a * 512 + b * 8 + g]
  | .cmov d a g => [0x88800000 + d * 32768 + a * 512 + g]
  | .cld d c b l => [0x88a00000 + d * 32768 + c * 1024 + b * 16 + l]
  | .cst d c b l => [0x88c00000 + d * 32768 + c * 1024 + b * 16 + l]
  | .ctag d c b l => [0x88e00000 + d * 32768 + c * 1024 + b * 16 + l]
  | .cchk q r a b g => [0x89000000 + q * 262144 + r * 32768 + a * 512 + b * 8 + g]
  | .cnull d g => [0x89200000 + d * 32768 + g]
  | .bq k o => [0x8c000000 + k * 262144 + o]
  | .bqn k o => [0x8c200000 + k * 262144 + o]
  | .brl k o => [0x8c400000 + k * 262144 + o]
  | .brln k o => [0x8c600000 + k * 262144 + o]
  | .call o => [0x8c800000 + o]
  | .ret a g => [0x8ca00000 + a * 512 + g]
  | .jmpc d a b g => [0x8cc00000 + d * 32768 + a * 512 + b * 8 + g]
  | .reform g => [0x8d000000 + g]
  | .heat k n m => heatWords (0x8d200000 + k * 262144 + (n - 1) * 8192) n m
  | .hmap a b => [0x8d400000 + a * 32768 + b * 512]
  | .exit g => [0x8d600000 + g]
  | .nop g => [0x8d800000 + g]
  | .waitm n => [0x8da00000 + n]
  | .waits n => [0x8dc00000 + n]
  | .sldB32 d c b l => [0x90000000 + d * 32768 + c * 1024 + b * 16 + l]
  | .sldB32Twin d c b l w => [0xd0000000 + d * 32768 + c * 1024 + b * 16 + l, w]
  | .sldB64 d c b l => [0x90200000 + d * 32768 + c * 1024 + b * 16 + l]
  | .sldB64Twin d c b l w => [0xd0200000 + d * 32768 + c * 1024 + b * 16 + l, w]
  | .sstB32 d c b l => [0x90400000 + d * 32768 + c * 1024 + b * 16 + l]
  | .sstB32Twin d c b l w => [0xd0400000 + d * 32768 + c * 1024 + b * 16 + l, w]
  | .sstB64 d c b l => [0x90600000 + d * 32768 + c * 1024 + b * 16 + l]
  | .sstB64Twin d c b l w => [0xd0600000 + d * 32768 + c * 1024 + b * 16 + l, w]
  | .fenceAcq s => [0x92000200 + s]
  | .fenceRel s => [0x92000400 + s]
  | .fenceFull s => [0x92000600 + s]
  | .bar l => [0x92200000 + l]
  | .bara l => [0x92400000 + l]
  | .barw l => [0x92600000 + l]
  | .gstep m => [0x92800000 + m]
  | .gcfg a k => [0x92a00000 + a * 32768 + k * 16]
  | .cpy a b i l => [0x94000000 + a * 32768 + b * 512 + i * 16 + l]
  | .cpyc a b i l => [0x94200000 + a * 32768 + b * 512 + i * 16 + l]
  | .cpym a b i l => [0x94400000 + a * 32768 + b * 512 + i * 16 + l]
  | .halo a l => [0x94600000 + a * 32768 + l]
  | .cbseal d => [0x94800000 + d * 32768]
  | .cbwait n => [0x94a00000 + n]
  | .tlsig a b => [0x95000000 + a * 32768 + b * 512]
  | .tlwait a b => [0x95200000 + a * 32768 + b * 512]
  | .tlrd a b => [0x95400000 + a * 32768 + b * 512]
  | .mwld a l => [0x98000000 + a * 32768 + l]
  | .mmul a l => [0x98200000 + a * 32768 + l]
  | .mclr a l => [0x98400000 + a * 32768 + l]
  | .mrd a l => [0x98600000 + a * 32768 + l]
  | .mstg a l => [0x98800000 + a * 32768 + l]
  | .mstat d m => [0x98a00000 + d * 32768 + m * 16]
  | .mspl a l => [0x98c00000 + a * 32768 + l]
  | .rlrun a b d l => [0x9a000000 + a * 32768 + b * 512 + d * 16 + l]
  | .rlinv l => [0x9a200000 + l]
  | .rlstat a => [0x9a400000 + a * 32768]
  | .ckchk a b m => [0x9b000000 + a * 32768 + b * 512 + m * 16]
  | .ckrd d a b g => [0x9b200000 + d * 32768 + a * 512 + b * 8 + g]
  | .ckclr d b g => [0x9b400000 + d * 32768 + b * 8 + g]
  | .vclk d g => [0x9c000000 + d * 32768 + g]
  | .tmarm a b p s => [0x9c200000 + a * 32768 + b * 512 + p * 32 + s * 16]
  | .tmwait a => [0x9c400000 + a * 32768]
  | .tmcan a => [0x9c600000 + a * 32768]
  | .evpop d b g => [0x9c800000 + d * 32768 + b * 8 + g]
  | .pcnt d s => [0x9ca00000 + d * 32768 + s]
  | .csrr d i => [0x9cc00000 + d * 32768 + i]
  | .csrw a i => [0x9ce00000 + a * 512 + i]
  | .trap n => [0x9d000000 + n]
  | .syscNull d a => [0x9d200000 + d * 32768 + a * 512]
  | .syscPostPeerEvent d a => [0x9d200001 + d * 32768 + a * 512]
  | .syscPostHostEvent d a => [0x9d200002 + d * 32768 + a * 512]
  | .syscEndLaunch d a => [0x9d200003 + d * 32768 + a * 512]
  | .syscReserved d a c => [0x9d200000 + d * 32768 + a * 512 + c]
  | .syscHold d a => [0x9d200010 + d * 32768 + a * 512]
  | .syscEvict d a => [0x9d200011 + d * 32768 + a * 512]
  | .syscRuntimeService d a c => [0x9d200000 + d * 32768 + a * 512 + c]
  | .brk n => [0x9d400000 + n]
  | .spawn d k b => [0x9e000000 + d * 32768 + k * 1024 + b * 16]

end Sys2Proof
end

