-- ==== Sys2Proof/Config.lean ====
section
/-! DEFINITION. What an implementation fixes: the counts of one KB640 (R2, R11, R12), and the functions whose values the spec
names but does not compute (log 11): constants with no body, so a claim holds whatever they are. -/
namespace Sys2Proof.Config

/-- Compute dies of a module (R2). -/
def dies : Nat := 4
/-- Quads of a die (R11). -/
def quadsPerDie : Nat := 40
/-- Cores of a quad (R11). -/
def coresPerQuad : Nat := 4
/-- Quads of a module. -/
def quads : Nat := 160
/-- Copy engines of a die, and channel contexts of an engine (R284). -/
def enginesPerDie : Nat := 64
def contextsPerEngine : Nat := 32
/-- Bytes of HBM of a module: 768 GiB (R2). -/
def hbmBytes : Nat := 768 * 1073741824
/-- Bytes of HBM near one die: two stacks of 96 GiB (R2, R7). -/
def dieBytes : Nat := 192 * 1073741824
/-- Bytes of one HBM stack (R2). -/
def stackBytes : Nat := 96 * 1073741824
/-- What the power manager plans for each consumer at its full rate, in W (R441): matrix engine, lane pipes, HBM, SerDes, static. -/
def powerBudget : List Nat := [600, 350, 600, 200, 450]
/-- The limits of the average and of the instantaneous draw, in W (R440). -/
def powerLimit : Nat := 2400
def powerCeiling : Nat := 2880
/-- This module's number in its pod (the pod's numbering is outside the module; log 10). -/
def moduleId : Nat := 0

/-- The pod fabric port, of 18, before a peer module (R8); the pod's cabling is outside the module. Free. -/
opaque fabricPort : (module_ : Nat) → Nat
/-- Which of the eight memory ports of the issuing die an access to a sector of an object uses (R11). Free. -/
opaque memoryPort : (object sector : Nat) → Nat
/-- SHA-512 of a byte string (R94, R97, R445, R447). Its value is defined outside the spec: free. -/
opaque sha512 : List Byte → BitVec 512
/-- Whether an ECDSA P-521 signature verifies under Kamver's firmware key (R445). Free. -/
opaque firmwareSigOk : (message signature : List Byte) → Bool
/-- The module's certificate chain (R447). Free. -/
opaque certificateChain : List Byte
/-- The signature of the identity key derived from the fused secret and an svn over a message (R447, R448). Free. -/
opaque attestSign : (svn : Nat) → (message : List Byte) → List Byte
/-- The replies to GET_VERSION and GET_CAPABILITIES, whose contents DMTF fixes and the spec does not (R448). Free. -/
opaque spdmReply : Nat → List Byte
/-- Bytes of the management window's feature list to which the spec gives no value (R450). Free. -/
opaque windowByte : Nat → Byte
/-- A value the spec leaves open, a fresh one for each index (State.free counts them). Free. -/
opaque freeValue : Nat → BitVec 512

end Sys2Proof.Config
end

