-- ==== Sys2Proof/Machine/Sparse.lean ====
section
/-! DEFINITION. Finite maps from natural numbers as plain data: lists of key and value, keys strictly rising. -/
namespace Sys2Proof.Machine

/-- A finite map: keys strictly rising (`Tab.wf`). -/
abbrev Tab (α : Type) := List (Nat × α)

variable {α : Type}

/-- The value at a key. -/
def Tab.find : Tab α → Nat → Option α
  | [], _ => none
  | (j, v) :: t, k => if k = j then some v else Tab.find t k

/-- Set the value at a key, keeping the keys rising. -/
def Tab.put (k : Nat) (v : α) : Tab α → Tab α
  | [] => [(k, v)]
  | (j, u) :: t =>
    if k < j then (k, v) :: (j, u) :: t
    else if k = j then (k, v) :: t
    else (j, u) :: Tab.put k v t

/-- Drop a key. -/
def Tab.del (k : Nat) (t : Tab α) : Tab α := t.filter fun p => !(p.1 == k)

/-- Change the value at a key, where there is one. -/
def Tab.modify (t : Tab α) (k : Nat) (f : α → α) : Tab α := t.map fun p => if p.1 = k then (p.1, f p.2) else p

/-- Change every value. -/
def Tab.mapVals (t : Tab α) (f : Nat → α → α) : Tab α := t.map fun p => (p.1, f p.1 p.2)

/-- The values, in rising key order. -/
def Tab.vals (t : Tab α) : List α := t.map Prod.snd

/-- The keys, in rising order. -/
def Tab.keys (t : Tab α) : List Nat := t.map Prod.fst

/-- Keys strictly rising from above `lo`. -/
def Tab.risingFrom : Nat → Tab α → Bool
  | _, [] => true
  | lo, (j, _) :: t => decide (lo ≤ j) && Tab.risingFrom (j + 1) t

/-- The canonical form of a map. -/
def Tab.wf (t : Tab α) : Bool := Tab.risingFrom 0 t

/-- A map with a default value d: the value at a key. -/
def sget (d : α) (t : Tab α) (k : Nat) : α := (t.find k).getD d

/-- Set a key of a map with a default: writing the default removes the entry. -/
def sset [DecidableEq α] (d : α) (t : Tab α) (k : Nat) (v : α) : Tab α :=
  if v = d then t.del k else t.put k v

/-- The canonical form of a map with a default: keys rising, no entry equal to the default. -/
def sparseWf [DecidableEq α] (d : α) (t : Tab α) : Bool := t.wf && t.all fun p => !decide (p.2 = d)

end Sys2Proof.Machine
end

