-- ==== Sys2Proof/Machine/Num.lean ====
section
/-! DEFINITION. Numbers, carriers and rounding (03_numbers): the formats of R42, exact dyadic values, the carrier of R49, the final
rounding of R27, special values (R57), stochastic draws (R58), exact sums under R191 and the block encoders (R65, R66). -/
namespace Sys2Proof.Machine

/-- A bit vector's bit. -/
abbrev bit (w : Nat) (i : Nat) : Bool := w / 2 ^ i % 2 == 1

/-- Sign extension of the low n bits of x, as an integer. -/
def sextN (n x : Nat) : Int :=
  let y := x % 2 ^ n
  if y < 2 ^ (n - 1) then (y : Int) else (y : Int) - 2 ^ n

/-- floor(log2 m) for m > 0; 0 for 0. -/
def log2n (m : Nat) : Nat := Nat.log2 m

/-- The five flag bits of `%flags` (R69). -/
abbrev Flags5 := BitVec 5
def fNone : Flags5 := 0
def fInvalid : Flags5 := 1
def fDivzero : Flags5 := 2
def fOverflow : Flags5 := 4
def fUnderflow : Flags5 := 8
def fInexact : Flags5 := 16
/-- A flag set exactly when b holds. -/
def flagIf (b : Bool) (f : Flags5) : Flags5 := if b then f else 0

/-- The floating formats of R42. -/
inductive Fmt where
  | f32 | bf16 | f16 | e4m3 | e5m2 | e2m1
deriving DecidableEq, Repr

/-- p_F: significand bits, the hidden bit included. -/
def Fmt.p : Fmt → Nat
  | .f32 => 24 | .bf16 => 8 | .f16 => 11 | .e4m3 => 4 | .e5m2 => 3 | .e2m1 => 2
/-- emin_F: exponent of the smallest normal binade. -/
def Fmt.emin : Fmt → Int
  | .f32 => -126 | .bf16 => -126 | .f16 => -14 | .e4m3 => -6 | .e5m2 => -14 | .e2m1 => 0
/-- Exponent bits. -/
def Fmt.eb : Fmt → Nat
  | .f32 => 8 | .bf16 => 8 | .f16 => 5 | .e4m3 => 4 | .e5m2 => 5 | .e2m1 => 2
/-- Mantissa bits. -/
def Fmt.mb (f : Fmt) : Nat := f.p - 1
/-- Width of a field. -/
def Fmt.bits (f : Fmt) : Nat := 1 + f.eb + f.mb
/-- max_F as (significand, exponent). -/
def Fmt.maxM : Fmt → Nat × Int
  | .f32 => (2 ^ 24 - 1, 104) | .bf16 => (2 ^ 8 - 1, 120) | .f16 => (2 ^ 11 - 1, 5)
  | .e4m3 => (7, 6) | .e5m2 => (7, 13) | .e2m1 => (3, 1)
/-- Exponent of m_min(F) = 2^(emin - (p - 1)). -/
def Fmt.qmin (f : Fmt) : Int := f.emin - (f.p - 1 : Nat)
/-- The canonical NaN field of R44 (E2M1 has none; its NaN finalises to +0, R57). -/
def Fmt.nanCode : Fmt → Nat
  | .f32 => 0x7FC00000 | .bf16 => 0x7FC0 | .f16 => 0x7E00 | .e4m3 => 0x7F | .e5m2 => 0x7E | .e2m1 => 0

/-- An exact value: NaN, an infinity, or plus or minus m times 2^e (m = 0: a signed zero). -/
inductive FVal where
  | nan
  | inf (neg : Bool)
  | fin (neg : Bool) (m : Nat) (e : Int)
deriving DecidableEq, Repr

/-- +0. -/
def FVal.zero : FVal := .fin false 0 0

/-- m times 2^e with e at least -k, as an integer multiple of 2^-k. -/
def scaled (m : Nat) (e : Int) (k : Int) : Nat := m * 2 ^ (e + k).toNat

/-- Compare two magnitudes m1 2^e1 < m2 2^e2. -/
def magLt (m1 : Nat) (e1 : Int) (m2 : Nat) (e2 : Int) : Bool :=
  let k := -(min e1 e2)
  decide (scaled m1 e1 k < scaled m2 e2 k)

/-- Decode a field of a format (R43, R42). -/
def decodeF (f : Fmt) (w : Nat) : FVal :=
  let m := w % 2 ^ f.mb
  let e := w / 2 ^ f.mb % 2 ^ f.eb
  let s := bit w (f.bits - 1)
  let top := 2 ^ f.eb - 1
  let special := match f with
    | .f32 | .bf16 | .f16 | .e5m2 => decide (e = top)
    | .e4m3 => decide (e = top) && decide (m = 7)
    | .e2m1 => false
  if special then
    (match f with
     | .e4m3 => .nan
     | _ => if m = 0 then .inf s else .nan)
  else if e = 0 then .fin s m f.qmin
  else .fin s (2 ^ f.mb + m) (f.qmin + (e - 1 : Nat))

/-- Encode a value that lies on a format's grid and within its range (R43); NaN is canonical (R44). -/
def encodeF (f : Fmt) (v : FVal) : Nat :=
  match v with
  | .nan => f.nanCode
  | .inf s => (if s then 2 ^ (f.bits - 1) else 0) + (2 ^ f.eb - 1) * 2 ^ f.mb
  | .fin s m e =>
    let sg := if s then 2 ^ (f.bits - 1) else 0
    if m = 0 then sg
    else
      let E : Int := e + log2n m
      if E < f.emin then sg + (if e ≥ f.qmin then m * 2 ^ (e - f.qmin).toNat else m / 2 ^ (f.qmin - e).toNat)
      else
        let q := E - f.mb
        let k := if e ≥ q then m * 2 ^ (e - q).toNat else m / 2 ^ (q - e).toNat
        sg + ((E - f.emin).toNat + 1) * 2 ^ f.mb + k % 2 ^ f.mb

/-- The rounding modes of R56. -/
inductive RMode where
  | rne | rtz | rdn | rup | rna
deriving DecidableEq, Repr

/-- A rounding mode from its code; the reserved codes are never in force (R70) and read as RNE. -/
def RMode.ofCode : Nat → RMode
  | 1 => .rtz | 2 => .rdn | 3 => .rup | 4 => .rna | _ => .rne

/-- A magnitude cut at 2^q: the units, and whether anything lies below; above it, exactly half or more. -/
structure Cut where
  k : Nat
  rest : Nat
  half : Nat
deriving DecidableEq, Repr

/-- Cut m 2^e at 2^q: units k, the rest, and half a unit, on one scale. -/
def cutAt (m : Nat) (e q : Int) : Cut :=
  if e ≥ q then ⟨m * 2 ^ (e - q).toNat, 0, 1⟩
  else let d := 2 ^ (q - e).toNat
       ⟨m / d, m % d, d / 2⟩

/-- Round a cut by a mode, for a sign. -/
def Cut.round (c : Cut) (mode : RMode) (neg : Bool) : Nat :=
  if c.rest = 0 then c.k
  else match mode with
    | .rtz => c.k
    | .rdn => if neg then c.k + 1 else c.k
    | .rup => if neg then c.k else c.k + 1
    | .rne => if c.rest > c.half || (c.rest == c.half && c.k % 2 == 1) then c.k + 1 else c.k
    | .rna => if c.rest ≥ c.half then c.k + 1 else c.k

/-- The grid exponent of precision p and emin for m 2^e, m > 0. -/
def gridQ (p : Nat) (emin : Int) (m : Nat) (e : Int) : Int := max (e + log2n m) emin - (p - 1 : Nat)

/-- round_odd of R27 on a finite magnitude: the rounded value and whether it is inexact. -/
def roundOddMag (p : Nat) (emin : Int) (m : Nat) (e : Int) : Nat × Int × Bool :=
  if m = 0 then (0, e, false)
  else
    let q := gridQ p emin m e
    let c := cutAt m e q
    if c.rest = 0 then (m, e, false)
    else (if c.k % 2 = 0 then c.k + 1 else c.k, q, true)

/-- round_odd of R27; NaN and infinities pass (R50). A zero keeps its sign: DESIGN CHOICE, R27 returns 0 for x = 0 and says nothing of the sign of
a source of -0 (log 31). -/
def roundOdd (p : Nat) (emin : Int) : FVal → FVal × Bool
  | .fin s m e => let r := roundOddMag p emin m e; (.fin s r.1 r.2.1, r.2.2)
  | v => (v, false)

/-- carrier of R27 and R50. -/
def carrier (x : FVal) (f : Fmt) (sIn : Bool) : FVal × Bool :=
  let r := roundOdd (f.p + 2) f.emin x
  (r.1, sIn || r.2)

/-- special_F of R57. sat: overflow mode SAT; s: the sticky bit of the carrier. -/
def specialF (f : Fmt) (v : FVal) (sat s : Bool) : FVal × Flags5 :=
  match f, v with
  | .e2m1, .nan => (.zero, fInvalid)
  | _, .nan => (.nan, 0)
  | .f32, .inf n => (.inf n, 0)
  | .e4m3, .inf n => (if sat then .fin n 7 6 else .nan, fOverflow ||| fInexact)
  | .e2m1, .inf n => (.fin n 3 1, fOverflow ||| fInexact)
  | f, .inf n =>
    if s then (if sat then .fin n f.maxM.1 f.maxM.2 else .inf n, fOverflow ||| fInexact) else (.inf n, 0)
  | _, .fin n m e => (.fin n m e, 0)

/-- How a final rounding is made: mode, SAT, stochastic underflow. -/
structure FinMode where
  mode : RMode
  sat : Bool
  sru : Bool
deriving DecidableEq, Repr

/-- round_final of R27 (with R57 and R58). u is the draw; it is used only when the rounding draws. A nonzero value that rounds to zero keeps its sign,
which the spec gives for exact zeros only (R193; DESIGN CHOICE, log 31). -/
def roundFinal (c : FVal) (f : Fmt) (fm : FinMode) (sIn : Bool) (u : Nat) : FVal × Flags5 :=
  match c with
  | .nan => specialF f .nan fm.sat sIn
  | .inf n => specialF f (.inf n) fm.sat sIn
  | .fin n m e =>
    if m = 0 then (.fin n 0 0, flagIf sIn fInexact)
    else if fm.sru && magLt m e 1 f.qmin then
      let t := (cutAt (m * 65536) e f.qmin).k
      (if t > u then .fin n 1 f.qmin else .fin n 0 0, fUnderflow ||| fInexact)
    else
      let q := gridQ f.p f.emin m e
      let ct := cutAt m e q
      let k := ct.round fm.mode n
      if magLt f.maxM.1 f.maxM.2 k q then
        (if fm.sat then .fin n f.maxM.1 f.maxM.2 else if f = .e4m3 then .nan else .inf n, fOverflow ||| fInexact)
      else
        let ix := decide (ct.rest ≠ 0)
        (.fin n k q, flagIf (ix || sIn) fInexact ||| flagIf (ix && magLt m e 1 f.emin) fUnderflow)

/-- The FP32 field that holds a value (R47): a magnitude of 2^128 or more is the infinity of its sign, with S set. -/
def holdF32 (v : FVal) : W32 × Bool :=
  match v with
  | .fin n m e =>
    if m ≠ 0 ∧ e + log2n m ≥ 128 then (BitVec.ofNat 32 (encodeF .f32 (.inf n)), true)
    else (BitVec.ofNat 32 (encodeF .f32 v), false)
  | v => (BitVec.ofNat 32 (encodeF .f32 v), false)

/-- The value of an FP32 field. -/
def val32 (w : W32) : FVal := decodeF .f32 w.toNat

/-- A field that is a NaN. -/
def isNaN32 (w : W32) : Bool := val32 w == .nan

/-! ### Draws (R58, R59) -/

/-- sru_draw of R58: 16 bits. -/
def sruDraw (seed : W64) (id n : Nat) : Nat :=
  let z := seed ^^^ (BitVec.ofNat 64 (id % 2 ^ 32) <<< 32) ^^^ BitVec.ofNat 64 (n % 2 ^ 32)
  let z := z + 0x9E3779B97F4A7C15#64
  let z := (z ^^^ (z >>> 30)) * 0xBF58476D1CE4E5B9#64
  let z := (z ^^^ (z >>> 27)) * 0x94D049BB133111EB#64
  let z := z ^^^ (z >>> 31)
  (z >>> 48).toNat

/-! ### Exact sums and products under R191 -/

/-- The product of two values, and whether it is 0 times infinity. -/
def FVal.mul : FVal → FVal → FVal × Bool
  | .nan, _ => (.nan, false)
  | _, .nan => (.nan, false)
  | .inf a, .inf b => (.inf (a ^^ b), false)
  | .inf a, .fin b m _ => if m = 0 then (.nan, true) else (.inf (a ^^ b), false)
  | .fin a m _, .inf b => if m = 0 then (.nan, true) else (.inf (a ^^ b), false)
  | .fin a m e, .fin b n g => (.fin (a ^^ b) (m * n) (e + g), false)

/-- Change of sign. -/
def FVal.neg : FVal → FVal
  | .nan => .nan
  | .inf a => .inf (!a)
  | .fin a m e => .fin (!a) m e

/-- The least exponent of the finite terms. -/
def minExp : List FVal → Int
  | [] => 0
  | .fin _ _ e :: t => min e (minExp t)
  | _ :: t => minExp t

/-- The exact sum of the finite terms in units of 2^q. -/
def sumUnits (q : Int) : List FVal → Int
  | [] => 0
  | .fin s m e :: t =>
    let u : Int := (m * 2 ^ (e - q).toNat : Nat)
    (if s then -u else u) + sumUnits q t
  | _ :: t => sumUnits q t

/-- An integer count of 2^q as a value; zero takes the sign given. -/
def ofUnits (u : Int) (q : Int) (negZero : Bool) : FVal :=
  if u = 0 then .fin negZero 0 0 else .fin (decide (u < 0)) u.natAbs q

/-- Every term is a zero of the sign s. -/
def allZero (s : Bool) (ts : List FVal) : Bool := ts.all fun v => match v with
  | .fin n m _ => m == 0 && n == s
  | _ => false

/-- The exact sum of terms, some of which may be invalid products, under R191: the value, and whether invalid is raised. -/
def sumExact (ts : List (FVal × Bool)) (rdn : Bool) : FVal × Bool :=
  let vs := ts.map Prod.fst
  let bad := ts.any (·.2) || (vs.contains (.inf false) && vs.contains (.inf true))
  if bad then (.nan, true)
  else if vs.contains .nan then (.nan, false)
  else if vs.contains (.inf false) then (.inf false, false)
  else if vs.contains (.inf true) then (.inf true, false)
  else
    let q := minExp vs
    (ofUnits (sumUnits q vs) q (allZero true vs || (rdn && !allZero false vs)), false)

/-- An image's parts and the flags an operation raises. -/
structure FRes where
  f : W32
  s : Bool
  fl : Flags5
deriving DecidableEq, Repr

/-- The canonical FP32 NaN. -/
def nanF32 : W32 := 0x7FC00000#32

/-- Round an exact value once to FP32 by an arithmetic mode (R193): field, inexact bit, flags. -/
def roundF32 (x : FVal) (mode : RMode) : FRes :=
  let r := roundFinal x .f32 ⟨mode, false, false⟩ false 0
  ⟨BitVec.ofNat 32 (encodeF .f32 r.1), (r.2 &&& fInexact) != 0, r.2⟩

/-- Round a sum of terms once (R191, R193, R196). -/
def roundSum (ts : List (FVal × Bool)) (mode : RMode) : FRes :=
  let x := sumExact ts (mode == .rdn)
  if x.2 then ⟨nanF32, false, fInvalid⟩ else roundF32 x.1 mode

/-- FP32 addition with special cases (R191); used by FADD, VSCAN, VRED, AADD.f32.u and GADD.f32. -/
def fadd32 (a b : W32) (mode : RMode) : FRes := roundSum [(val32 a, false), (val32 b, false)] mode

/-! ### Quotients and roots -/

/-- a / b for positive magnitudes, exact or with an odd last unit that records a remainder (at least 40 bits). -/
def divSticky (ma : Nat) (ea : Int) (mb : Nat) (eb : Int) : FVal :=
  let n := ma * 2 ^ 64
  let q := n / mb
  .fin false (2 * q + (if n % mb = 0 then 0 else 1)) (ea - eb - 65)

/-- Integer square root by bits, from bit i down. -/
def isqrtBits (n : Nat) : Nat → Nat → Nat
  | 0, r => r
  | i + 1, r => let c := r + 2 ^ i; isqrtBits n i (if c * c ≤ n then c else r)

/-- floor(sqrt n). -/
def isqrt (n : Nat) : Nat := isqrtBits n (log2n n / 2 + 1) 0

/-- m 2^e with an even exponent. -/
def evenExp (m : Nat) (e : Int) : Nat × Int := if e % 2 = 0 then (m, e) else (2 * m, e - 1)

/-- The square root of m 2^e, exact or with an odd last unit. -/
def sqrtSticky (m : Nat) (e : Int) : FVal :=
  let p := evenExp m e
  let n := p.1 * 2 ^ 128
  let r := isqrt n
  .fin false (2 * r + (if r * r = n then 0 else 1)) (p.2 / 2 - 65)

/-- 1 / sqrt(m 2^e), exact or with an odd last unit. -/
def rsqrtSticky (m : Nat) (e : Int) : FVal :=
  let p := evenExp m e
  let n := 2 ^ 240 / p.1
  let r := isqrt n
  .fin false (2 * r + (if r * r * p.1 = 2 ^ 240 then 0 else 1)) (-(p.2 / 2) - 121)

/-- ln 2 in units of 2^-256, rounded down (the constant's digits: log 14). -/
def ln2Fix : Nat := 0xB17217F7D1CF79ABC9E3B39803F2F6AF40F343267298B62D8A0D175B8BAAFA2B

/-- exp(t) for t in units of 2^-256, 0 ≤ t < 1: the sum of terms t^k / k!, rounded down term by term. -/
def expSeries (t : Nat) : Nat → Nat → Nat → Nat → Nat
  | 0, _, _, acc => acc
  | fuel + 1, k, term, acc => let nt := term * t / 2 ^ 256 / k; expSeries t fuel (k + 1) nt (acc + nt)

/-- 2^x for a finite x = plus or minus m 2^e, exact for integers, else with an odd last unit (about 240 bits). -/
def exp2Sticky (neg : Bool) (m : Nat) (e : Int) : FVal :=
  if m = 0 then .fin false 1 0
  else if e + log2n m ≥ 9 then .fin false 1 (if neg then -400 else 400)
  else
    let k : Int := if e < 0 then -e else 0
    let u : Int := (m * 2 ^ (e + k).toNat : Nat)
    let x : Int := if neg then -u else u
    let d : Int := 2 ^ k.toNat
    let i := x / d
    let f := (x % d).toNat
    if f = 0 then .fin false 1 i
    else
      let t := f * ln2Fix / 2 ^ k.toNat
      .fin false (2 * expSeries t 64 1 (2 ^ 256) (2 ^ 256) + 1) (i - 257)

/-- Bits of log2 of x / 2^256 in [1, 2), by squaring: n bits, most significant first. -/
def log2Bits : Nat → Nat → Nat → Nat
  | 0, _, acc => acc
  | n + 1, x, acc =>
    let y := x * x / 2 ^ 256
    if y ≥ 2 ^ 257 then log2Bits n (y / 2) (2 * acc + 1) else log2Bits n y (2 * acc)

/-- log2 of a positive m 2^e, exact for powers of two, else with an odd last unit (128 fraction bits). -/
def log2Sticky (m : Nat) (e : Int) : FVal :=
  let l := log2n m
  let k : Int := e + l
  if m = 2 ^ l then ofUnits k 0 false
  else
    let L := log2Bits 128 (m * 2 ^ 256 / 2 ^ l) 0
    ofUnits (k * 2 ^ 129 + (2 * L + 1 : Nat)) (-129) false

/-- The 12-bit RNE rounding of R198 on a value that is not zero: field, S and flags. -/
def round12 (v : FVal) : FRes :=
  match v with
  | .fin n m e =>
    if m = 0 then ⟨BitVec.ofNat 32 (encodeF .f32 v), false, 0⟩
    else
      let q := gridQ 12 (-126) m e
      let c := cutAt m e q
      let k := c.round .rne n
      if k ≠ 0 ∧ q + log2n k ≥ 128 then ⟨BitVec.ofNat 32 (encodeF .f32 (.inf n)), true, fOverflow ||| fInexact⟩
      else
        let ix := decide (c.rest ≠ 0)
        ⟨BitVec.ofNat 32 (encodeF .f32 (.fin n k q)), ix, flagIf ix fInexact ||| flagIf (ix && magLt m e 1 (-126)) fUnderflow⟩
  | v => ⟨BitVec.ofNat 32 (encodeF .f32 v), false, 0⟩

/-! ### The wide accumulator of R248, R270 and R346 -/

/-- A wide sum: a value with a 32-bit significand and whether any addition was inexact. -/
structure Wide where
  v : FVal
  s : Bool
deriving DecidableEq, Repr

/-- Add a term, rounding to odd at 32 bits (R248). The Bool says whether the addition is of +∞ and -∞. A sum of exactly zero is +0 under every
rounding mode, and -0 only where both terms are -0: DESIGN CHOICE, R248 gives its sign nowhere (log 31). -/
def Wide.add (w : Wide) (x : FVal) : Wide × Bool :=
  let r := sumExact [(w.v, false), (x, false)] false
  let o := roundOdd 32 (-511) r.1
  (⟨o.1, w.s || o.2⟩, r.2)

/-! ### Block formats (R61 to R66) -/

/-- The value of an E8M0 scale's exponent: code - 127. -/
def scaleExp (c : Nat) : Int := (c : Int) - 127

/-- Scale a value by 2^k. -/
def FVal.scale (v : FVal) (k : Int) : FVal := match v with
  | .fin n m e => .fin n m (e + k)
  | v => v

/-- A decoded block element: value held as R47 and R64 give: field, S, flags. An infinite E5M2 code is held as that infinity, S clear and without
flags: whether R64's 'magnitude is 2^128 or more' takes it in is open (DESIGN CHOICE, log 31). -/
def holdBlock (v : FVal) : FRes :=
  let h := holdF32 v
  ⟨h.1, h.2, flagIf h.2 (fOverflow ||| fInexact)⟩

/-- The exact value of a ZB4 code under a scale and a special byte (R62). -/
def zb4Val (code scale special : Nat) : FVal :=
  if scale = 255 then .nan
  else if code = 8 then (decodeF .e4m3 special).scale (scaleExp scale)
  else (decodeF .e2m1 code).scale (scaleExp scale)

/-- The exact value of a ZB8 or ZB8E byte under a scale (R62). -/
def zb8Val (f : Fmt) (byte scale : Nat) : FVal :=
  if scale = 255 then .nan else (decodeF f byte).scale (scaleExp scale)

/-- The largest magnitude among finite values, and the index of its first holder. -/
def amaxAux : List FVal → Nat → (Nat × Int × Nat) → Nat × Int × Nat
  | [], _, b => b
  | .fin _ m e :: t, i, b => amaxAux t (i + 1) (if magLt b.1 b.2.1 m e then (m, e, i) else b)
  | _ :: t, i, b => amaxAux t (i + 1) b

/-- Clamp an exponent to -127 .. 127. -/
def clampE (x : Int) : Int := if x < -127 then -127 else if x > 127 then 127 else x

/-- Distance comparison of two values from y, all in units of 2^q: |a - y| < |b - y|, with equality second. -/
def distUnits (q : Int) (v y : FVal) : Nat := (sumUnits q [v] - sumUnits q [y]).natAbs

/-- The ordinary ZB4 codes: 0b0000 to 0b0111 and 0b1001 to 0b1111 (R65). -/
def zb4Ordinary : List Nat := [0, 1, 2, 3, 4, 5, 6, 7, 9, 10, 11, 12, 13, 14, 15]

/-- The nearest ordinary code: between two at equal distance the one with low bit 0. -/
def nearestOrd (q : Int) (y : FVal) : List Nat → Nat × Nat → Nat × Nat
  | [], b => b
  | c :: t, b =>
    let d := distUnits q (decodeF .e2m1 c) y
    nearestOrd q y t (if d < b.2 || (d == b.2 && c % 2 == 0 && b.1 % 2 == 1) then (c, d) else b)

/-- One element of encode_zb4: code, flags (R65). sp is the special byte, u the draw. -/
def zb4Elem (y : FVal) (s sru : Bool) (sp : Nat) (u : Nat) : Nat × Flags5 :=
  match y with
  | .fin n m e =>
    if sru && m != 0 && magLt m e 1 (-1) then
      let t := (cutAt (m * 65536) e (-1)).k
      let code := if t > u then (if n then 9 else 1) else 0
      let val : FVal := if code = 0 then .zero else .fin n 1 (-1)
      let q := min e (-1)
      (code, fUnderflow ||| flagIf (s || decide (distUnits q val y ≠ 0)) fInexact)
    else
      let spv := decodeF .e4m3 sp
      let q := min (min e (-9)) (minExp [spv])
      let o := nearestOrd q y zb4Ordinary.tail (0, distUnits q .zero y)
      let useSp := decide (distUnits q spv y < o.2) && spv != .nan
      let code := if useSp then 8 else o.1
      let d := if useSp then distUnits q spv y else o.2
      (code, flagIf (s || decide (d ≠ 0)) fInexact
        ||| flagIf (m != 0 && code != 0 && d != 0 && magLt m e 1 (-1)) fUnderflow)
  | _ => (0, 0)

/-- An encoded block: 64 codes, scale byte, special byte, each element's flags and the block-wide flags. -/
structure Block where
  codes : List Nat
  scale : Nat
  special : Nat
  elemFl : List Flags5
  blockFl : Flags5
deriving DecidableEq, Repr

/-- An input element of a block encoder: value, S, its draw. -/
structure BlkIn where
  v : FVal
  s : Bool
  u : Nat
deriving DecidableEq, Repr

/-- A block of equal codes. -/
def constBlock (scale : Nat) (fl : Flags5) : Block := ⟨List.replicate 64 0, scale, 0, List.replicate 64 0, fl⟩

/-- A value that is NaN or infinite. -/
def FVal.special (v : FVal) : Bool := match v with
  | .fin .. => false
  | _ => true

/-- encode_zb4 of R65. -/
def encodeZb4 (xs : List BlkIn) (sru : Bool) : Block :=
  let vs := xs.map (·.v)
  if vs.any FVal.special then constBlock 255 fInvalid
  else
    let am := amaxAux vs 0 (0, 0, 0)
    if am.1 = 0 then constBlock 0x7F 0
    else
      let e0 : Int := am.2.1 + log2n am.1 - 2
      let E := clampE e0
      let xj := (vs.getD am.2.2 .zero).scale (-E)
      let sp := encodeF .e4m3 (roundFinal xj .e4m3 ⟨.rne, true, false⟩ false 0).1
      let es := xs.map fun x => zb4Elem (x.v.scale (-E)) x.s sru sp x.u
      let spv := decodeF .e4m3 sp
      let lim : Nat × Int := match spv with
        | .fin _ m e => if magLt 6 0 m e then (m, e) else (6, 0)
        | _ => (6, 0)
      let beyond := decide (e0 > 127) && vs.any fun v => match v.scale (-E) with
        | .fin _ m e => magLt lim.1 lim.2 m e
        | _ => false
      ⟨es.map Prod.fst, (E + 127).toNat, sp, es.map Prod.snd, flagIf beyond fOverflow⟩

/-- The ZB8 (E4M3) and ZB8E (E5M2) encoders of R66. -/
def encodeZb8 (f : Fmt) (xs : List BlkIn) (mode : RMode) (sru : Bool) : Block :=
  let vs := xs.map (·.v)
  if vs.any FVal.special then constBlock 255 fInvalid
  else
    let am := amaxAux vs 0 (0, 0, 0)
    if am.1 = 0 then constBlock 0x7F 0
    else
      let E := clampE (am.2.1 + log2n am.1 - (if f = .e4m3 then 7 else 14))
      let es := xs.map fun x =>
        let c := carrier (x.v.scale (-E)) f x.s
        let r := roundFinal c.1 f ⟨mode, true, sru⟩ c.2 x.u
        (encodeF f r.1, r.2)
      ⟨es.map Prod.fst, (E + 127).toNat, 0, es.map Prod.snd, 0⟩

/-- CRC-32C of R354: one byte, reflected polynomial 0x82F63B78. -/
def crcBits : Nat → W32 → W32
  | 0, c => c
  | n + 1, c => crcBits n (if c.getLsbD 0 then (c >>> 1) ^^^ 0x82F63B78#32 else c >>> 1)

/-- Update the CRC register with a byte. -/
def crcByte (c : W32) (b : Nat) : W32 := crcBits 8 (c ^^^ BitVec.ofNat 32 (b % 256))

/-- Update the CRC register with the four bytes of a word, low byte first (R355). -/
def crcWord (c : W32) (w : W32) : W32 :=
  [0, 1, 2, 3].foldl (fun c i => crcByte c (w.toNat / 256 ^ i)) c

end Sys2Proof.Machine
end

