-- ==== Sys2Proof/Machine/State.lean ====
section
/-! DEFINITION. The state of one KB640 module as plain data: everything the spec gives the machine (INVENTORY.md lists each field with
its rule), and the machine right after reset. Tables are flat: launches by handle, gangs by launch × 131,072 + gang (a reduce kernel adds 65,536), teams by gang × 4 + team,
waves by team × 64 + wave, threads by team × 2,048 + thread, groups by team × 64 + group slot. -/
namespace Sys2Proof.Machine

/-! ### Registers -/

/-- A lane register's 33-bit image: field and sticky bit (R22). -/
structure Image where
  f : W32
  s : Bool
deriving DecidableEq, Repr

/-- Zero with S clear: a lane register at dispatch (R29). -/
def Image.zero : Image := ⟨0, false⟩

/-- A capability register: 128 bits and the validity bit (R140). -/
structure Cap where
  bits : W128
  valid : Bool
deriving DecidableEq, Repr

/-- The null capability (R140). -/
def Cap.null : Cap := ⟨0, false⟩

/-! ### Causes and trap records -/

/-- The trap causes of R391. -/
inductive Cause where
  | illegalInstruction | lookaheadViolation | capBounds | capRights | capInvalid | tagMismatch | pageNotPresent | pagePermission
  | stage2 | gladeCollision | gladeRegion | orderedTarget | linkPoison | matrixCheck | checkFailed | collMismatch | peerReset
  | software | breakpoint | uncorrectable | heatViolation | alignment | vfReset
deriving DecidableEq, Repr

/-- The code of a cause (R391). -/
def Cause.code : Cause → Nat
  | .illegalInstruction => 0x01 | .lookaheadViolation => 0x02 | .capBounds => 0x03 | .capRights => 0x04 | .capInvalid => 0x05
  | .tagMismatch => 0x06 | .pageNotPresent => 0x07 | .pagePermission => 0x08 | .stage2 => 0x09 | .gladeCollision => 0x0A
  | .gladeRegion => 0x0B | .orderedTarget => 0x0C | .linkPoison => 0x0D | .matrixCheck => 0x0E | .checkFailed => 0x0F
  | .collMismatch => 0x10 | .peerReset => 0x11 | .software => 0x12 | .breakpoint => 0x13 | .uncorrectable => 0x14
  | .heatViolation => 0x15 | .alignment => 0x16 | .vfReset => 0x17

/-- How a trapped group goes on when resumed (R392). -/
inductive Resume where
  /-- The recorded instruction issues again. -/
  | retry
  /-- The group goes on after the recorded instruction (SOFTWARE, BREAKPOINT). -/
  | after
  /-- The group goes on at the boundary where it stopped (deferred-precise). -/
  | boundary
  /-- Nothing is resumed: the thread has exited, or the record is of no group (R116). -/
  | nothing
deriving DecidableEq, Repr

/-- A 64-byte trap record (R390), with the model's own note of the group it stopped. -/
structure TrapRec where
  cause : Cause
  deferredPrecise : Bool
  fatal : Bool
  heat : Bool
  pathB : Bool
  team : Nat
  lane : Nat
  wave : Nat
  heatPos : Nat
  vf : Nat
  gang : Nat
  word : Nat
  pc : Nat
  object : Nat
  offset : Nat
  vt : Nat
  rt : Nat
  deferred : Nat
  code : Nat
  launch : Nat
  /-- The gang whose trap it is; for a reduce kernel not what the gang field says. -/
  owner : Nat
  group : Option Nat
  resume : Resume
  /-- The instructions whose windows a LOOKAHEAD_VIOLATION met: closed when the group is resumed (R113). -/
  shut : List Nat
  /-- The handler has answered. -/
  done : Bool
deriving DecidableEq, Repr

/-! ### Threads, waves, groups, bins -/

/-- Where a thread stands at an arrival it has made but is not released from (R245, R257, R280). -/
inductive Hold where
  | none
  /-- At BAR. -/
  | bar
  /-- At GSTEP. -/
  | step
  /-- At GCFG. -/
  | cfg
  /-- At a GSTEP or GCFG that a trap has stopped: its arrival is kept, and it holds there again once the instruction has issued again (R250, R392). -/
  | again
deriving DecidableEq, Repr

/-- Thread states of R134 that belong to the thread; the rest are its group's. -/
inductive TStatus where
  | grouped | filed | exited
deriving DecidableEq, Repr

/-! ### What an agent is bound to see (13_ordering) -/

/-- For bytes of memory, by 2 × address key, with 1 added for writes to `uo` pages, and for words of glade, by 2 × a key above those: the number of
a write that is seen there, it or a later one (R312, R314, R315). -/
abbrev View := Tab Nat

/-- Where an agent acts (R313): a thread in its team, wherever that stands; an engine of a die; a peer module; a host core. -/
inductive Place where
  | team (key : Nat)
  | engine (die : Nat)
  | peer (module_ : Nat)
  | host (core : Nat)
deriving DecidableEq, Repr

/-- A release that a write carries (R316, R318): the releasing agent, its scope, and the writes that happen before it. -/
structure Release where
  place : Place
  scope : Nat
  view : View
deriving DecidableEq, Repr

/-- What a write releases by one release point (R316): its scope (6: that of the object written), and the writes it covers, of a write to an `st` or
`rc` page and to a `uo` page. -/
structure Cover where
  scope : Nat
  view : View
  uview : View
deriving DecidableEq, Repr

/-- What an agent has seen and is bound to see (R312 to R321). -/
structure Agent where
  /-- The newest writes it has made or read (R312). -/
  seen : View
  /-- Its own writes (R316). -/
  own : View
  /-- The writes it has acquired, for its accesses to `st` and `rc` pages (R317, R320). -/
  acq : View
  /-- The writes that its accesses of every kind must see (R317, R321). -/
  always : View
  /-- What its next store releases, by the fences before it (R316): of key 2 × scope for FENCE.rel and 2 × scope + 1 for FENCE.full, its own
  writes that the latest such fence covers, and what the loads that it covers have acquired (R320). -/
  fenced : Tab View
  /-- How many of the releases met were met before that fence. -/
  fencedMet : Tab Nat
  /-- Releases that its loads have met and no acquire fence has taken yet: the smallest scope that holds both agents, and the view (R317). -/
  met : List (Nat × View)
deriving DecidableEq, Repr

/-- An agent that has seen nothing. -/
def Agent.init : Agent := ⟨[], [], [], [], [], [], []⟩

/-- The views that arrivals of a barrier phase have brought, and those of completed phases (R320). -/
structure Meet where
  brought : View
  given : View
deriving DecidableEq, Repr

/-- No arrivals. -/
def Meet.init : Meet := ⟨[], []⟩

/-- A signal of a timeline: the value it brought it to, and what it releases; of a channel also the batch (R289, R309, R319). -/
structure Signal where
  value : Nat
  wave : Nat
  batch : Nat
  view : View
deriving DecidableEq, Repr

/-- A write in the modification order of a byte (R312): its number, the agent, the byte it left, the validity bit its half then had (R143), and
what it releases at this byte (R318). -/
structure Past where
  no : Nat
  place : Place
  val : Byte
  valid : Bool
  rel : List Release
deriving DecidableEq, Repr

/-- What a full fence has made visible: to agents of its scope (R321). -/
structure Shown where
  place : Place
  scope : Nat
  view : View
deriving DecidableEq, Repr

/-- What a translation yields (R211). -/
structure PageInfo where
  phys : Nat
  guest : Nat
  home : Nat
  kind : Nat
  ro : Bool
  xn : Bool
  snapcopy : Bool
  w2 : Bool
  scope : Nat
  ordered : Bool
  snapshot : Bool
  hostvis : Bool
  /-- The object's size, which an access's offset stays below (R216 step 1). -/
  size : Nat
deriving DecidableEq, Repr

/-- A thread slot (R99). -/
structure Thread where
  regs : Tab Image
  preds : BitVec 8
  draw : Nat
  conv : Nat
  wb : Nat
  ordSeq : Nat
  /-- Arrivals at .core, .quad and .launch barriers (R279). -/
  bar : Tab Nat
  /-- Arrivals at team steps and gang steps (R245). -/
  steps : Tab Nat
  /-- Arrivals at GCFG of each region (R257). -/
  cfgs : Tab Nat
  hold : Hold
  /-- The value the thread brought to the arrival it is held at: GSTEP's mask, GCFG's word, a barrier's level. -/
  brought : Nat
  issued : Nat
  status : TStatus
  agent : Agent
deriving DecidableEq, Repr

/-- A thread at a gang's first instruction (R29, R59). -/
def Thread.init : Thread := ⟨[], 0, 0, 0, 0, 0, [], [], [], .none, 0, 0, .grouped, Agent.init⟩

/-- A checksum accumulator (R354). -/
inductive Ck where
  | i32 (v : W64)
  | f32 (v : BitVec 320) (nan pinf ninf : Bool)
  | sig (v : W32)
deriving DecidableEq, Repr

/-- The files of a wave-of-origin (R101). -/
structure Wave where
  s : Tab W64
  c : Tab Cap
  q : BitVec 8
  renA : W64
  renB : W64
  mode : W64
  flags : W64
  ck : Tab Ck
  /-- The number the next CBSEAL gives (R294). -/
  batch : Nat
deriving DecidableEq, Repr

/-- A wave at a gang's first instruction, before its arguments (R29). -/
def Wave.init : Wave := ⟨[], [], 0, 0, 0, 0x100#64, 0, [], 1⟩

/-- A register name an instruction reads or writes, for R113: of a thread or of a wave. -/
inductive RegName where
  | v (thread reg : Nat)
  | p (thread reg : Nat)
  | s (wave reg : Nat)
  | c (wave reg : Nat)
deriving DecidableEq, Repr

/-- A lookahead window (R111): the instruction's number, how many more may issue in it, the names it writes. -/
structure Window where
  xact : Nat
  left : Nat
  load : Bool
  names : List RegName
deriving DecidableEq, Repr

/-- An open heat (R128): count, masks, position, the lanes on path B. -/
structure Heat where
  n : Nat
  masks : Nat
  pos : Nat
  pathB : List Nat
deriving DecidableEq, Repr

/-- Group states (R134). -/
inductive GStatus where
  | ready
  | waiting
  /-- Waits for the reply of a service call (R401). -/
  | calling (id : Nat)
  /-- Its instruction fetch is parked (R86 step 1). -/
  | fetching (id : Nat)
  | trapped (rec : Nat)
  /-- Held at its GSTEP by another group's GLADE_COLLISION (R250). -/
  | held
deriving DecidableEq, Repr

/-- An issue group (R100). -/
structure Group where
  lanes : List Nat
  pc : Nat
  status : GStatus
  heat : Option Heat
  windows : List Window
  /-- Atomics of order acq or ar, and LDL, that later memory instructions wait for (R262). -/
  acquires : List Nat
  /-- Waves-of-origin whose subsets have already acted by the current instruction (engine commands, TLSIG, SYSC, SPAWN act one after another). -/
  acted : List Nat
  formed : Nat
  /-- The word of the instruction at which it waits. -/
  word : Nat
  /-- When it was formed from a bin, until it issues (R103). -/
  fresh : Option Nat
  /-- It waits to file its threads, for which there is neither a bin nor a slot (R107). -/
  stuck : Bool
deriving DecidableEq, Repr

/-- A reform bin (R104). Age in sixteenths of a core cycle. -/
structure Bin where
  pc : Nat
  code : Cap
  threads : List Nat
  age : Nat
  seq : Nat
  eligible : Bool
deriving DecidableEq, Repr

/-! ### Instructions at issue -/

/-- How an instruction stood at its issue (R220, R226, R290). -/
structure Issued where
  pc : Nat
  word : Nat
  lit : Nat
  slot : Nat
  lanes : List Nat
  sources : List (Nat × List Image)
  renamed : List (Nat × List Nat)
  pathB : List Nat
  draws : List (Nat × Nat)
  /-- Each thread's count of issued instructions. -/
  marks : List (Nat × Nat)
  heat : Bool
  heatPos : Nat
deriving DecidableEq, Repr

/-! ### Glade -/

/-- A region (R237 to R240): configuration word, the present or single plane, the next plane, the written record, the lap count. -/
structure Region where
  cfg : W64
  present : Tab W32
  next : Tab W32
  written : Tab (Tab W32)
  lap : Nat
deriving DecidableEq, Repr

/-- An absent region. -/
def Region.absent : Region := ⟨0, [], [], [], 0⟩

/-- A write in the modification order of a word of a single-plane region (R312, R315): its number, the word it left, what it releases. -/
structure GPast where
  no : Nat
  val : W32
  rel : List Release
deriving DecidableEq, Repr

/-- A range-scoreboard entry (R243). -/
structure SbEntry where
  op : Nat
  region : Nat
  nextPlane : Bool
  writes : Bool
  lo : Nat
  hi : Nat
deriving DecidableEq, Repr

/-- A contribution in the ordered buffer or the shadow (R267, R269). -/
structure Contrib where
  obj : Nat
  off : Nat
  thread : Nat
  seq : Nat
  value : W32
  shadow : Bool
  /-- The thread's barrier arrivals when it issued the contribution (R270). -/
  bars : Tab Nat
  info : Issued
deriving DecidableEq, Repr

/-- A partial sum of a word (R270). -/
structure Partial where
  obj : Nat
  off : Nat
  sum : Wide
  /-- It has taken +∞; it has taken -∞. -/
  pinf : Bool
  ninf : Bool
deriving DecidableEq, Repr

/-! ### Macros -/

/-- A weight bank (R333, R340): the bytes of the cells and of the scale pairs (held twice), and the exact checksum column. -/
structure Bank where
  fmt : Nat
  sparse : Bool
  cells : List Nat
  scales : List Nat
  scales2 : List Nat
  check : List FVal
  /-- Metadata nibbles, held twice; none: absent. -/
  meta1 : Option (List Nat)
  meta2 : Option (List Nat)
deriving DecidableEq, Repr

/-- An accepted matrix command (R334 to R336). -/
structure MCmd where
  id : Nat
  word : W64
  wave : Nat
  low : Nat
  threads : List Nat
  mode : W64
  wb : Nat
  scales : List W32
  info : Issued
  started : Bool
  flags : Flags5
  regs : List (Nat × Image)
  /-- It ends by a fault: cause, offset (R337). -/
  fails : Option (Cause × Nat)
  /-- It stood at the head of its queue when its gang was stopped, or not behind the last MRD, and runs to its end (R135, R338). -/
  last : Bool
deriving DecidableEq, Repr

/-- A macro (R333). -/
structure Macro where
  banks : Tab Bank
  acc : Tab Wide
  queue : List MCmd
  done : Nat
  owner : Option Nat
  checks : Nat
  /-- Format and sparse bit (2 × wfmt + sparse) of the latest MWLD accepted for each bank (R344). -/
  accKind : Tab Nat
  /-- Identifiers of copies that reserve the next queue places (R335). -/
  reserved : List Nat
deriving DecidableEq, Repr

/-- A macro at dispatch (R333). -/
def Macro.init : Macro := ⟨[], [], [], 0, none, 0, [], []⟩

/-! ### Teams -/

/-- A resident or saved team. -/
structure Team where
  core : Nat
  count : Nat
  regs : Nat
  regions : Tab Region
  allot : Nat
  ownsTags : Bool
  tags : Tab W32
  ownsMacros : Bool
  macros : Tab Macro
  board : Tab SbEntry
  /-- Of a saved team, the entries of its commands that have not started: its saved scoreboard is empty (R253), and they stand again at the restart. -/
  boardLeft : Tab SbEntry
  locks : Tab Nat
  orphaned : Nat
  buffer : List Contrib
  shadow : Nat
  partials : List Partial
  bins : List Bin
  coreBar : Nat
  teamSteps : Nat
  cfgs : Tab Nat
  /-- A step or GCFG whose arrivals are complete and which now drains: mask, or region and word. -/
  draining : Option Nat
  cfgDraining : Tab W64
  ended : Bool
  /-- The writes of words of single-plane regions that threads may still see, newest first, by region × 131,072 + word (R315, R322); a word with
  none reads as it stands. -/
  gladePast : Tab (List GPast)
  /-- Views at `.core` barriers, and at team steps (R320, R251). -/
  meet : Meet
  stepMeet : Meet
deriving DecidableEq, Repr

/-! ### Copies -/

/-- A decoded copy: channel parameters or a transfer record (R295 to R301). -/
structure Params where
  conv : Nat
  es : Nat
  member : Nat
  dreg : Nat
  sreg : Nat
  dGlade : Bool
  sGlade : Bool
  soff : Int
  doff : Int
  counts : List Nat
  ss : List Int
  ds : List Int
  gather : List Nat
  kcap : Cap
  koff : Nat
deriving DecidableEq, Repr

/-- The kinds of copy command. -/
inductive CKind where
  | cpy | cpyc | cpym | halo
deriving DecidableEq, Repr

/-- An accepted copy command (R286). wave: the key of the issuing wave-of-origin. -/
structure CCmd where
  id : Nat
  kind : CKind
  wave : Nat
  low : Nat
  batch : Nat
  /-- The source, or the chain capability. -/
  scap : Cap
  dcap : Cap
  par : Params
  mode : W64
  conv : Nat
  info : Issued
  /-- Offset of the chain's record to read next. -/
  chain : Nat
  follow : Option W64
  /-- A follow word that is malformed: its operation aborts (R334). -/
  followBad : Bool
  scales : List W32
  /-- What the operation's reads are bound to see: its issuer's view, and what its chain has acquired (R286, R302). -/
  view : View
deriving DecidableEq, Repr

/-- One write of a running operation. -/
structure CWrite where
  glade : Bool
  cap : Cap
  off : Nat
  bytes : List Nat
  made : Bool
deriving DecidableEq, Repr

/-- A running operation (R285, R289). -/
structure CopyOp where
  id : Nat
  src : Cap
  dst : Cap
  par : Params
  /-- The conversion count its draws use (R293). -/
  conv : Nat
  /-- Its source has been read and converted. -/
  loaded : Bool
  writes : List CWrite
  flags : Flags5
  /-- An access of it is parked at the memory port: cause, object, offset (R290). -/
  parked : Option (Cause × Nat × Nat)
  /-- It ends by an abort: cause, object, offset. -/
  fails : Option (Cause × Nat × Nat)
  /-- The matrix command to issue when its bytes have landed (R304). -/
  follow : Option W64
  /-- The offset of the chain record it performs, its control word, and the next record (R302). -/
  record : Option Nat
  control : W64
  next : Nat
  /-- The guest-physical address of its parked access's stage-2 report (R213). -/
  guest : Nat
  /-- Its global writes, for its signal (R289). -/
  wrote : View
deriving DecidableEq, Repr

/-- A channel of a gang (R284). -/
structure Channel where
  queue : List CCmd
  op : Option CopyOp
  done : Nat
  /-- The copy engine of the die whose context it runs in (R284). -/
  engine : Nat
  signals : List Signal
deriving DecidableEq, Repr

/-! ### Relay -/

/-- A chunk accepted or in flight (R366, R369). -/
structure Chunk where
  id : Nat
  fn : Nat
  coll : Nat
  signature : W64
  n : Nat
  /-- The sender's rank; the gang it runs in. -/
  sender : Nat
  source : Nat
  /-- The target's module, and its entry in the rank list (R362). -/
  module : Nat
  target : Nat
  len : Nat
  bytes : List Nat
deriving DecidableEq, Repr

/-- What a run is doing within its step. -/
inductive RPhase where
  /-- Before the step's action. -/
  | step
  /-- The staged chunk lands: flits still to come (R367). -/
  | reducing (flits : Nat)
  /-- The reduce kernel runs as this gang. -/
  | kernel (gang : Nat)
  /-- It has retired. -/
  | reduced
  /-- This chunk waits to be accepted by the peer's engine. -/
  | sending (chunk : Nat)
deriving DecidableEq, Repr

/-- A relay run (R360 to R371). -/
structure Run where
  id : Nat
  prog : Cap
  header : Nat
  bufs : List Cap
  code : Cap
  mode : W64
  wave : Nat
  low : Nat
  info : Issued
  signature : W64
  rank : Nat
  n : Nat
  coll : Nat
  reduce : Nat
  patience : Nat
  ranks : List W64
  steps : List W128
  idx : Nat
  loops : Tab Nat
  accepted : List Chunk
  phase : RPhase
  buffer : List Nat
  waited : Nat
  /-- Peers under HOLD, by their entries in the rank list (R374, R386). -/
  holds : List Nat
  parked : Option (Cause × Nat × Nat)
  fails : Option (Cause × Nat × Nat)
  flags : Flags5
  /-- The guest-physical address of its parked access's stage-2 report (R213). -/
  guest : Nat
  /-- Its global writes, for its signal (R360). -/
  wrote : View
  /-- What it is bound to see: its issuer's view, its program's and what it has waited for (R286, R361, R365). -/
  view : View
  /-- What it has read (R312). -/
  seen : View
  /-- A step has ended since its gang began to stop: the next one waits for the restart (R371). -/
  resting : Bool
deriving DecidableEq, Repr

/-- A gang's relay state (R360, R374). -/
structure Relay where
  queue : List Run
  active : Option Run
  done : Nat
  status : Nat
  /-- Abort notices on their way to the gang: the collectives (R370). -/
  aborts : List Nat
  signals : List Signal
  /-- Chunks that a run which has ended had accepted and not consumed: they are for the next run of their collective (R366). -/
  left : List Chunk
deriving DecidableEq, Repr

/-! ### Gangs and launches -/

/-- A timer (R378). -/
inductive Timer where
  | idle
  | armed (deadline : Nat) (peer : Option Nat)
  | held (remaining : Nat) (peer : Nat)
deriving DecidableEq, Repr

/-- An inbox event (R384). -/
structure Event where
  stamp : Nat
  kind : Nat
  source : Nat
  length : Nat
  overrun : Bool
  p0 : W64
  p1 : W64
deriving DecidableEq, Repr

/-- Gang states (R412). -/
inductive GangSt where
  | resident | quiescing | suspended | moving
deriving DecidableEq, Repr

/-- Why a gang stops (R412). -/
inductive StopWhy where
  | preemption | migration | slice | step | debugger | hold
deriving DecidableEq, Repr

/-- A gang from its dispatch to its retirement. -/
structure Gang where
  quad : Nat
  teams : Nat
  status : GangSt
  /-- Virtual time in units of 0.2 ns (R376). -/
  vt : Nat
  timers : Tab Timer
  inbox : List Event
  counters : Tab Nat
  /-- Sixteenths of core cycles in service, and with the quad throttled (R388 sel 1, 11). -/
  cycles : Nat
  throttled : Nat
  channels : Tab Channel
  relay : Relay
  quadBar : Nat
  gangSteps : Nat
  draining : Option Nat
  stopAt : Nat
  stopWhy : StopWhy
  /-- HOLD (R432): issue does not restart before this time; the call to answer then. -/
  holdUntil : Option (Nat × Nat)
  /-- The gang's places on its quad are kept for it while it is stopped: by HOLD (R432) or a single-step (R412). -/
  kept : Bool
  /-- A debugger has halted it and has not let it go (R41). -/
  halted : Bool
  order : Nat
  /-- A reduce kernel's parent gang (R367). -/
  reduceOf : Option Nat
  /-- The object by which a reduce kernel's c3 reaches its engine buffer (R368). -/
  bufObj : Option Nat
  slice : Nat
  /-- The gang that a time slice's end gave this gang's quad to, until it stands there (R417). -/
  heir : Option Nat
  /-- Faults met while the clock was halted, counted when issue restarts (R388). -/
  owed : Nat
  /-- Views at `.quad` barriers, and at gang steps. -/
  meet : Meet
  stepMeet : Meet
deriving DecidableEq, Repr

/-- A region declaration of an image (R36, R90). -/
structure RegionDecl where
  idx : Nat
  units : Nat
  planes : Nat
  shared : Bool
  rule : Nat
  tagged : Bool
deriving DecidableEq, Repr

/-- A section of an image, placed in an object of its own (R36, R434). -/
structure SectionDecl where
  reg : Nat
  const : Bool
  size : Nat
  obj : Nat
deriving DecidableEq, Repr

/-- A native image in a function's image table (R94, R404). -/
structure NativeImage where
  codeObj : Nat
  codeBytes : Nat
  teams : Nat
  waves : Nat
  regs : Nat
  regions : List RegionDecl
  ordered : Nat
  omask : Nat
  promiseD : Bool
  cohort : Bool
  sections : List SectionDecl
  matrix : Bool
  /-- It came from the portable form (R98). -/
  portable : Bool
deriving DecidableEq, Repr

/-- A spawn record: the host's 64 bytes, or what SPAWN carries (R402). -/
inductive SpawnRec where
  | host (bytes : BitVec 512)
  | device (image gangs waves flags dep comp : Nat) (scalars : List W64) (caps : List Cap) (arg : Cap) (depval compval : W64)
deriving DecidableEq, Repr

/-- Launch states of R420. -/
inductive LSt where
  | queued | ready | admitting | running | done
deriving DecidableEq, Repr

/-- A launch (R402 to R424). -/
structure Launch where
  fn : Nat
  queue : Nat
  status : LSt
  record : SpawnRec
  image : Nat
  /-- The head check of R407 has passed; the fields below are then the record's. -/
  checked : Bool
  shape : NativeImage
  /-- The die of its first placement: a `.die` span stays there (R403). -/
  die : Option Nat
  gangs : Nat
  waves : Nat
  det : Bool
  cohort : Bool
  replayable : Bool
  span : Nat
  dep : Nat
  comp : Nat
  depval : W64
  compval : W64
  scalars : List W64
  caps : List Cap
  arg : Cap
  seed : W64
  replays : Nat
  timelines : Tab W64
  launchBar : Nat
  placed : Nat
  retired : Nat
  targets : List Nat
  /-- Partials of retired teams: gang, team, partial (R270, R272). -/
  partials : List (Nat × Nat × Partial)
  /-- The nonzero bytes of the ordered targets' pages at the first dispatch, by object × 2^24 + page (R272). -/
  origins : Tab (List Host.Cell)
  start : Nat
  /-- Real ticks for which each gang has been stopped, over all replays (R387). -/
  stops : Tab Nat
  readyAt : Nat
  /-- The real tick until which the ready head could have been placed (R411). -/
  fitAt : Nat
  /-- The 32-byte time record as last updated (R387). -/
  timeRec : BitVec 256
  cls : Nat
  fatal : Option TrapRec
  lost : Bool
  errors : Nat
  /-- Snapshot copies: frame, copy (R423). -/
  snaps : List (Nat × Nat)
  snapObjs : List Nat
  /-- Every outside event received: gang, event (R383). -/
  received : List (Nat × Event)
  /-- Pages EVICT took away: object, page (R437). -/
  evicted : List (Nat × Nat)
  /-- An uncorrectable error has been consumed (R423, R424). -/
  consumed : Bool
  /-- Views at `.launch` barriers. -/
  meet : Meet
  /-- Signals of the program timelines, in order (R309). -/
  signals : Tab (List Signal)
  /-- The writes that happen before its first instruction (R328, R402). -/
  given : View
  /-- The writes of its retired gangs, for its completion (R328). -/
  wrote : View
deriving DecidableEq, Repr

/-! ### Functions -/

/-- A virtual function or the physical function (R421). -/
structure Fn where
  dirRoot : Nat
  stage2 : Option Nat
  quads : List Nat
  slices : List Nat
  ageLimit : Nat
  preemptDelay : Nat
  agingStep : Nat
  spawnWin : Nat
  eventWin : Nat
  statusWin : Nat
  timelineBase : Nat
  images : Tab NativeImage
  caps : Tab Cap
  queues : Tab (List Nat)
  /-- Decode-table entries that differ from R95's reset contents. -/
  table : Tab Nat
  measure : BitVec 512
  discarded : Nat
  dropped : Nat
  hostDiscarded : Nat
  /-- Peer modules whose flow has been closed (R422). -/
  closedFlows : List Nat
  /-- A reset of the function has closed its flows (R422 step 4). -/
  shut : Bool
  rankCache : List (Nat × Nat × Nat × List W64)
  /-- Collectives whose runs, active and later ones, end with COLL_MISMATCH (R369). -/
  mismatched : List Nat
  /-- What completions of launches have released on each timeline (R328). -/
  signals : Tab View
  /-- Of the function as one of its launches sees it, pages (object, page) that EVICT has taken from some launch, and whether this launch still sees
  them present; empty in the table of functions itself (R437). -/
  pages : List ((Nat × Nat) × Bool)
deriving DecidableEq, Repr

/-! ### Memory side -/

/-- How a returned load writes its destination (R229, R231, R233, R235, R160, R163). -/
inductive Conv where
  | zext (n : Nat) | sext (n : Nat) | words (n : Nat) | fmt (f : Fmt) | fill
  | zb4 | zb8
  | uni (n : Nat) | cap
deriving DecidableEq, Repr

/-- One lane's or subset's part of a sector request. role: 0 alone, 1 a block's data, 2 its scale pair; mate: the bytes of the other. -/
structure LoadPart where
  threads : List Nat
  wave : Nat
  off : Nat
  size : Nat
  dst : List Nat
  conv : Conv
  role : Nat
  mate : Option Nat
  cap : Cap
deriving DecidableEq, Repr

/-- What an access does at its home. -/
inductive AKind where
  | load (parts : List LoadPart)
  | store (data : Nat) (capBit : Option Bool)
  | tag (granules colour : Nat)
  | atomic (op a b : Nat) (arm : RMode) (dst : List Nat)
  | ordered (value : W32) (seq : Nat) (bars : Tab Nat)
  | fetch
deriving DecidableEq, Repr

/-- The states of an access (R222). -/
inductive ASt where
  | issued
  /-- Failed its check; waits for an operand-log entry, in fault-queue order (R221). -/
  | queued (c : Cause) (seq : Nat)
  /-- Parked and reported (PAGE_NOT_PRESENT, STAGE2). -/
  | resolving (c : Cause)
  /-- A load or returning atomic that traps at its park point; fatal: declared fatal or cancelled. -/
  | faulted (c : Cause) (fatal : Bool)
  /-- A store that is refused. -/
  | refused (c : Cause) (fatal : Bool)
deriving DecidableEq, Repr

/-- An access in flight. -/
structure Access where
  team : Nat
  xact : Nat
  kind : AKind
  obj : Nat
  off : Nat
  size : Nat
  colour : Nat
  threads : List Nat
  info : Issued
  st : ASt
  logged : Bool
  /-- The guest-physical address of a stage-2 report (R213). -/
  guest : Nat
  cap : Cap
  /-- Its place in the order of issue. -/
  seq : Nat
  /-- What it releases (R316). -/
  rel : List Cover
  /-- An atomic of order acq or ar (R317). -/
  acq : Bool
  /-- Pages it had translated when an invalidation changed them, by page number of the object (R212). -/
  pins : Tab PageInfo
  /-- Faults of it that counter 9 has counted at its issue and that it has not met yet (R388). -/
  foreseen : Nat
deriving DecidableEq, Repr

/-- The error state of a sector (R216, R425). -/
inductive Ecc where
  | ok | correctable | uncorrectable
deriving DecidableEq, Repr

/-! ### Calls, notices, device -/

/-- A service call on its way (R401). -/
structure Call where
  group : Nat
  wave : Nat
  d : Nat
  a : Nat
  code : Nat
  args : List W64
  /-- Answered by the service context (posted, restarted): the status to give. -/
  ready : Option Nat
deriving DecidableEq, Repr

/-- An event waiting for a place in an inbox (R380). -/
structure Post where
  gang : Nat
  kind : Nat
  source : Nat
  length : Nat
  p0 : W64
  p1 : W64
  call : Option Nat
deriving DecidableEq, Repr

/-- A HOLD or RESUME on its way (R386). -/
structure Notice where
  hold : Bool
  source : Nat
  target : Nat
  sent : Nat
deriving DecidableEq, Repr

/-- Boot states of R444, and the trip of R442. -/
inductive Boot where
  | rom | checking (slot : Nat) | fallback | verified | initialising | ready | recovery | tripped
deriving DecidableEq, Repr

/-- A firmware slot's image (R445): the fields of its header, the signed bytes, and the body as far as it was written. -/
structure FwImage where
  magicOk : Bool
  svn : Nat
  size : Nat
  digest : BitVec 512
  sig : List Byte
  head : List Byte
  body : List Byte
deriving DecidableEq, Repr

/-- Whether a die is in the over-temperature action (R442). -/
inductive Heatness where
  | cool | hot
deriving DecidableEq, Repr

/-- A service context (R10, R85): the files it runs the uniform set on, its PC, what it has seen of memory (R313), and its traps, newest first, each with
its word. -/
structure Service where
  file : Wave
  pc : Nat
  agent : Agent
  traps : List (Cause × Nat)
deriving DecidableEq, Repr

/-- A service context that has run nothing: its files are as a wave's at dispatch (log 29). -/
def Service.init : Service := ⟨Wave.init, 0, Agent.init, []⟩

/-- What happens after time has passed: a group issues its next instruction, an event happens, a service context reaches an instruction, given by its first
word and its literal words (that of a function, or from number 65 up the privileged level of a service core's Kamver firmware), an error arises in a sector of
memory, correctable or not, or nothing does. -/
inductive Act where
  | issue (group : Nat)
  | event (i : Instr)
  | service (context word : Nat) (lits : List Nat)
  | upset (sector : Nat) (correctable : Bool)
  | idle
deriving DecidableEq, Repr

/-- Time in units of 0.2 ns (a core cycle is 2, a tick 5), then an act (log 1). -/
structure Move where
  dt : Nat
  act : Act
deriving DecidableEq, Repr

/-- The machine. -/
structure State where
  now : Nat
  boot : Boot
  mem : List Host.Cell
  colours : Tab Nat
  valid : Tab Bool
  ecc : Tab Ecc
  versions : Tab Nat
  /-- The writes of each byte that agents may still see, newest first (R312, R322); a byte with none reads as it stands. -/
  past : Tab (List Past)
  /-- Writes numbered so far. -/
  writeNo : Nat
  /-- Host cores and peer modules, as agents (R313), by `Place.code`. -/
  hosts : Tab Agent
  /-- What full fences have made visible (R321). -/
  fences : List Shown
  /-- The core of each team that stands no more, as it last stood (R319). -/
  stood : Tab Nat
  failed : List Nat
  fns : Tab Fn
  launches : Tab Launch
  gangs : Tab Gang
  teams : Tab Team
  waves : Tab Wave
  threads : Tab Thread
  groups : Tab Group
  accesses : Tab Access
  traps : Tab TrapRec
  calls : Tab Call
  posts : List Post
  notices : List Notice
  chunks : List Chunk
  /-- The next sequence number of each peer's ordered flow (R329). -/
  flows : Tab Nat
  dividers : Tab Nat
  thermal : Tab Heatness
  sensors : Tab Nat
  slots : Tab FwImage
  activeSlot : Nat
  runningSlot : Nat
  fusedSvn : Nat
  runningSvn : Nat
  m0 : BitVec 512
  m1 : BitVec 512
  /-- Launches to which a `zdb` is attached (R39, R400). -/
  debugged : List Nat
  /-- Of these, the launches that a `run` or `continue` has set going (R41). -/
  started : List Nat
  /-- The slot from which a core last issued (R103). -/
  turns : Tab Nat
  /-- When a core last formed a group, plus 1 (R106). -/
  formedAt : Tab Nat
  /-- The queue last admitted from in a class: 16 × function + queue, plus 1 (R408). -/
  admitTurn : Tab Nat
  /-- When a core last issued, plus 1 (R105). -/
  issuedAt : Tab Nat
  /-- The latest acts that R134 ranks, when and of which rank: 0 of the module, 1 of no quad in particular, 2 + q of quad q. -/
  acts : Tab (Nat × Nat)
  /-- Service contexts: of a function by its number, of Kamver firmware from 65 up. -/
  services : Tab Service
  /-- The service cores that have started, of 32; core 0 of stack 0 runs the boot ROM (R10, R444). -/
  serviceCores : List Nat
  /-- Memory errors so far, by 2 × stack, with 1 added for the uncorrectable ones (R449). -/
  errorCounts : Tab Nat
  /-- Draws sampled so far, one in each 10,000 real ticks: the number of the latest such span, plus 1 (R415, R440). -/
  sampled : Nat
  /-- Host events sent by SYSC 2, newest first: function, event (R401). -/
  hostEvents : List (Nat × Event)
  /-- Replies sent on the management paths, newest first (R448, R449). -/
  replies : List (List Byte)
  /-- Reports to the physical function's driver and the management paths: kind and number (R422, R442, R449). -/
  reports : List (Nat × Nat)
  nextId : Nat
  free : Nat
  schedule : List Move
  cur : Option Nat
  fetched : Option (Nat × Nat × Nat)
deriving DecidableEq, Repr

/-! ### Faults and refusals -/

/-- The machine stops. -/
inductive Fault where
  /-- Raised by every memory operation on a frame outside the module's 768 GiB of HBM (R2): no such byte exists. Safe. -/
  | noMemory
deriving DecidableEq, Repr

/-- No meaning for what was asked. -/
inductive Refusal where
  /-- Raised by exec's arms of instructions not yet modelled. Safe. -/
  | notModelled (mnemonic : String)
  /-- Raised by an instruction when no group of a gang in service is current: there is nothing to issue it. Safe. -/
  | noGroup
  /-- Raised by an event whose precondition, as its rule gives it, does not hold: it cannot happen now. Safe. -/
  | notEnabled
  /-- Raised where a service core that runs the privileged level reaches a word of its system extension, whose encodings the spec does not
  give (R85). Safe. -/
  | privilegedExtension
deriving DecidableEq, Repr

/-- The slot a new module's flash holds: an empty image that claims svn 0 (log 5). -/
def FwImage.factory : FwImage := ⟨true, 0, 0, 0, [], [], []⟩

/-- The machine right after reset (R443, R444, R375): boot ROM, real clock 0, nothing in memory, no function. -/
def State.reset : State where
  now := 0
  boot := .rom
  mem := []
  colours := []
  valid := []
  ecc := []
  versions := []
  past := []
  writeNo := 0
  hosts := []
  fences := []
  stood := []
  failed := []
  fns := []
  launches := []
  gangs := []
  teams := []
  waves := []
  threads := []
  groups := []
  accesses := []
  traps := []
  calls := []
  posts := []
  notices := []
  chunks := []
  flows := []
  dividers := []
  thermal := []
  sensors := []
  slots := [(0, FwImage.factory)]
  activeSlot := 0
  runningSlot := 0
  fusedSvn := 0
  runningSvn := 0
  m0 := 0
  m1 := 0
  debugged := []
  started := []
  turns := []
  formedAt := []
  admitTurn := []
  issuedAt := []
  acts := []
  services := []
  serviceCores := [0]
  errorCounts := []
  sampled := 0
  hostEvents := []
  replies := []
  reports := []
  nextId := 1
  free := 0
  schedule := []
  cur := none
  fetched := none

end Sys2Proof.Machine
end

