-- ==== Sys2Proof/Machine/Ops.lean ====
section
/-! DEFINITION. The named operations over the state: keys of the flat tables, registers, capabilities, memory, translation (R209 to R213),
the memory-side checks (R216), taking a trap (R136, R390) and resuming from one (R392). -/
namespace Sys2Proof.Machine

/-! ### Keys -/

/-- Gang g of launch l; the reduce kernel of gang g is gang 65,536 + g. -/
def gangKey (l g : Nat) : Nat := l * 131072 + g
/-- Team t of a gang. -/
def teamKey (gk t : Nat) : Nat := gk * 4 + t
/-- Wave-of-origin w of a team. -/
def waveKey (tk w : Nat) : Nat := tk * 64 + w
/-- Thread i of a team. -/
def threadKey (tk i : Nat) : Nat := tk * 2048 + i
/-- The group in slot n of a team's core. -/
def groupKey (tk n : Nat) : Nat := tk * 64 + n
/-- The team of a group key, of a wave key. -/
def teamOfGroup (k : Nat) : Nat := k / 64
/-- The gang of a team key. -/
def gangOfTeam (tk : Nat) : Nat := tk / 4
/-- The launch of a gang key. -/
def launchOfGang (gk : Nat) : Nat := gk / 131072
/-- The logical rank (R16) of thread i of a team: team × 2,048 + thread index. -/
def rankOf (tk i : Nat) : Nat := tk % 4 * 2048 + i

/-! ### Registers -/

/-- A lane register's image. -/
def Thread.getV (t : Thread) (r : Nat) : Image := sget Image.zero t.regs r
/-- Write a lane register. -/
def Thread.setV (t : Thread) (r : Nat) (v : Image) : Thread := { t with regs := sset Image.zero t.regs r v }
/-- A lane predicate. -/
def Thread.getP (t : Thread) (k : Nat) : Bool := t.preds.getLsbD k
/-- Write a lane predicate. -/
def setBit8 (w : BitVec 8) (k : Nat) (b : Bool) : BitVec 8 :=
  if b then w ||| (1#8 <<< k) else w &&& ~~~(1#8 <<< k)
/-- Write a lane predicate. -/
def Thread.setP (t : Thread) (k : Nat) (b : Bool) : Thread := { t with preds := setBit8 t.preds k b }

/-- A uniform register: s0 reads zero (R138). -/
def Wave.getS (w : Wave) (r : Nat) : W64 := if r = 0 then 0 else sget 0 w.s r
/-- Write a uniform register: s0 ignores writes (R138). -/
def Wave.setS (w : Wave) (r : Nat) (v : W64) : Wave := if r = 0 then w else { w with s := sset 0 w.s r v }
/-- A uniform predicate: q0 reads true (R138). -/
def Wave.getQ (w : Wave) (k : Nat) : Bool := k == 0 || w.q.getLsbD k
/-- Write a uniform predicate: q0 ignores writes. -/
def Wave.setQ (w : Wave) (k : Nat) (b : Bool) : Wave := if k = 0 then w else { w with q := setBit8 w.q k b }
/-- A capability register: c0 is null (R140). -/
def Wave.getC (w : Wave) (r : Nat) : Cap := if r = 0 then Cap.null else sget Cap.null w.c r
/-- Write a capability register; c0 stays null. -/
def Wave.setC (w : Wave) (r : Nat) (c : Cap) : Wave := if r = 0 then w else { w with c := sset Cap.null w.c r c }
/-- A checksum accumulator: i32 and 0 at dispatch (R354). -/
def Wave.getK (w : Wave) (k : Nat) : Ck := sget (.i32 0) w.ck k
/-- Write a checksum accumulator. -/
def Wave.setK (w : Wave) (k : Nat) (v : Ck) : Wave := { w with ck := sset (.i32 0) w.ck k v }

/-! ### Capabilities (R140, R141) -/

/-- Bits hi down to lo of the capability as a number. -/
def Cap.field (c : Cap) (lo n : Nat) : Nat := c.bits.toNat / 2 ^ lo % 2 ^ n
def Cap.object (c : Cap) : Nat := c.field 96 32
def Cap.base (c : Cap) : Nat := c.field 56 40
def Cap.length (c : Cap) : Nat := c.field 16 40
def Cap.rights (c : Cap) : Nat := c.field 8 8
def Cap.colour (c : Cap) : Nat := c.field 4 4
/-- Build a capability from its fields; bits 3:0 and the reserved rights 7:6 are 0 (R140, R141). -/
def Cap.mk' (object base length rights colour : Nat) (valid : Bool) : Cap :=
  ⟨BitVec.ofNat 128 (object % 2 ^ 32 * 2 ^ 96 + base % 2 ^ 40 * 2 ^ 56 + length % 2 ^ 40 * 2 ^ 16 + rights % 64 * 256 + colour % 16 * 16), valid⟩

/-- A capability as the loader writes one (R140, R141): reserved bits 0, and no object 0 where it is valid. -/
def Cap.wellMade (c : Cap) : Bool := c.field 0 4 == 0 && c.rights / 64 == 0 && (!c.valid || c.object != 0)

/-- The rights of R141 by their bit of the rights field. -/
inductive Right where
  | r | w | x | lc | sc | t
deriving DecidableEq, Repr

def Right.bit : Right → Nat
  | .r => 0 | .w => 1 | .x => 2 | .lc => 3 | .sc => 4 | .t => 5
/-- The capability carries a right. -/
def Cap.has (c : Cap) (rt : Right) : Bool := bit c.rights rt.bit

/-! ### Updates of the tables -/

/-- A thread of the state; an absent one reads as at dispatch. -/
def State.thread (s : State) (k : Nat) : Thread := (s.threads.find k).getD Thread.init
/-- A wave of the state. -/
def State.wave (s : State) (k : Nat) : Wave := (s.waves.find k).getD Wave.init
def State.setThread (s : State) (k : Nat) (f : Thread → Thread) : State := { s with threads := s.threads.put k (f (s.thread k)) }
def State.setWave (s : State) (k : Nat) (f : Wave → Wave) : State := { s with waves := s.waves.put k (f (s.wave k)) }
def State.setGroup (s : State) (k : Nat) (f : Group → Group) : State := { s with groups := s.groups.modify k f }
def State.setTeam (s : State) (k : Nat) (f : Team → Team) : State := { s with teams := s.teams.modify k f }
def State.setGang (s : State) (k : Nat) (f : Gang → Gang) : State := { s with gangs := s.gangs.modify k f }
def State.setLaunch (s : State) (k : Nat) (f : Launch → Launch) : State := { s with launches := s.launches.modify k f }
def State.setFn (s : State) (k : Nat) (f : Fn → Fn) : State := { s with fns := s.fns.modify k f }

/-- The real clock (R375): one count per nanosecond. -/
def State.rt (s : State) : Nat := s.now / 5 % 2 ^ 64
/-- A gang's virtual clock (R376). -/
def Gang.vtick (g : Gang) : Nat := g.vt / 5

/-- The die of a quad, of a core. -/
def dieOfQuad (q : Nat) : Nat := q / Config.quadsPerDie
def dieOfCore (c : Nat) : Nat := c / (Config.quadsPerDie * Config.coresPerQuad)

/-- A gang in service: resident with issue not stopped (R376, R412). -/
def Gang.inService (g : Gang) : Bool := g.status == .resident

/-- The function of a launch. -/
def State.fnOf (s : State) (l : Nat) : Nat := match s.launches.find l with
  | some x => x.fn
  | none => 0

/-- The function of a launch as that launch sees it: the pages that its own EVICT took away are gone, those that another launch's took are there
(R437). -/
def State.fnFor (s : State) (lk : Nat) : Option Fn := match s.launches.find lk with
  | some l => (s.fns.find l.fn).map fun f => { f with
      pages := (s.launches.filter fun p => p.2.fn == l.fn).flatMap fun p => p.2.evicted.map fun e => (e, !l.evicted.contains e) }
  | none => s.fns.find 0

/-- The entry e of a page of an object is present for the function, as a launch of it sees it (R211, R437). -/
def Fn.seesPage (f : Fn) (obj page e : Nat) : Bool := ((f.pages.find? fun p => p.1 == (obj, page)).map (·.2)).getD (e % 2 == 1)

/-! ### Physical memory. An address key is home × 2^64 + address (R211). -/

/-- The byte at an address key; an unlisted byte reads 0 (log 3). -/
def readByte (mem : List Host.Cell) (a : Nat) : Byte := sget 0#8 mem a
/-- Write a byte, keeping the canonical form. -/
def writeByte (mem : List Host.Cell) (a : Nat) (v : Byte) : List Host.Cell := sset 0#8 mem a v
/-- n bytes from an address, little-endian, as a number. -/
def readLE (mem : List Host.Cell) (a : Nat) : Nat → Nat
  | 0 => 0
  | n + 1 => (readByte mem a).toNat + 256 * readLE mem (a + 1) n
/-- Write the n low bytes of v, little-endian. -/
def writeLE (mem : List Host.Cell) (a : Nat) : Nat → Nat → List Host.Cell
  | 0, _ => mem
  | n + 1, v => writeByte (writeLE mem (a + 1) n (v / 256)) a (BitVec.ofNat 8 v)

/-- The canonical form of memory: addresses strictly rising, no byte 0 listed. -/
def Memory.wf (mem : List Host.Cell) : Bool := sparseWf 0#8 mem

/-- Local HBM exists at this key, or the key is of another home (R2, R7). -/
def physExists (a : Nat) : Bool := decide (a < Config.hbmBytes) || decide (2 ^ 64 ≤ a)

/-- Clear the validity bit of every half from address a to a + n - 1 (R143). -/
def clearHalves (valid : Tab Bool) (a : Nat) : Nat → Tab Bool
  | 0 => valid
  | k + 1 => clearHalves (sset false valid (a / 16 + k) false) a k

/-- Count the writes of each sector from address a (R425). -/
def bumpSectors (v : Tab Nat) (first : Nat) : Nat → Tab Nat
  | 0 => v
  | k + 1 => bumpSectors (sset 0 v (first + k) (sget 0 v (first + k) + 1)) first k

/-- A write of n bytes at an address key: data, validity bits cleared, sector versions counted (R143, R425); earlier writes of these halves are
seen no more. Agents write by `State.agentWrite`, which keeps them. -/
def State.writeMem (s : State) (a n v : Nat) : State :=
  if n = 0 then s else
  { s with
    mem := writeLE s.mem a n v
    valid := clearHalves s.valid a ((a + n - 1) / 16 - a / 16 + 1)
    past := s.past.filter fun p => !(decide (a / 16 * 16 ≤ p.1) && decide (p.1 < (a + n + 15) / 16 * 16))
    versions := bumpSectors s.versions (a / 32) ((a + n - 1) / 32 - a / 32 + 1) }

/-! ### Translation -/

/-- A translation's outcome. -/
inductive Xl where
  | ok (p : PageInfo)
  | fail (c : Cause) (guest : Nat)
  | bad
deriving DecidableEq, Repr

/-- A stage-2 walk (R213): the physical address of guest address g and its W bit; none: a stage-2 fault. A guest address with a bit above
51 set is a stage-2 fault, and bits 15:2 of an entry are not looked at: DESIGN CHOICE, the spec says nothing of either (log 30). -/
def stage2Walk (mem : List Host.Cell) (root g : Nat) : Option (Nat × Bool) :=
  if g ≥ 2 ^ 52 then none else
  let e1 := readLE mem (root + g / 2 ^ 40 % 4096 * 8) 8
  if e1 % 2 = 0 then none else
  let e2 := readLE mem (e1 / 65536 * 65536 + g / 2 ^ 28 % 4096 * 8) 8
  if e2 % 2 = 0 then none else
  let e3 := readLE mem (e2 / 65536 * 65536 + g / 2 ^ 16 % 4096 * 8) 8
  if e3 % 2 = 0 then none else
  some (e3 / 65536 * 65536 + g % 65536, bit e3 1)

/-- A guest address to a physical one: through stage 2 in a virtual function (R213). -/
def guestPhys (mem : List Host.Cell) (stage2 : Option Nat) (g : Nat) : Option (Nat × Bool) :=
  match stage2 with
  | none => some (g, true)
  | some root => stage2Walk mem root g

/-- Read 8 bytes of a table at a guest address. -/
def guestRead (mem : List Host.Cell) (stage2 : Option Nat) (g : Nat) : Option Nat :=
  (guestPhys mem stage2 g).map fun p => readLE mem p.1 8

/-- A well-formed object descriptor (R210): its low and high halves' reserved bits are zero and its scope is 2 to 5. -/
def descOk (d1 d2 d3 d0 : Nat) : Bool :=
  d2 == 0 && d3 == 0 && d1 / 2 ^ 54 == 0 && d1 / 2 ^ 40 % 256 == 0 && d0 % 8 == 0 &&
    decide (2 ≤ d1 / 2 ^ 48 % 8) && decide (d1 / 2 ^ 48 % 8 ≤ 5)

/-- A directory entry is valid and its must-be-zero bits are zero (R209). One with valid 1 and another of these bits set counts as not
valid, PAGE_NOT_PRESENT: DESIGN CHOICE, the spec names no outcome (log 30). -/
def dirOk (e : Nat) : Bool := e % 32 == 1

/-- A descriptor found by the two directory levels: its four words, or the fault. -/
inductive DescRes where
  | ok (d0 d1 : Nat)
  | fail (c : Cause) (guest : Nat)
deriving DecidableEq, Repr

/-- Walk the object directory (R209, R210). -/
def walkDesc (mem : List Host.Cell) (f : Fn) (obj : Nat) : DescRes :=
  let a1 := f.dirRoot + obj / 65536 % 65536 * 8
  match guestRead mem f.stage2 a1 with
  | none => .fail .stage2 a1
  | some e1 =>
    if !dirOk e1 then .fail .pageNotPresent 0 else
    let a2 := e1 / 32 * 32 + obj % 65536 * 8
    match guestRead mem f.stage2 a2 with
    | none => .fail .stage2 a2
    | some e2 =>
      if !dirOk e2 then .fail .pageNotPresent 0 else
      let a3 := e2 / 32 * 32
      match guestRead mem f.stage2 a3, guestRead mem f.stage2 (a3 + 8), guestRead mem f.stage2 (a3 + 16), guestRead mem f.stage2 (a3 + 24) with
      | some d0, some d1, some d2, some d3 => if descOk d1 d2 d3 d0 then .ok d0 d1 else .fail .pageNotPresent 0
      | _, _, _, _ => .fail .stage2 a3

/-- The address of the page entry for an offset (R210). -/
def pageEntryAddr (d0 off : Nat) : Nat := d0 + off / 65536 * 8

/-- Translate (object, offset) (R209 to R213, steps 1 to 3 of R216). contrib: an ordered contribution (R266). A malformed page entry (home 3,
kind 3, a must-be-zero bit set) is taken as not present: DESIGN CHOICE, R211 names no fault for it (log 30). -/
def translate (mem : List Host.Cell) (f : Fn) (obj off : Nat) (contrib : Bool) : Xl :=
  if obj = 0 then .fail .pageNotPresent 0 else
  match walkDesc mem f obj with
  | .fail c g => .fail c g
  | .ok d0 d1 =>
    if off ≥ d1 % 2 ^ 40 then .fail .pageNotPresent 0
    else if bit d1 51 != contrib then .fail .orderedTarget 0
    else
      let a4 := pageEntryAddr d0 off
      match guestRead mem f.stage2 a4 with
      | none => .fail .stage2 a4
      | some e =>
        if !f.seesPage obj (off / 65536) e || bit e 11 || e / 2 % 16 != 0 || e / 8192 % 8 != 0 || e / 512 % 4 == 3 || e / 128 % 4 == 3 then .fail .pageNotPresent 0
        else
          let g := e / 65536 * 65536 + off % 65536
          match guestPhys mem f.stage2 g with
          | none => .fail .stage2 g
          | some (p, w2) =>
            let a := e / 512 % 4 * 2 ^ 64 + p
            if physExists a then
              .ok ⟨a, g, e / 512 % 4, e / 128 % 4, bit e 5, bit e 6, bit e 12, w2, d1 / 2 ^ 48 % 8, bit d1 51, bit d1 52, bit d1 53, d1 % 2 ^ 40⟩
            else .bad

/-- The home die of a local address (log 10); none for another home. -/
def homeDie (a : Nat) : Option Nat := if a < 2 ^ 64 then some (a / Config.dieBytes) else none

/-- The link between two dies of the module has failed; die 4 is the link die. -/
def dieLinkDown (failed : List Nat) (i j : Nat) : Bool := failed.contains (16 * i + j) || failed.contains (16 * j + i)

/-- What lies behind a failed link or port (R8, R426, log 4): code 16 i + j for the link of dies i and j (4: the link die), 1000 + p for the
pod fabric port p, 2000 for the host link. Host and pod are reached over the link die. -/
def linkDown (failed : List Nat) (die : Nat) (a : Nat) : Bool :=
  if a < 2 ^ 64 then
    let h := a / Config.dieBytes
    h != die && dieLinkDown failed die h
  else dieLinkDown failed die 4 ||
    (if a < 2 ^ 65 then failed.any fun x => decide (1000 ≤ x) && decide (x < 1018) && x == 1000 + Config.fabricPort (a / 2 ^ 56 % 256) % 18
     else failed.contains 2000)

/-- The link die, as the end of a die-to-die link (R8). -/
def linkDie : Nat := 4

/-- The host link has failed. -/
def hostCut (s : State) : Bool := s.failed.contains 2000

/-- The home is a peer module whose flow has been closed (R422). -/
def flowDown (f : Fn) (a : Nat) : Bool := decide (2 ^ 64 ≤ a) && decide (a < 2 ^ 65) && f.closedFlows.contains (a / 2 ^ 56 % 256)

/-- The kinds of access that the memory-side checks distinguish; CTAG compares no colour (R162). -/
inductive AccTy where
  | load | store | tag | rmw | contrib | fetch
deriving DecidableEq, Repr

/-- The outcome of the memory-side checks of R216. -/
inductive Chk where
  | ok (p : PageInfo)
  | fail (c : Cause) (guest : Nat)
  /-- A store to a page with snapcopy set: held until the copy is made (R225, R423). -/
  | snap
  | bad
deriving DecidableEq, Repr

/-- The access writes. -/
def AccTy.writes : AccTy → Bool
  | .store | .tag | .rmw | .contrib => true
  | _ => false

/-- Every granule of the n bytes at address key a has this colour (R216 step 5). -/
def coloursMatch (colours : Tab Nat) (a colour : Nat) : Nat → Bool
  | 0 => true
  | k + 1 => sget 0 colours (a / 32 + k) == colour && coloursMatch colours a colour k

/-- The checks of R216 on a page as translated (steps 4 to 6), for n bytes from a die. In step 6 a link that is down is met before data that
cannot be corrected: DESIGN CHOICE, the spec gives no order within the step (log 30). -/
def checkPage (s : State) (f : Fn) (die n colour : Nat) (ty : AccTy) : Xl → Chk
  | .fail c g => .fail c g
  | .bad => .bad
  | .ok p =>
    if ty.writes && p.ro then .fail .pagePermission 0
    else if ty.writes && !p.w2 then .fail .stage2 p.guest
    else if ty == .fetch && p.xn then .fail .pagePermission 0
    else if ty.writes && p.snapcopy then .snap
    else if ty != .fetch && ty != .tag && !coloursMatch s.colours p.phys colour ((p.phys + n - 1) / 32 - p.phys / 32 + 1) then .fail .tagMismatch 0
    else if ty != .contrib && (linkDown s.failed die p.phys || flowDown f p.phys) then .fail .linkPoison 0
    else if ty != .contrib && sget .ok s.ecc (p.phys / 32) == .uncorrectable then .fail .uncorrectable 0
    else .ok p

/-- The checks of R216 in their order, for an access of n bytes (within one sector, or one granule) issued from a die. -/
def memCheck (s : State) (f : Fn) (die obj off n colour : Nat) (ty : AccTy) : Chk :=
  checkPage s f die n colour ty (translate s.mem f obj off (ty == .contrib))

/-! ### Groups and issue bookkeeping -/

/-- The threads of a group, by key. -/
def Group.keys (tk : Nat) (g : Group) : List Nat := g.lanes.map (threadKey tk)

/-- Make every waiting group try again (it waits for what an event may have brought). -/
def State.wake (s : State) : State :=
  { s with groups := s.groups.mapVals fun _ g => if g.status = .waiting then { g with status := .ready } else g }

/-! ### Taking a trap (R136, R390) -/

/-- What a trap names. -/
structure TrapArgs where
  cause : Cause
  thread : Nat
  pc : Nat
  word : Nat
  object : Nat := 0
  offset : Nat := 0
  deferredPrecise : Bool := false
  deferred : Nat := 0
  code : Nat := 0
  fatal : Bool := false
  heat : Bool := false
  pathB : Bool := false
  heatPos : Nat := 0
  resume : Resume := .retry
  shut : List Nat := []
deriving DecidableEq, Repr

/-- The 64-byte record of R390 for a trap of a thread of team tk. -/
def trapRecord (s : State) (tk : Nat) (group : Option Nat) (a : TrapArgs) : TrapRec :=
  let gk := gangOfTeam tk
  let l := launchOfGang gk
  let reduce := match s.gangs.find gk with
    | some g => g.reduceOf.isSome
    | none => false
  { cause := a.cause, deferredPrecise := a.deferredPrecise, fatal := a.fatal, heat := a.heat, pathB := a.pathB
    team := tk % 4, lane := a.thread % 32, wave := a.thread / 32, heatPos := a.heatPos
    vf := s.fnOf l, gang := if reduce then 0xFFFFFFFF else gk % 65536, word := a.word, pc := a.pc
    object := a.object, offset := a.offset
    vt := (match s.gangs.find gk with | some g => g.vtick | none => 0)
    rt := s.rt, deferred := a.deferred, code := a.code, launch := l, owner := gk, group := group, resume := a.resume, shut := a.shut, done := false }

/-- Take a trap: write the record, place it on the service context, hold the group (R136, R390); the turn that a formation gave it is over (R103). -/
def takeTrap (s : State) (gkey : Nat) (a : TrapArgs) : State :=
  let id := s.nextId
  { s with
    traps := s.traps.put id (trapRecord s (teamOfGroup gkey) (some gkey) a)
    nextId := id + 1
    groups := s.groups.modify gkey fun g => { g with status := .trapped id, fresh := none, stuck := false } }

/-- Write a record that stops no group (an exited thread's store, R116). -/
def recordOnly (s : State) (tk : Nat) (a : TrapArgs) : State :=
  let id := s.nextId
  { s with traps := s.traps.put id (trapRecord s tk none { a with resume := .nothing }), nextId := id + 1 }

/-- Close the windows of some instructions (R113): each of these is waited for before the next issue. -/
def Group.shutWindows (g : Group) (xs : List Nat) : Group :=
  { g with windows := g.windows.map fun w => if xs.contains w.xact then { w with left := 0 } else w }

/-- Return from a trap (R392): the record is answered and every group it holds goes on: at the recorded instruction, after it, or at its
boundary. -/
def resumeTrap (s : State) (rec : Nat) : State :=
  let shut := ((s.traps.find rec).map (·.shut)).getD []
  { s with
    traps := s.traps.modify rec fun r => { r with done := true }
    groups := s.groups.mapVals fun _ g => if g.status = .trapped rec then { g.shutWindows shut with status := .ready } else g }

end Sys2Proof.Machine
end

