-- ==== Sys2Proof/Machine/Flags.lean ====
section
/-! DEFINITION. `%mode` and `%flags` (R67 to R70): reading the modes, raising flags, the draw identities of R59, R249, R293 and R352. -/
namespace Sys2Proof.Machine

/-- The arithmetic mode of a `%mode` value (R68). -/
def armOf (m : W64) : RMode := .ofCode (m.toNat % 8)
/-- The final mode. -/
def finOf (m : W64) : RMode := .ofCode (m.toNat / 16 % 8)
/-- Stochastic underflow. -/
def sruOf (m : W64) : Bool := bit m.toNat 8
/-- SAT for a format: E2M1 always, FP32 never (R57, R68). -/
def satOf (m : W64) (f : Fmt) : Bool := match f with
  | .bf16 => !bit m.toNat 9
  | .f16 => !bit m.toNat 10
  | .e4m3 => !bit m.toNat 11
  | .e5m2 => !bit m.toNat 12
  | .e2m1 => true
  | .f32 => false
/-- The final rounding a `%mode` value asks for (R55). -/
def finMode (m : W64) (f : Fmt) : FinMode := ⟨finOf m, satOf m f, sruOf m⟩

/-- The bits of `%mode` that a write keeps (R68): 12:8, 6:4 and 2:0. -/
def modeMask : W64 := 0x1F77#64
/-- The bits of `%flags` that a write keeps (R69). -/
def flagMask : W64 := 0x1F#64
/-- A value whose arm or fin is a reserved code (R70). -/
def badMode (v : W64) : Bool := decide (v.toNat % 8 ≥ 5) || decide (v.toNat / 16 % 8 ≥ 5)

/-- Raise flags in a wave (R69: hardware only sets bits). -/
def Wave.raise (w : Wave) (f : Flags5) : Wave := { w with flags := w.flags ||| f.setWidth 64 }
/-- Raise flags in a wave of the state. -/
def State.raise (s : State) (wk : Nat) (f : Flags5) : State := if f = 0 then s else s.setWave wk (·.raise f)

/-- The identity of a thread's draws (R59): gang × 8,192 + rank. A reduce kernel has no index in the launch: its own draws take the index of the
gang that issued the run: DESIGN CHOICE, R59 and R368 give it none (log 31). -/
def drawId (gk tk t : Nat) : Nat := (gk % 65536 * 8192 + rankOf tk t) % 2 ^ 32
/-- The identity of a copy operation's draws (R293). -/
def copyDrawId (gk tk t : Nat) : Nat := (0x40000000 + gk % 65536 * 8192 + rankOf tk t) % 2 ^ 32
/-- The identity of a macro writeback's draws (R352). -/
def macroDrawId (gk tk t : Nat) : Nat := (0xC0000000 + gk % 65536 * 8192 + rankOf tk t) % 2 ^ 32
/-- The identity of a step's draws (R249). -/
def stepDrawId (tk region : Nat) : Nat := (0x80000000 + gangOfTeam tk % 65536 * 64 + tk % 4 * 8 + region) % 2 ^ 32

end Sys2Proof.Machine
end

