-- ==== Sys2Proof/Machine/Operands.lean ====
section
/-! DEFINITION. The operand forms: the issue context of a group (its selected lanes and subsets, R101, R128), renamed lane registers,
spans, guards (R78), immediates, byte offsets (R144, R214, R238) and check_cap (R27). -/
namespace Sys2Proof.Machine

/-- One lane of a group at issue: virtual lane, thread index, its thread, its wave-of-origin, its heat path. -/
structure Lane where
  vl : Nat
  t : Nat
  key : Nat
  th : Thread
  wk : Nat
  wv : Wave
  pathB : Bool
deriving DecidableEq, Repr

/-- One subset of a group at issue (R101). -/
structure Sub where
  w : Nat
  wk : Nat
  wv : Wave
  lanes : List Lane
deriving DecidableEq, Repr

/-- The issue context: the group, the selected lanes (R128), and the subsets that have one and whose guard holds. -/
structure Ctx where
  gkey : Nat
  tk : Nat
  gk : Nat
  lk : Nat
  g : Group
  gang : Gang
  team : Team
  launch : Launch
  fn : Fn
  lanes : List Lane
  all : List Lane
  subs : List Sub
  xact : Nat
  word : Nat
  lit : Nat
deriving DecidableEq, Repr

/-- The lane of thread t at virtual lane vl. -/
def mkLane (s : State) (tk : Nat) (h : Option Heat) (vl t : Nat) : Lane :=
  ⟨vl, t, threadKey tk t, s.thread (threadKey tk t), waveKey tk (t / 32), s.wave (waveKey tk (t / 32)),
    match h with | some h => h.pathB.contains t | none => false⟩

/-- Number threads from virtual lane vl. -/
def mkLanes (s : State) (tk : Nat) (h : Option Heat) : Nat → List Nat → List Lane
  | _, [] => []
  | vl, t :: ts => mkLane s tk h vl t :: mkLanes s tk h (vl + 1) ts

/-- A lane is selected by the heat's mask at its position (R128); outside a heat every lane is. -/
def selected (h : Option Heat) (l : Lane) : Bool := match h with
  | some h => bit (maskAt h.masks h.pos) (if l.pathB then 1 else 0)
  | none => true

/-- The wave numbers of lanes, each once, in order. -/
def waveNos (ls : List Lane) : List Nat := (ls.map fun l => l.t / 32).eraseDups

/-- The subsets of lanes (R101). -/
def mkSubs (s : State) (tk : Nat) (ls : List Lane) : List Sub :=
  (waveNos ls).map fun w => ⟨w, waveKey tk w, s.wave (waveKey tk w), ls.filter fun l => l.t / 32 == w⟩

/-- The group that is to issue, if it can: it is current, ready or waiting, and its gang is in service. Each of its threads is one lane (R100). -/
def ctx? (s : State) : Option Ctx :=
  match s.cur with
  | none => none
  | some gkey =>
    let tk := teamOfGroup gkey
    let gk := gangOfTeam tk
    let lk := launchOfGang gk
    match s.groups.find gkey, s.teams.find tk, s.gangs.find gk, s.launches.find lk with
    | some g, some team, some gang, some launch =>
      if gang.inService && launch.fatal.isNone && (g.status == .ready || g.status == .waiting) && s.boot != .tripped then
        match s.fnFor lk with
        | none => none
        | some fn =>
          let all := mkLanes s tk g.heat 0 g.lanes.eraseDups
          let lanes := all.filter (selected g.heat)
          let fw := s.fetched.getD (0, 0, 0)
          some ⟨gkey, tk, gk, lk, g, gang, team, launch, fn, lanes, all, mkSubs s tk lanes, s.nextId, fw.1, fw.2.1⟩
      else none
    | _, _, _, _ => none

/-- A guard holds for a wave (R78): 0 always. -/
def guardOk (k : Nat) (w : Wave) : Bool := w.getQ k

/-- Byte k of a rename table (R127). -/
def renameByte (t : W64) (k : Nat) : Nat := t.toNat / 256 ^ k % 256

/-- The lane register a field names in a lane: inside a heat 120 to 127 go through the path's table (R128). The table is the wave's present one,
also for a group trapped inside its heat while another group of the wave runs HMAP: DESIGN CHOICE, R132 says that a trap saves the tables with the
group and not which of the two the group then uses (log 31). -/
def Lane.reg (l : Lane) (heat : Bool) (r : Nat) : Nat :=
  if heat && decide (120 ≤ r) then renameByte (if l.pathB then l.wv.renB else l.wv.renA) (r - 120) else r

/-- The group stands in a heat. -/
def Ctx.inHeat (c : Ctx) : Bool := c.g.heat.isSome

/-- The register a field names in a lane of the context. -/
def Ctx.reg (c : Ctx) (l : Lane) (r : Nat) : Nat := l.reg c.inHeat r

/-- Read the image a field names. -/
def Ctx.src (c : Ctx) (l : Lane) (r : Nat) : Image := l.th.getV (c.reg l r)

/-- The registers of a span vt to vt + n - 1, each renamed (R214). -/
def Ctx.span (c : Ctx) (l : Lane) (r n : Nat) : List Nat := (List.range n).map fun k => c.reg l (r + k)

/-- The lowest-ranked active thread of lanes (lanes stand in rank order, R100). -/
def lowLane (ls : List Lane) : Nat := match ls with
  | l :: _ => l.t
  | [] => 0

/-- Sign-extended imm7 as a field (R175). -/
def imm7 (i : Nat) : W32 := (BitVec.ofNat 7 i).signExtend 32
/-- Sign-extended imm9 (R151). -/
def imm9 (i : Nat) : W64 := (BitVec.ofNat 9 i).signExtend 64
/-- A literal word sign-extended to 64 bits (R151). -/
def litS (w : Nat) : W64 := (BitVec.ofNat 32 w).signExtend 64
/-- A literal word as a signed displacement (R80). -/
def disp32 (w : Nat) : Int := sextN 32 w
/-- The target of a UB branch (R79): PC + 4 × sext(offset18); below address 0 it wraps, and the fetch meets c31's bounds (R120). -/
def branchTarget (pc o : Nat) : Nat := (((pc : Int) + 4 * sextN 18 o) % 2 ^ 64).toNat

/-- check_cap of R27: (object, offset), or the trap with the object and the offset R390 records. a may be negative. -/
def checkCap (c : Cap) (a : Int) (n : Nat) (right : Right) : Except (Cause × Nat × Nat) (Nat × Nat) :=
  let at' := (((c.base : Int) + a) % 2 ^ 64).toNat
  if !c.valid then .error (.capInvalid, c.object, at')
  else if !c.has right then .error (.capRights, c.object, at')
  else if a < 0 || a + n > c.length then .error (.capBounds, c.object, at')
  else if at' % min n 16 ≠ 0 then .error (.alignment, c.object, at')
  else .ok (c.object, at')

/-- The byte offset of a lane access (R214). -/
def laneOffset (x : Image) (n : Nat) (disp : Int) : Int := sextN 32 x.f.toNat * n + disp
/-- The byte offset of a uniform access (R144). -/
def uniOffset (x : W64) (n : Nat) (disp : Int) : Int := sextN 64 x.toNat * n + disp
/-- The byte offset of a glade access (R238). -/
def gladeOffset (x : Image) (n : Nat) : Nat := x.f.toNat * n

end Sys2Proof.Machine
end

