-- ==== Sys2Proof/Machine/Views.lean ====
section
/-! DEFINITION. What agents see of each other's writes (13_ordering R312 to R323): places and scopes, the modification order of a byte, reads of
older writes, releases, acquires and fences. -/
namespace Sys2Proof.Machine

/-! ### Places and scopes (R313) -/

/-- A place as a key. -/
def Place.code : Place → Nat
  | .team k => 4 * k
  | .engine d => 4 * d + 1
  | .peer m => 4 * m + 2
  | .host c => 4 * c + 3

/-- The core of a team. -/
def coreOf (s : State) (tk : Nat) : Nat := ((s.teams.find tk).map (·.core)).getD 0

/-- The core on which an agent stands now, or last stood: a scope's instance is that of where its agents are (R313, R319). -/
def State.coreAt (s : State) : Place → Option Nat
  | .team k => some (((s.teams.find k).map (·.core)).getD (sget 0 s.stood k))
  | _ => none

/-- The die of a place of this module. -/
def State.dieAt (s : State) : Place → Option Nat
  | .engine d => some d
  | p => (s.coreAt p).map dieOfCore

/-- The smallest scope whose instance holds both agents (R313). -/
def State.nearness (s : State) (a b : Place) : Nat := match s.dieAt a, s.dieAt b with
  | some d, some e => match s.coreAt a, s.coreAt b with
    | some x, some y => if x == y then 0 else if x / Config.coresPerQuad == y / Config.coresPerQuad then 1 else if d == e then 2 else 3
    | _, _ => if d == e then 2 else 3
  | _, _ => match a, b with
    | .host _, _ => 5
    | _, .host _ => 5
    | _, _ => 4

/-! ### Views -/

/-- The later of two views at every byte. -/
def View.join (a b : View) : View := b.foldl (fun v p => sset 0 v p.1 (max (sget 0 v p.1) p.2)) a

/-- The write that a view shows at a byte, of whatever kind. -/
def View.at (v : View) (a : Nat) : Nat := max (sget 0 v (2 * a)) (sget 0 v (2 * a + 1))

/-- The view of write no to n bytes from address a, of a `uo` page or not. -/
def View.ofWrite (uo : Bool) (no a n : Nat) : View := (List.range n).map fun i => (2 * (a + i) + (if uo then 1 else 0), no)

/-- A view without writes to `uo` pages: what passes a release or acquire that does not cover these (R320). -/
def View.plain (v : View) : View := v.filter fun p => p.1 % 2 == 0

/-! ### The modification order of a byte (R312) -/

/-- The writes of a byte that agents may still see, newest first. -/
def State.pastOf (s : State) (a : Nat) : List Past := (s.past.find a).getD [⟨0, .engine 0, readByte s.mem a, sget false s.valid (a / 16), []⟩]

/-- A write as agents make it: who, its number, the validity bit it leaves, what it releases, and at each byte what it passes on (R318). -/
structure Made where
  place : Place
  no : Nat
  valid : Bool
  rel : List Release
  passOn : Bool

/-- What a write carries at a byte: its own releases, and as a read-modify-write those of the write before it (R318). -/
def Made.relAt (m : Made) (ps : List Past) : List Release :=
  if m.passOn then (m.rel ++ (match ps with | p :: _ => p.rel | [] => [])).eraseDups else m.rel

/-- Enter a write of the n low bytes of v into the orders of the bytes from a on. -/
def State.pushPast (s : State) (m : Made) : Nat → Nat → Nat → Tab (List Past)
  | _, 0, _ => s.past
  | a, n + 1, v => (s.pushPast m (a + 1) n (v / 256)).put a (⟨m.no, m.place, BitVec.ofNat 8 v, m.valid, m.relAt (s.pastOf a)⟩ :: s.pastOf a)

/-- A write by an agent: memory, and the modification orders (R312, R318). Its number is the next, or the latest one again where it belongs to the
same access. -/
def State.writeAs (s : State) (m : Made) (a n v : Nat) : State :=
  { s.writeMem a n v with past := s.pushPast m a n v, writeNo := max s.writeNo m.no }

/-- A write of its own number, with what it releases. -/
def State.agentWrite (s : State) (place : Place) (a n v : Nat) (rel : List Release) : State :=
  s.writeAs ⟨place, s.writeNo + 1, false, rel, false⟩ a n v

/-- The newest write of each of n bytes from a on stands alone: what came before is seen no more (R162: CTAG has cleared its validity bit). -/
def State.forget (s : State) (a n : Nat) : State :=
  { s with past := s.past.mapVals fun k ps => if a ≤ k ∧ k < a + n then (ps.take 1).map fun p => { p with valid := false } else ps }

/-! ### Reads (R312, R322) -/

/-- The newest of a byte's writes that is no later than write t. -/
def pastAt (t : Nat) : List Past → Past
  | [] => ⟨0, .engine 0, 0, false, []⟩
  | [p] => p
  | p :: r => if p.no ≤ t then p else pastAt t r

/-- The writes that a read of n bytes from a returns, as memory stood after write t. -/
def State.seenAt (s : State) (t a n : Nat) : List Past := (List.range n).map fun i => pastAt t (s.pastOf (a + i))

/-- Their bytes as a number, low byte first. -/
def valueOf (ps : List Past) : Nat := ps.foldr (fun p v => p.val.toNat + 256 * v) 0

/-- The validity bit of the half that holds address a, as memory stood after write t: that of the half's latest write by then (R143). -/
def State.validAt (s : State) (t a : Nat) : Bool :=
  let ps := s.seenAt t (a / 16 * 16) 16
  let m := ps.foldl (fun k p => max k p.no) 0
  ps.any fun p => p.no == m && p.valid

/-- The agent must see write no of the byte at a, in an access to a page of this kind. -/
def Agent.bound (g : Agent) (uo : Bool) (a : Nat) : Nat := max (max (g.seen.at a) (g.always.at a)) (if uo then 0 else g.acq.at a)

/-- Agents at a place may read n bytes of a page, together, as they stood after write t (R312, R314, R320 to R322): none of the writes passed over is
one they must see, or one that `st` order shows to them. One access reads its bytes as of one write (DEDUCED from R218, log 7). -/
def State.mayRead (s : State) (gs : List Agent) (place : Place) (i : PageInfo) (n t : Nat) : Bool :=
  (List.range n).all fun k => ((s.pastOf (i.phys + k)).takeWhile fun p => decide (t < p.no)).all fun p =>
    (gs.all fun g => decide (g.bound (i.kind == 2) (i.phys + k) < p.no)) && !(i.kind == 0 && decide (s.nearness p.place place ≤ i.scope))

/-- What a read has seen, from address a. -/
def seenView (a : Nat) (ps : List Past) : View := (ps.zipIdx.map fun p => (2 * (a + p.2), p.1.no)).filter fun p => decide (0 < p.2)

/-- The releases that the writes read carry. -/
def releasesOf (ps : List Past) : List Release := (ps.flatMap (·.rel)).eraseDups

/-- Of releases that an agent at a place reads, those whose scope holds it: the smallest scope that does, and the view (R319). -/
def inScope (s : State) (place : Place) (rs : List Release) : List (Nat × View) :=
  (rs.filter fun r => decide (s.nearness r.place place ≤ r.scope)).map fun r => (s.nearness r.place place, r.view)

/-- The scope of atomics on an object (R210): a host-visible object's is `.sys`. -/
def PageInfo.atomScope (i : PageInfo) : Nat := if i.hostvis then 5 else i.scope

/-! ### Agents -/

/-- The agent has read these writes, with their releases. -/
def Agent.read (g : Agent) (v : View) (met : List (Nat × View)) : Agent := { g with seen := View.join g.seen v, met := g.met ++ met }

/-- The agent has made these writes (R314). -/
def Agent.made (g : Agent) (v : View) : Agent := { g with seen := View.join g.seen v, own := View.join g.own v }

/-- The agent acquires a view, for its accesses of every kind or of `st` and `rc` pages (R317). -/
def Agent.acquire (g : Agent) (all : Bool) (v : View) : Agent :=
  { g with acq := View.join g.acq v, always := if all then View.join g.always v else g.always }

/-- The agent acquires the releases that an acquire of a scope takes (R319). -/
def Agent.acquireIn (g : Agent) (all : Bool) (scope : Nat) (rs : List (Nat × View)) : Agent :=
  rs.foldl (fun g r => if r.1 ≤ scope then g.acquire all r.2 else g) g

/-- What a release of every kind covers (R316, R320). -/
def Agent.all (g : Agent) : View := View.join g.own g.acq

/-- What a fence of key k covers of a view: only a full fence covers writes to `uo` pages (R316). -/
def coveredBy (k : Nat) (v : View) : View := if k % 2 = 1 then v else v.plain

/-- The releases of some that an acquire of a scope takes, as one view. -/
def takenBy (scope : Nat) (rs : List (Nat × View)) : View := rs.foldl (fun v r => if r.1 ≤ scope then View.join v r.2 else v) []

/-- An acquire fence makes acquire reads of the loads before it (R317): those that an earlier release fence covers pass on what they acquire (R320). -/
def Agent.passFenced (g : Agent) (scope : Nat) : Agent :=
  { g with fenced := g.fenced.mapVals fun k v => View.join v (coveredBy k (takenBy scope (g.met.take (sget 0 g.fencedMet k)))) }

/-- A fence of a kind and scope (R316, R317): an acquire fence takes the releases its loads have met; a release fence covers, for every later store,
the agent's writes before it and what its loads before it have acquired. -/
def Agent.fence (g : Agent) (kind scope : Nat) : Agent :=
  let g1 := if kind = 2 then g else (g.acquireIn (kind == 3) scope g.met).passFenced scope
  let k := 2 * scope + (if kind = 3 then 1 else 0)
  if kind = 1 then g1 else { g1 with fenced := g1.fenced.put k (coveredBy k g1.all), fencedMet := g1.fencedMet.put k g1.met.length }

/-- What a store or atomic releases (R316): by each fence before it, what that covers and what the agent has acquired for accesses of the store's
kind (R320); as an atomic of order rel, at its object's scope, what came before it, what its loads have acquired among it. -/
def Agent.rel (g : Agent) (ordered : Bool) : List Cover :=
  (g.fenced.map fun p => ⟨p.1 / 2, View.join p.2 (coveredBy p.1 g.acq), View.join p.2 (coveredBy p.1 g.always)⟩) ++
  (if ordered then [⟨6, g.all.plain, g.all.plain⟩] else [])

/-- The releases that a write of an agent at a place carries. scope: its object's; uo: it is a write to a `uo` page. -/
def relOf (place : Place) (scope : Nat) (uo : Bool) (rs : List Cover) : List Release :=
  rs.map fun r => ⟨place, if r.scope = 6 then scope else r.scope, if uo then r.uview else r.view⟩

/-! ### Full fences (R321) -/

/-- What a full fence at a place and scope must see: what the full fences before it, in both scopes, have made visible. -/
def State.fencesSeen (s : State) (place : Place) (scope : Nat) : View :=
  s.fences.foldl (fun v f => if s.nearness f.place place ≤ min f.scope scope then View.join v f.view else v) []

/-- Enter what a full fence shows, beside what its agents' earlier ones of that scope do. -/
def addShown (x : Shown) : List Shown → List Shown
  | [] => [x]
  | y :: t => if y.place = x.place ∧ y.scope = x.scope then { y with view := View.join y.view x.view } :: t else y :: addShown x t

/-- A full fence of an agent shows what it has made and read. -/
def State.fullFence (s : State) (place : Place) (scope : Nat) (seen : View) : State := { s with fences := addShown ⟨place, scope, seen⟩ s.fences }

/-! ### Threads as agents -/

/-- Change the agents of threads. -/
def State.onAgents (s : State) (keys : List Nat) (f : Agent → Agent) : State :=
  keys.foldl (fun s k => s.setThread k fun t => { t with agent := f t.agent }) s

/-- A meeting's view after an arrival. -/
def Meet.arrive (m : Meet) (v : View) : Meet := { m with brought := View.join m.brought v }
/-- The phase is complete: what was brought is given. -/
def Meet.complete (m : Meet) : Meet := ⟨[], View.join m.given m.brought⟩

end Sys2Proof.Machine
end

