-- ==== Sys2Proof/Machine/Issue.lean ====
section
/-! DEFINITION. Issuing one instruction (R86 steps 5 to 7, R99 to R114): the waits of lookahead windows, guards and heats, the hazard check,
the entry's effect, and the group's advance. Every encoded instruction's meaning is one call of `issue`. -/
namespace Sys2Proof.Machine

abbrev Out := Host.Outcome State Fault Refusal

/-- What an instruction's effect yields. -/
inductive Eff where
  /-- The effect is made; the group goes on after the instruction. -/
  | done (s : State)
  /-- The effect is made and has set the group's place itself (branches, EXIT). -/
  | jump (s : State)
  /-- A condition does not hold yet: the group waits and issues the instruction again. -/
  | wait
  /-- As wait, after the progress held in s (an arrival, a call sent). -/
  | waitAs (s : State)
  | trap (a : TrapArgs)
  /-- The group parks: the faulted load x traps here (R114, R224). -/
  | park (x : Nat)
  | stop (f : Fault)

/-- How an instruction issues. -/
structure Iss where
  uniform : Bool := false
  lits : Nat := 0
  /-- A kind a heat forbids (R131). -/
  forbid : Bool := false
  /-- A window end (R112). -/
  wend : Bool := false
  /-- Long-latency, with its la (R110, R111). -/
  la : Option Nat := none
  /-- Long-latency loads count sectors (R111). -/
  load : Bool := false
  /-- A memory instruction for R262. -/
  mem : Bool := false
  /-- The guard field (R78); SSEL passes 0. -/
  guard : Nat := 0
  /-- Names it reads or writes (R113). -/
  names : Ctx → List RegName := fun _ => []
  /-- Names a long-latency instruction writes. -/
  dests : Ctx → List RegName := fun _ => []
  eff : Ctx → State → Eff

/-! ### Waiting for accesses -/

/-- An access that is a load or a returning atomic. -/
def AKind.returns : AKind → Bool
  | .load _ => true
  | .atomic .. => true
  | _ => false

/-- An access that stands in the store window (R115). -/
def AKind.inWindow : AKind → Bool
  | .store .. => true
  | .tag .. => true
  | .ordered .. => true
  | _ => false

/-- The faulted state of a load. -/
def ASt.isFaulted : ASt → Bool
  | .faulted .. => true
  | _ => false

/-- Outstanding accesses of instruction x that return a value. -/
def pendingOf (s : State) (x : Nat) : List Access := s.accesses.vals.filter fun a => a.xact == x && a.kind.returns

/-- A macro command of this number is still queued (MRD, R350). -/
def macroHolds (s : State) (tk x : Nat) : Bool := match s.teams.find tk with
  | some t => t.macros.vals.any fun m => m.queue.any fun q => q.id == x
  | none => false

/-- Instruction x is complete (R110). -/
def isComplete (s : State) (tk x : Nat) : Bool := (pendingOf s x).isEmpty && !macroHolds s tk x

/-- What waiting for instructions gives: go on, wait, or park at a load all of whose outstanding accesses have faulted. -/
inductive Waited where
  | go | wait | park (x : Nat)
deriving DecidableEq, Repr

/-- Every outstanding access of x has faulted, and there is one. -/
def allFaulted (s : State) (x : Nat) : Bool := let p := pendingOf s x; !p.isEmpty && p.all fun a => a.st.isFaulted

/-- Wait until each of the instructions is complete. -/
def waitFor (s : State) (tk : Nat) (xs : List Nat) : Waited :=
  if xs.all (isComplete s tk) then .go
  else match xs.find? (allFaulted s) with
    | some x => .park x
    | none => .wait

/-- The instructions that threads have outstanding loads or returning atomics of. -/
def loadsOf (s : State) (tk : Nat) (ts : List Nat) : List Nat :=
  ((s.accesses.vals.filter fun a => a.team == tk && a.kind.returns && ts.any fun t => a.threads.contains t).map (·.xact)).eraseDups

/-- Unacknowledged store-window entries of a thread (R115). -/
def storesOf (s : State) (tk t : Nat) : Nat :=
  (s.accesses.vals.filter fun a => a.team == tk && a.kind.inWindow && a.threads.contains t).length

/-- The page of an access at an offset: as it stood when an invalidation met the access already translated (R212), or by the tables. -/
def Access.xlate (s : State) (f : Fn) (a : Access) (off : Nat) : Xl := match a.pins.find (off / 65536) with
  | some p =>
    if p.size ≤ off then .fail .pageNotPresent 0
    else .ok { p with phys := p.phys / 65536 * 65536 + off % 65536, guest := p.guest / 65536 * 65536 + off % 65536 }
  | none => translate s.mem f a.obj off (match a.kind with | .ordered .. => true | _ => false)

/-- The kind of the page at an offset of an access's object, when it translates. -/
def kindAt (s : State) (f : Fn) (a : Access) (off : Nat) : Option Nat :=
  match a.xlate s f off with
  | .ok p => some p.kind
  | _ => none

/-- The kinds of an access's pages: CTAG's granules may lie in several (R162). -/
def accessKinds (s : State) (f : Fn) (a : Access) : List (Option Nat) := match a.kind with
  | .tag n _ => (List.range ((a.off + 32 * n - 1) / 65536 - a.off / 65536 + 1)).map fun i => kindAt s f a (max a.off ((a.off / 65536 + i) * 65536))
  | _ => [kindAt s f a a.off]

/-- Some thread has an unacknowledged store; st and rc pages only where uo is not covered (R262, R277). A store that does not translate counts. -/
def storesPending (s : State) (f : Fn) (tk : Nat) (ts : List Nat) (uo : Bool) : Bool :=
  s.accesses.vals.any fun a => a.team == tk && a.kind.inWindow && (ts.any fun t => a.threads.contains t) && (uo || (accessKinds s f a).any (· != some 2))

/-- Instructions that must be complete before the group may issue I here (R111, R112, R262). A load at its window's end waits for all
the group's loads (the outstanding-sector counter). -/
def mustComplete (g : Group) (I : Iss) : List Nat :=
  let due := if I.wend then g.windows else g.windows.filter fun w => w.left == 0
  let loads := if due.any (·.load) then g.windows.filter (·.load) else []
  (due ++ loads).map (·.xact) ++ (if I.mem then g.acquires else [])

/-- The group's windows after those waits: the ended ones are gone. -/
def pruned (g : Group) (I : Iss) : List Window := if I.wend then [] else g.windows.filter fun w => !(w.left == 0)

/-- The instructions of open windows that write one of the names (R113). -/
def violated (ws : List Window) (names : List RegName) : List Nat := (ws.filter fun w => names.any fun n => w.names.contains n).map (·.xact)

/-- A name is written by the instruction of an open window (R113). -/
def hazard (ws : List Window) (names : List RegName) : Bool := names.any fun n => ws.any fun w => w.names.contains n

/-! ### Traps at issue -/

/-- Fill in what every trap of an instruction carries: PC, word, heat (R390). -/
def Ctx.trapArgs (c : Ctx) (cause : Cause) (t : Nat) : TrapArgs :=
  { cause := cause, thread := t, pc := c.g.pc, word := c.word, heat := c.inHeat
    pathB := (match c.g.heat with | some h => h.pathB.contains t | none => false)
    heatPos := (match c.g.heat with | some h => h.pos | none => 0) }

/-- The lanes of faulted accesses: the access, its thread, object and offset. -/
def faultLanes (ps : List Access) : List (Access × Nat × Nat × Nat) := ps.flatMap fun a => match a.kind with
  | .load parts => parts.map fun p => (a, p.threads.headD 0, a.obj, p.off)
  | _ => [(a, a.threads.headD 0, a.obj, a.off)]

/-- The lane of the lowest-ranked thread. -/
def lowestLane : List (Access × Nat × Nat × Nat) → Option (Access × Nat × Nat × Nat)
  | [] => none
  | x :: t => match lowestLane t with
    | none => some x
    | some y => if x.2.1 ≤ y.2.1 then some x else some y

/-- The cause with which a load traps at its park point. -/
def ASt.trapCause : ASt → Cause
  | .faulted c _ => c
  | _ => .pageNotPresent

/-- Instructions a thread has issued since a mark (R226). -/
def deferredSince (s : State) (tk t : Nat) (info : Issued) : Nat :=
  (s.thread (threadKey tk t)).issued - ((info.marks.find? fun m => m.1 == t).map (·.2)).getD 0

/-- A faulted load traps at the park point, deferred-precise, naming its lowest-ranked faulting lane with that lane's cause (R224); its accesses
are discarded. -/
def parkTrap (s : State) (gkey x : Nat) : State := match lowestLane (faultLanes (pendingOf s x)) with
  | none => s
  | some (a, t, obj, off) =>
    takeTrap { s with accesses := s.accesses.filter fun e => !(e.2.xact == x && e.2.kind.returns) } gkey
      { cause := a.st.trapCause, thread := t, pc := a.info.pc, word := a.info.word, object := obj, offset := off
        deferredPrecise := true, deferred := deferredSince s (teamOfGroup gkey) t a.info, heat := a.info.heat
        pathB := a.info.pathB.contains t, heatPos := a.info.heatPos, resume := .boundary }

/-! ### Advancing -/

/-- Add to a performance counter (R388). -/
def Gang.count (g : Gang) (sel n : Nat) : Gang := { g with counters := sset 0 g.counters sel ((sget 0 g.counters sel + n) % 2 ^ 64) }

/-- Count an issued instruction: per-thread for deferred counts (R226), and counters 2, 3 and 8. -/
def countIssue (s : State) (c : Ctx) (uniform : Bool) : State :=
  let n := if uniform then max 1 (waveNos c.lanes).length else 1
  let keys := c.lanes.map (·.key)
  { s with
    threads := s.threads.mapVals fun k t => if keys.contains k then { t with issued := t.issued + 1 } else t
    gangs := s.gangs.modify c.gk fun g =>
      let g := g.count 2 n
      let g := if uniform then g else g.count 3 1
      if c.inHeat then g.count 8 1 else g }

/-- The heat after one more instruction: over after the last (R128). -/
def Heat.next (h : Heat) : Option Heat := if h.pos + 1 ≥ h.n then none else some { h with pos := h.pos + 1 }

/-- The group after instruction I: next PC, heat position, windows, and a window of its own (R111). -/
def Group.advance (g : Group) (c : Ctx) (I : Iss) (skipped : Bool) : Group :=
  let own := match I.la with
    | some n => if skipped || !(I.load || !(I.dests c).isEmpty) then [] else [⟨c.xact, n, I.load, I.dests c⟩]
    | none => []
  { g with
    pc := g.pc + 4 * (1 + I.lits)
    heat := g.heat.bind Heat.next
    windows := g.windows.map (fun w => { w with left := w.left - 1 }) ++ own
    status := .ready
    acted := [] }

/-- An instruction has issued. -/
def advance (s : State) (c : Ctx) (I : Iss) (skipped : Bool) : State :=
  (countIssue s c I.uniform).setGroup c.gkey (·.advance c I skipped)

/-- The subsets that the current instruction has still to act for. -/
def Ctx.todo (c : Ctx) : List Sub := c.subs.filter fun w => !c.g.acted.contains w.w

/-- The context with the subsets whose guard holds. -/
def Ctx.guarded (c : Ctx) (k : Nat) : Ctx := { c with subs := c.subs.filter fun w => guardOk k w.wv }

/-- The group's status after an attempt that must wait. -/
def waitState (s : State) (c : Ctx) : State := s.setGroup c.gkey fun g => { g with status := .waiting, word := c.word }

/-- The outcome of an effect. -/
def finish (c : Ctx) (I : Iss) : State → Eff → Out
  | _, .done s => .next (advance s c I false)
  | _, .jump s => .next s
  | s0, .wait => .next (waitState s0 c)
  | _, .waitAs s => .next (waitState s c)
  | s0, .trap a => .next (takeTrap s0 c.gkey a)
  | s0, .park x => .next (parkTrap s0 c.gkey x)
  | _, .stop f => .fault f

/-- The group's state when it goes past its waits: ended windows gone, acquires met. -/
def pastWaits (s : State) (c : Ctx) (I : Iss) : State :=
  s.setGroup c.gkey fun g => { g with windows := pruned g I, acquires := if I.mem then [] else g.acquires }

/-- Issue one instruction (R86 steps 5 to 7 with the waits after step 5). -/
def issueIn (c : Ctx) (I : Iss) (s : State) : Out :=
  if c.inHeat && I.forbid then .next (takeTrap s c.gkey (c.trapArgs .heatViolation (lowLane c.all)))
  else match waitFor s c.tk (mustComplete c.g I) with
    | .wait => .next (waitState s c)
    | .park x => .next (parkTrap s c.gkey x)
    | .go =>
      let s1 := pastWaits s c I
      let c1 := c.guarded I.guard
      if c.lanes.isEmpty || c1.subs.isEmpty then .next (advance s1 c I true)
      else if hazard (pruned c.g I) (I.names c1) then
        .next (takeTrap s1 c.gkey { c.trapArgs .lookaheadViolation (lowLane c.lanes) with shut := violated (pruned c.g I) (I.names c1) })
      else finish c1 I s1 (I.eff c1 s1)

/-- Issue one instruction of the current group. -/
def issue (I : Iss) (s : State) : Out :=
  match ctx? s with
  | none => .refused .noGroup
  | some c => issueIn c I s

/-! ### The common shapes of effects -/

/-- What a lane instruction does to one lane: its thread after, and the flags it raises in its wave. -/
structure LaneOut where
  th : Thread
  fl : Flags5
deriving DecidableEq, Repr

/-- Write the threads of lanes, and raise their flags. -/
def State.putLanes (s : State) : List (Lane × LaneOut) → State
  | [] => s
  | (l, o) :: t => ((s.setThread l.key fun _ => o.th).raise l.wk o.fl).putLanes t

/-- Every selected lane at once: each reads the state before any lane writes (R26). -/
def eachLane (c : Ctx) (s : State) (f : Lane → LaneOut) : State := s.putLanes (c.lanes.map fun l => (l, f l))

/-- Write the waves of subsets. -/
def State.putSubs (s : State) : List (Sub × Wave) → State
  | [] => s
  | (w, v) :: t => (s.setWave w.wk fun _ => v).putSubs t

/-- Every subset whose guard holds (R101, R139). -/
def eachSub (c : Ctx) (s : State) (f : Sub → Wave) : State := s.putSubs (c.subs.map fun w => (w, f w))

/-- Names of lane registers of the selected lanes. -/
def vNames (rs : List Nat) (c : Ctx) : List RegName := c.lanes.flatMap fun l => rs.map fun r => .v l.t (c.reg l r)
/-- Names of lane predicates. -/
def pNames (ks : List Nat) (c : Ctx) : List RegName := c.lanes.flatMap fun l => ks.map fun k => .p l.t k
/-- Names of uniform registers of the subsets. -/
def sNames (rs : List Nat) (c : Ctx) : List RegName := c.subs.flatMap fun w => rs.map fun r => .s w.w r
/-- Names of capability registers of the subsets. -/
def cNames (rs : List Nat) (c : Ctx) : List RegName := c.subs.flatMap fun w => rs.map fun r => .c w.w r

/-- An instruction's place and sources as they stand at issue (R220). fields: the lane register fields it names. -/
def Ctx.issued (c : Ctx) (fields : List Nat) : Issued :=
  { pc := c.g.pc, word := c.word, lit := c.lit, slot := c.gkey % 64, lanes := c.g.lanes
    sources := c.lanes.map fun l => (l.t, fields.map (c.src l))
    renamed := c.lanes.map fun l => (l.t, fields.map (c.reg l))
    pathB := (c.all.filter (·.pathB)).map (·.t)
    draws := c.lanes.map fun l => (l.t, l.th.draw)
    marks := c.lanes.map fun l => (l.t, l.th.issued + 1)
    heat := c.inHeat, heatPos := (match c.g.heat with | some h => h.pos | none => 0) }

/-- Wait for loads of the context's threads (R262, R277, R279, R286). -/
def Ctx.waitLoads (c : Ctx) (s : State) : Waited := waitFor s c.tk (loadsOf s c.tk (c.lanes.map (·.t)))

end Sys2Proof.Machine
end

