-- ==== Sys2Proof/Machine/Access.lean ====
section
/-! DEFINITION. The checks of an access at the memory side (09_global_memory R212, R216; 11_atomics R266; 15_relay R368). -/
namespace Sys2Proof.Machine

/-! ### Looking at an access -/

/-- The function of a team's launch. -/
def fnOfTeam (s : State) (tk : Nat) : Option Fn :=
  let lk := launchOfGang (gangOfTeam tk)
  (s.launches.find lk).bind fun _ => s.fnFor lk

/-- The die a team stands on. -/
def dieOfTeam (s : State) (tk : Nat) : Nat := dieOfCore (((s.teams.find tk).map (·.core)).getD 0)

/-- What an access does, for the checks of R216. -/
def AKind.ty : AKind → AccTy
  | .load _ => .load
  | .store .. => .store
  | .tag .. => .tag
  | .atomic .. => .rmw
  | .ordered .. => .contrib
  | .fetch => .fetch

/-- The gang of a team that is a reduce kernel, and its parent (R367). -/
def reduceGang (s : State) (tk : Nat) : Option (Gang × Nat) := (s.gangs.find (gangOfTeam tk)).bind fun g => g.reduceOf.map fun p => (g, p)

/-- A store of a reduce kernel to its engine buffer (R368): the parent gang. -/
def toBuffer (s : State) (a : Access) : Option Nat := match reduceGang s a.team with
  | some (g, p) => if g.bufObj == some a.obj && a.kind.ty == .store then some p else none
  | none => none

/-- The checks of R216 for n bytes of an access from an offset. A reduce kernel has no ordered targets; its engine buffer is no memory
and has colour 0 (R368). -/
def checkAt (s : State) (f : Fn) (a : Access) (off n : Nat) : Chk :=
  if a.kind.ty == .contrib && (reduceGang s a.team).isSome then .fail .orderedTarget 0
  else if (toBuffer s a).isSome then
    if a.colour = 0 then .ok ⟨0, 0, 0, 2, false, false, false, true, 2, false, false, false, 0⟩ else .fail .tagMismatch 0
  else checkPage s f (dieOfTeam s a.team) n a.colour a.kind.ty (a.xlate s f off)

/-- The outcome of a load's first part that fails its checks; none: all pass. -/
def firstBadPart (s : State) (f : Fn) (a : Access) (ps : List LoadPart) : Option Chk := ps.findSome? fun p => match checkAt s f a p.off p.size with
  | .ok _ => none
  | c => some c

/-- The outcome of an access's checks: of a load, .ok when every part passes; of a CTAG, that of the granule it comes to next (R162). -/
def checkAccess (s : State) (f : Fn) (a : Access) : Chk := match a.kind with
  | .load ps => (firstBadPart s f a ps).getD (checkAt s f a a.off a.size)
  | .tag .. => checkAt s f a a.off 32
  | _ => checkAt s f a a.off a.size

/-- An outcome of R216's checks that is a fault. -/
def Chk.fails : Chk → Bool
  | .fail .. => true
  | _ => false

/-- The faults that an access will meet as things stand: the lanes of one sector park together where they fail alike (R219). -/
def Access.faults (s : State) (f : Fn) (a : Access) : Nat := match a.kind with
  | .load ps => ((ps.map fun p => checkAt s f a p.off p.size).filter (·.fails)).eraseDups.length
  | _ => if (checkAccess s f a).fails then 1 else 0

/-- Loads and returning atomics as they leave the core: counter 9 counts the faults that their issue causes (R388). -/
def foresee (s : State) (f : Fn) (as : List Access) : List Access := as.map fun a => { a with foreseen := a.faults s f }

end Sys2Proof.Machine
end

