-- ==== Sys2Proof/Machine/Groups.lean ====
section
/-! DEFINITION. Group slots, reform bins and regrouping (05_control R99 to R107, R116, R418). -/
namespace Sys2Proof.Machine

/-! ### What stands on a core -/

/-- The gang of a team stands on its quad: it has not been saved away (R412). -/
def standing (s : State) (tk : Nat) : Bool := match s.gangs.find (gangOfTeam tk) with
  | some g => g.status == .resident || g.status == .quiescing
  | none => false

/-- A gang has its places on its quad: it stands there, or they are kept for it (R412, R432). -/
def Gang.occupies (g : Gang) : Bool := g.status == .resident || g.status == .quiescing || g.kept

/-- A team has its place on a core. -/
def teamOn (s : State) (core tk : Nat) (t : Team) : Bool := t.core == core && (s.gangs.find (gangOfTeam tk)).any (·.occupies)

/-- The teams that have their places on a core. -/
def teamsOn (s : State) (core : Nat) : List (Nat × Team) := s.teams.filter fun p => teamOn s core p.1 p.2

/-- The groups that hold a slot of a core. -/
def groupsOn (s : State) (core : Nat) : List (Nat × Group) :=
  let tks := (teamsOn s core).map (·.1)
  s.groups.filter fun p => tks.contains (teamOfGroup p.1)

/-- The lowest-numbered free group slot of a core (R99). -/
def freeSlot (s : State) (core : Nat) : Option Nat :=
  let used := (groupsOn s core).map fun p => p.1 % 64
  (List.range 64).find? fun n => !used.contains n

/-- The occupied bins of a core, with their teams. -/
def binsOn (s : State) (core : Nat) : List (Nat × Bin) := (teamsOn s core).flatMap fun p => p.2.bins.map fun b => (p.1, b)

/-- A team's gang is in service. -/
def teamServed (s : State) (tk : Nat) : Bool := (s.gangs.find (gangOfTeam tk)).any fun g => g.inService

/-- The entry of a function's decode table for a key (R95). -/
def tableEntry (f : Fn) (k : Nat) : Nat := (f.table.find k).getD (resetEntry k)

/-- The operation that a word names in a function: that of its decode-table entry (R95). -/
def opKey (f : Fn) (w : Nat) : Nat := tableEntry f (keyOf w) % 2048

/-- The launch of a team is deterministic. -/
def isDet (s : State) (tk : Nat) : Bool := match s.launches.find (launchOfGang (gangOfTeam tk)) with
  | some l => l.det
  | none => false

/-- The bins of a core's teams in service, with their teams, that are or are not of deterministic launches. -/
def liveBins (s : State) (core : Nat) (det : Bool) : List (Nat × Bin) :=
  (binsOn s core).filter fun p => teamServed s p.1 && isDet s p.1 == det

/-- The lowest logical rank a bin of a team holds (R16). -/
def binRank (tk : Nat) (b : Bin) : Nat := rankOf tk (b.threads.foldl min 2047)

/-- A bin stands before another: by age, then by the lowest rank held (R106). Equal ranks are of different gangs: the first in the tables, DESIGN
CHOICE (log 15). -/
def olderBin (x y : Nat × Bin) : Bool :=
  decide (y.2.age < x.2.age) || (x.2.age == y.2.age && decide (binRank x.1 x.2 ≤ binRank y.1 y.2))

/-- A core's bin of greatest age, ties by the lowest rank held (R106). -/
def oldestOf : List (Nat × Bin) → Option (Nat × Bin)
  | [] => none
  | x :: t => match oldestOf t with
    | none => some x
    | some y => if olderBin x y then some x else some y

/-- Insert in ascending order. -/
def insertNat (n : Nat) : List Nat → List Nat
  | [] => [n]
  | m :: t => if n ≤ m then n :: m :: t else m :: insertNat n t
/-- Ascending order (R100). -/
def sortNat (l : List Nat) : List Nat := l.foldr insertNat []

/-! ### Forming and filing -/

/-- A group of some threads at a PC in a slot. -/
def State.putGroup (s : State) (tk slot pc : Nat) (lanes : List Nat) (st : GStatus) : State :=
  { s with
    groups := s.groups.put (groupKey tk slot) ⟨sortNat lanes, pc, st, none, [], [], [], s.nextId, 0, none, false⟩
    threads := s.threads.mapVals fun k t => if (lanes.map (threadKey tk)).contains k then { t with status := .grouped } else t
    nextId := s.nextId + 1 }

/-- One group formation (R106): the bin b of team tk becomes a group, which issues first in its next cycle (R103). none: no free slot. -/
def formBin (s : State) (tk : Nat) (b : Bin) : Option State :=
  match s.teams.find tk with
  | none => none
  | some t => match freeSlot s t.core with
    | none => none
    | some slot =>
      let s := s.setTeam tk fun t => { t with bins := t.bins.filter fun x => x.seq != b.seq }
      let s := s.setGang (gangOfTeam tk) (·.count 7 1)
      let s := { s.putGroup tk slot b.pc b.threads .ready with formedAt := sset 0 s.formedAt t.core (s.now + 1) }
      some (s.setGroup (groupKey tk slot) fun g => { g with fresh := some s.now })

/-- Put a thread into a bin of its team by key, or into a new bin. In a deterministic launch a bin holds one wave's threads, and one that is
being formed takes no more (R418). -/
def addToBin (bs : List Bin) (det : Bool) (t pc : Nat) (code : Cap) (age lim seq : Nat) : Option (List Bin) :=
  match bs.find? fun b => b.pc == pc && b.code == code && decide (b.threads.length < 32)
      && (!det || (!b.eligible && b.threads.all fun u => u / 32 == t / 32)) with
  | some b => some (bs.map fun x => if x.seq = b.seq then
      { x with threads := x.threads ++ [t], eligible := x.eligible || decide (x.threads.length + 1 ≥ 32) } else x)
  | none => if age < lim then some (bs ++ [⟨pc, code, [t], 0, seq, false⟩]) else none

/-- file_bin of R27 for thread t of team tk with its next PC. Where no bin is free, a thread of a deterministic launch waits, and any other forces the
formation of the core's oldest bin that is in service and of no deterministic launch (R418); forced formations come on top of the one a core
cycle (DESIGN CHOICE, log 15). none: it must wait for a bin or a group slot. -/
def fileBin (s : State) (tk t pc : Nat) : Option State :=
  match s.teams.find tk with
  | none => none
  | some team =>
    let det := isDet s tk
    let code := (s.wave (waveKey tk (t / 32))).getC 31
    let put (s : State) (bs : List Bin) : State :=
      { s.setTeam tk (fun x => { x with bins := bs }) with
        threads := s.threads.put (threadKey tk t) { s.thread (threadKey tk t) with status := .filed }
        nextId := s.nextId + 1 }
    match addToBin team.bins det t pc code (binsOn s team.core).length 64 s.nextId with
    | some bs => some (put s bs)
    | none => if det then none else match oldestOf (liveBins s team.core false) with
      | none => none
      | some (otk, b) => match formBin s otk b with
        | none => none
        | some s2 => match addToBin (((s2.teams.find tk).map (·.bins)).getD []) det t pc code 0 64 s2.nextId with
          | some bs => some (put s2 bs)
          | none => none

/-- File threads in order, each with its next PC. -/
def fileAll (s : State) (tk : Nat) : List (Nat × Nat) → Option State
  | [] => some s
  | (t, pc) :: r => (fileBin s tk t pc).bind fun s => fileAll s tk r

/-- Free a group's slot. -/
def State.freeGroup (s : State) (gkey : Nat) : State := { s with groups := s.groups.del gkey }

/-- The group waits to file its threads: there is neither a bin nor a slot for them (R107, log 15). -/
def State.setStuck (s : State) (gkey : Nat) : State := s.setGroup gkey fun g => { g with stuck := true }

/-- The group dissolves (R102): its slot is freed, then every thread is filed. -/
def dissolve (s : State) (gkey : Nat) (nexts : List (Nat × Nat)) : Option State :=
  fileAll (s.freeGroup gkey) (teamOfGroup gkey) nexts

/-- Set the place of a group that continues whole. -/
def State.goto (s : State) (gkey pc : Nat) : State :=
  s.setGroup gkey fun g => { g with pc := pc, status := .ready, acted := [] }

/-- All elements are equal to the first. -/
def allSame {α : Type} [DecidableEq α] : List α → Bool
  | [] => true
  | x :: t => t.all fun y => decide (y = x)

end Sys2Proof.Machine
end

