-- ==== Sys2Proof/Machine/LaneInt.lean ====
section
/-! DEFINITION. Lane integer, compare and predicate instructions (07_lane_integer R164 to R180). -/
namespace Sys2Proof.Machine

/-! ### Shapes -/

/-- A field written with S clear (R166). -/
def Image.int (f : W32) : Image := ⟨f, false⟩

/-- An instruction that writes register d of each selected lane from what it reads; lits: its literal words. -/
def vIss (lits d : Nat) (reads : List Nat) (f : Ctx → Lane → Image × Flags5) : Iss where
  lits := lits
  names := vNames (d :: reads)
  eff := fun c s => .done (eachLane c s fun l => let r := f c l; ⟨l.th.setV (c.reg l d) r.1, r.2⟩)

/-- Three registers, an integer result (R168). -/
def v3 (d a b : Nat) (f : W32 → W32 → W32) : Iss := vIss 0 d [a, b] fun c l => (.int (f (c.src l a).f (c.src l b).f), 0)

/-- Three registers of which vd is also a source. -/
def v3d (d a b : Nat) (f : W32 → W32 → W32 → W32) : Iss :=
  vIss 0 d [a, b] fun c l => (.int (f (c.src l d).f (c.src l a).f (c.src l b).f), 0)

/-- A result clamped to lo to hi: S records whether the clamp acted (R169). -/
def clamp32 (x lo hi : Int) : Image :=
  let y := min (max x lo) hi
  ⟨BitVec.ofInt 32 y, decide (y ≠ x)⟩

/-- A saturating signed result. -/
def satI (x : Int) : Image := clamp32 x (-2147483648) 2147483647
/-- A saturating unsigned result. -/
def satN (x : Int) : Image := clamp32 x 0 4294967295

/-- Three registers, a saturating result. -/
def v3s (d a b : Nat) (f : W32 → W32 → Image) : Iss := vIss 0 d [a, b] fun c l => (f (c.src l a).f (c.src l b).f, 0)

/-- One source register (R170). -/
def v2 (d a : Nat) (f : Image → Image) : Iss := vIss 0 d [a] fun c l => (f (c.src l a), 0)

/-- A register and a constant (R175). -/
def vi (lits d a : Nat) (f : W32 → W32) : Iss := vIss lits d [a] fun c l => (.int (f (c.src l a).f), 0)

/-- An instruction that writes predicate p of each selected lane. -/
def pIss (p : Nat) (readsV readsP : List Nat) (f : Ctx → Lane → Bool) : Iss where
  names := fun c => vNames readsV c ++ pNames (p :: readsP) c
  eff := fun c s => .done (eachLane c s fun l => ⟨l.th.setP p (f c l), 0⟩)

/-! ### Operations -/

/-- The high half of the signed product. -/
def mulHiI (a b : W32) : W32 := BitVec.ofInt 32 (a.toInt * b.toInt / 4294967296)
/-- The high half of the unsigned product. -/
def mulHiN (a b : W32) : W32 := BitVec.ofNat 32 (a.toNat * b.toNat / 4294967296)
/-- A shift count b[4:0]. -/
def cnt5 (b : W32) : Nat := b.toNat % 32
/-- The number of set bits. -/
def popc (n : Nat) : Nat → Nat
  | 0 => 0
  | k + 1 => (if bit n k then 1 else 0) + popc n k
/-- The number of leading zero bits of a k-bit number. -/
def clz (n k : Nat) : Nat := if n = 0 then k else k - 1 - log2n n

/-- VBFX (R171): the field of a that b describes. -/
def bitFieldX (a b : W32) : W32 :=
  let pos := b.toNat % 32
  let w := min (fld b.toNat 8 5) (32 - pos)
  let f := a.toNat / 2 ^ pos % 2 ^ w
  BitVec.ofNat 32 (if bit b.toNat 16 && decide (0 < w) && bit f (w - 1) then f + (4294967296 - 2 ^ w) else f)

/-- VBFI (R171): old with the field that b describes replaced by the low bits of a. -/
def bitFieldI (old a b : W32) : W32 :=
  let pos := b.toNat % 32
  let w := min (fld b.toNat 8 5) (32 - pos)
  let m : W32 := BitVec.ofNat 32 ((2 ^ w - 1) * 2 ^ pos)
  (old &&& ~~~m) ||| ((a <<< pos) &&& m)

/-- Byte k of a field, as a signed or an unsigned number. -/
def byteI (a : W32) (k : Nat) : Int := sextN 8 (fld a.toNat (8 * k) 8)
def byteN (a : W32) (k : Nat) : Int := (fld a.toNat (8 * k) 8 : Nat)

/-- Four byte products added to acc (R172). -/
def dot4 (g : W32 → Nat → Int) (acc a b : W32) : W32 :=
  acc + BitVec.ofInt 32 (g a 0 * g b 0 + g a 1 * g b 1 + g a 2 * g b 2 + g a 3 * g b 3)

/-- A condition on an order (R176, R177): cc 0 to 7 are EQ, NE, LT, LE, GT, GE, UN, OR. -/
def ccHolds (cc : Nat) (o : Option Ordering) : Bool := match o with
  | none => cc == 1 || cc == 6
  | some o => match cc with
    | 0 => o == .eq
    | 1 => o != .eq
    | 2 => o == .lt
    | 3 => o != .gt
    | 4 => o == .gt
    | 5 => o != .lt
    | 7 => true
    | _ => false

/-- Compare two exact values (R177): none when either is a NaN; -0 equals +0. -/
def cmpF : FVal → FVal → Option Ordering
  | .nan, _ => none
  | _, .nan => none
  | .inf a, .inf b => some (compare b.toNat a.toNat)
  | .inf a, .fin .. => some (if a then .lt else .gt)
  | .fin .., .inf b => some (if b then .gt else .lt)
  | .fin a m e, .fin b n g =>
    let q := min e g
    some (compare (sumUnits q [.fin a m e]) (sumUnits q [.fin b n g]))

/-- FCMP.x orders only two values known exactly (R177). -/
def cmpX (a b : Image) : Option Ordering := if a.s || b.s then none else cmpF (val32 a.f) (val32 b.f)

/-- PLOG's and QLOG's operations (R178, R150): 0 to 7 are AND, OR, XOR, ANDN, ORN, NAND, NOR, XNOR. -/
def logOp (op : Nat) (a b : Bool) : Bool := match op with
  | 0 => a && b
  | 1 => a || b
  | 2 => a ^^ b
  | 3 => a && !b
  | 4 => a || !b
  | 5 => !(a && b)
  | 6 => !(a || b)
  | _ => !(a ^^ b)

/-- The value VID's selector gives (R174). -/
def vidValue (c : Ctx) (l : Lane) (sel : Nat) : Nat := match sel with
  | 0 => l.vl
  | 1 => l.t
  | 2 => l.t % 32
  | 3 => l.t / 32
  | 4 => c.tk % 4
  | 5 => if l.pathB then 1 else 0
  | _ => rankOf c.tk l.t

/-! ### Meanings -/

/-- VADD (R168). -/
def issVadd (d a b : Nat) : Iss := v3 d a b fun x y => x + y
/-- Vadd, issued. -/
def execVadd (d a b : Nat) (s : State) : Out := issue (issVadd d a b) s

/-- VSUB (R168). -/
def issVsub (d a b : Nat) : Iss := v3 d a b fun x y => x - y
/-- Vsub, issued. -/
def execVsub (d a b : Nat) (s : State) : Out := issue (issVsub d a b) s

/-- VMUL (R168). -/
def issVmul (d a b : Nat) : Iss := v3 d a b fun x y => x * y
/-- Vmul, issued. -/
def execVmul (d a b : Nat) (s : State) : Out := issue (issVmul d a b) s

/-- VMULH.i32 (R168). -/
def issVmulhI32 (d a b : Nat) : Iss := v3 d a b mulHiI
/-- VmulhI32, issued. -/
def execVmulhI32 (d a b : Nat) (s : State) : Out := issue (issVmulhI32 d a b) s

/-- VMULH.n32 (R168). -/
def issVmulhN32 (d a b : Nat) : Iss := v3 d a b mulHiN
/-- VmulhN32, issued. -/
def execVmulhN32 (d a b : Nat) (s : State) : Out := issue (issVmulhN32 d a b) s

/-- VMAD (R168): vd is read before it is written. -/
def issVmad (d a b : Nat) : Iss := v3d d a b fun z x y => z + x * y
/-- Vmad, issued. -/
def execVmad (d a b : Nat) (s : State) : Out := issue (issVmad d a b) s

/-- VADDS.i32 (R169). -/
def issVaddsI32 (d a b : Nat) : Iss := v3s d a b fun x y => satI (x.toInt + y.toInt)
/-- VaddsI32, issued. -/
def execVaddsI32 (d a b : Nat) (s : State) : Out := issue (issVaddsI32 d a b) s

/-- VSUBS.i32 (R169). -/
def issVsubsI32 (d a b : Nat) : Iss := v3s d a b fun x y => satI (x.toInt - y.toInt)
/-- VsubsI32, issued. -/
def execVsubsI32 (d a b : Nat) (s : State) : Out := issue (issVsubsI32 d a b) s

/-- VADDS.n32 (R169). -/
def issVaddsN32 (d a b : Nat) : Iss := v3s d a b fun x y => satN ((x.toNat : Int) + y.toNat)
/-- VaddsN32, issued. -/
def execVaddsN32 (d a b : Nat) (s : State) : Out := issue (issVaddsN32 d a b) s

/-- VSUBS.n32 (R169). -/
def issVsubsN32 (d a b : Nat) : Iss := v3s d a b fun x y => satN ((x.toNat : Int) - y.toNat)
/-- VsubsN32, issued. -/
def execVsubsN32 (d a b : Nat) (s : State) : Out := issue (issVsubsN32 d a b) s

/-- VAND (R168). -/
def issVand (d a b : Nat) : Iss := v3 d a b fun x y => x &&& y
/-- Vand, issued. -/
def execVand (d a b : Nat) (s : State) : Out := issue (issVand d a b) s

/-- VOR (R168). -/
def issVor (d a b : Nat) : Iss := v3 d a b fun x y => x ||| y
/-- Vor, issued. -/
def execVor (d a b : Nat) (s : State) : Out := issue (issVor d a b) s

/-- VXOR (R168). -/
def issVxor (d a b : Nat) : Iss := v3 d a b fun x y => x ^^^ y
/-- Vxor, issued. -/
def execVxor (d a b : Nat) (s : State) : Out := issue (issVxor d a b) s

/-- VANDN (R168). -/
def issVandn (d a b : Nat) : Iss := v3 d a b fun x y => x &&& ~~~y
/-- Vandn, issued. -/
def execVandn (d a b : Nat) (s : State) : Out := issue (issVandn d a b) s

/-- VSHL (R168). -/
def issVshl (d a b : Nat) : Iss := v3 d a b fun x y => x <<< cnt5 y
/-- Vshl, issued. -/
def execVshl (d a b : Nat) (s : State) : Out := issue (issVshl d a b) s

/-- VSHR.n32 (R168). -/
def issVshrN32 (d a b : Nat) : Iss := v3 d a b fun x y => x >>> cnt5 y
/-- VshrN32, issued. -/
def execVshrN32 (d a b : Nat) (s : State) : Out := issue (issVshrN32 d a b) s

/-- VSHR.i32 (R168). -/
def issVshrI32 (d a b : Nat) : Iss := v3 d a b fun x y => x.sshiftRight (cnt5 y)
/-- VshrI32, issued. -/
def execVshrI32 (d a b : Nat) (s : State) : Out := issue (issVshrI32 d a b) s

/-- VMIN.i32 (R168). -/
def issVminI32 (d a b : Nat) : Iss := v3 d a b fun x y => if x.slt y then x else y
/-- VminI32, issued. -/
def execVminI32 (d a b : Nat) (s : State) : Out := issue (issVminI32 d a b) s

/-- VMIN.n32 (R168). -/
def issVminN32 (d a b : Nat) : Iss := v3 d a b fun x y => if x.ult y then x else y
/-- VminN32, issued. -/
def execVminN32 (d a b : Nat) (s : State) : Out := issue (issVminN32 d a b) s

/-- VMAX.i32 (R168). -/
def issVmaxI32 (d a b : Nat) : Iss := v3 d a b fun x y => if x.slt y then y else x
/-- VmaxI32, issued. -/
def execVmaxI32 (d a b : Nat) (s : State) : Out := issue (issVmaxI32 d a b) s

/-- VMAX.n32 (R168). -/
def issVmaxN32 (d a b : Nat) : Iss := v3 d a b fun x y => if x.ult y then y else x
/-- VmaxN32, issued. -/
def execVmaxN32 (d a b : Nat) (s : State) : Out := issue (issVmaxN32 d a b) s

/-- VABS.i32 (R170). -/
def issVabsI32 (d a : Nat) : Iss := v2 d a fun x => satI (if x.f.toInt < 0 then -x.f.toInt else x.f.toInt)
/-- VabsI32, issued. -/
def execVabsI32 (d a : Nat) (s : State) : Out := issue (issVabsI32 d a) s

/-- VPOPC (R170). -/
def issVpopc (d a : Nat) : Iss := v2 d a fun x => .int (BitVec.ofNat 32 (popc x.f.toNat 32))
/-- Vpopc, issued. -/
def execVpopc (d a : Nat) (s : State) : Out := issue (issVpopc d a) s

/-- VCLZ (R170). -/
def issVclz (d a : Nat) : Iss := v2 d a fun x => .int (BitVec.ofNat 32 (clz x.f.toNat 32))
/-- Vclz, issued. -/
def execVclz (d a : Nat) (s : State) : Out := issue (issVclz d a) s

/-- VBFX (R171). -/
def issVbfx (d a b : Nat) : Iss := v3 d a b bitFieldX
/-- Vbfx, issued. -/
def execVbfx (d a b : Nat) (s : State) : Out := issue (issVbfx d a b) s

/-- VBFI (R171). -/
def issVbfi (d a b : Nat) : Iss := v3d d a b bitFieldI
/-- Vbfi, issued. -/
def execVbfi (d a b : Nat) (s : State) : Out := issue (issVbfi d a b) s

/-- VDOT4.i8 (R172). -/
def issVdot4I8 (d a b : Nat) : Iss := v3d d a b (dot4 byteI)
/-- Vdot4I8, issued. -/
def execVdot4I8 (d a b : Nat) (s : State) : Out := issue (issVdot4I8 d a b) s

/-- VDOT4.n8 (R172). -/
def issVdot4N8 (d a b : Nat) : Iss := v3d d a b (dot4 byteN)
/-- Vdot4N8, issued. -/
def execVdot4N8 (d a b : Nat) (s : State) : Out := issue (issVdot4N8 d a b) s

/-- VMOV (R170): the whole image. -/
def issVmov (d a : Nat) : Iss := v2 d a fun x => x
/-- Vmov, issued. -/
def execVmov (d a : Nat) (s : State) : Out := issue (issVmov d a) s

/-- VMOVS (R173): half h of s_a of each lane's wave-of-origin. -/
def issVmovs (d a h : Nat) : Iss :=
  { vIss 0 d [] (fun _ l => (.int (BitVec.ofNat 32 ((l.wv.getS a).toNat / 4294967296 ^ h)), 0)) with
    names := fun c => vNames [d] c ++ sNames [a] c }
/-- Vmovs, issued. -/
def execVmovs (d a h : Nat) (s : State) : Out := issue (issVmovs d a h) s

/-- VID (R174). -/
def issVid (d sel : Nat) : Iss := vIss 0 d [] fun c l => (.int (BitVec.ofNat 32 (vidValue c l sel)), 0)
/-- Vid, issued. -/
def execVid (d sel : Nat) (s : State) : Out := issue (issVid d sel) s

/-- VADDI (R175). -/
def issVaddi (d a i : Nat) : Iss := vi 0 d a fun x => x + imm7 i
/-- Vaddi, issued. -/
def execVaddi (d a i : Nat) (s : State) : Out := issue (issVaddi d a i) s

/-- VADDI with a literal word (R175). -/
def issVaddiTwin (d a w : Nat) : Iss := vi 1 d a fun x => x + BitVec.ofNat 32 w
/-- VaddiTwin, issued. -/
def execVaddiTwin (d a w : Nat) (s : State) : Out := issue (issVaddiTwin d a w) s

/-- VSHLI (R175). -/
def issVshli (d a i : Nat) : Iss := vi 0 d a fun x => x <<< i
/-- Vshli, issued. -/
def execVshli (d a i : Nat) (s : State) : Out := issue (issVshli d a i) s

/-- VSHRI.n32 (R175). -/
def issVshriN32 (d a i : Nat) : Iss := vi 0 d a fun x => x >>> i
/-- VshriN32, issued. -/
def execVshriN32 (d a i : Nat) (s : State) : Out := issue (issVshriN32 d a i) s

/-- VSHRI.i32 (R175). -/
def issVshriI32 (d a i : Nat) : Iss := vi 0 d a fun x => x.sshiftRight i
/-- VshriI32, issued. -/
def execVshriI32 (d a i : Nat) (s : State) : Out := issue (issVshriI32 d a i) s

/-- VANDI (R175). -/
def issVandi (d a i : Nat) : Iss := vi 0 d a fun x => x &&& imm7 i
/-- Vandi, issued. -/
def execVandi (d a i : Nat) (s : State) : Out := issue (issVandi d a i) s

/-- VANDI with a literal word (R175). -/
def issVandiTwin (d a w : Nat) : Iss := vi 1 d a fun x => x &&& BitVec.ofNat 32 w
/-- VandiTwin, issued. -/
def execVandiTwin (d a w : Nat) (s : State) : Out := issue (issVandiTwin d a w) s

/-- VLI (R175). -/
def issVli (d i : Nat) : Iss := vIss 0 d [] fun _ _ => (.int (imm7 i), 0)
/-- Vli, issued. -/
def execVli (d i : Nat) (s : State) : Out := issue (issVli d i) s

/-- VLI with a literal word (R175). -/
def issVliTwin (d w : Nat) : Iss := vIss 1 d [] fun _ _ => (.int (BitVec.ofNat 32 w), 0)
/-- VliTwin, issued. -/
def execVliTwin (d w : Nat) (s : State) : Out := issue (issVliTwin d w) s

/-- ICMP.i32 (R176). -/
def issIcmpI32 (p cc a b : Nat) : Iss := pIss p [a, b] [] fun c l => ccHolds cc (some (compare (c.src l a).f.toInt (c.src l b).f.toInt))
/-- IcmpI32, issued. -/
def execIcmpI32 (p cc a b : Nat) (s : State) : Out := issue (issIcmpI32 p cc a b) s

/-- ICMP.n32 (R176). -/
def issIcmpN32 (p cc a b : Nat) : Iss := pIss p [a, b] [] fun c l => ccHolds cc (some (compare (c.src l a).f.toNat (c.src l b).f.toNat))
/-- IcmpN32, issued. -/
def execIcmpN32 (p cc a b : Nat) (s : State) : Out := issue (issIcmpN32 p cc a b) s

/-- FCMP.f32 (R177). -/
def issFcmpF32 (p cc a b : Nat) : Iss := pIss p [a, b] [] fun c l => ccHolds cc (cmpF (val32 (c.src l a).f) (val32 (c.src l b).f))
/-- FcmpF32, issued. -/
def execFcmpF32 (p cc a b : Nat) (s : State) : Out := issue (issFcmpF32 p cc a b) s

/-- FCMP.x (R177). -/
def issFcmpX (p cc a b : Nat) : Iss := pIss p [a, b] [] fun c l => ccHolds cc (cmpX (c.src l a) (c.src l b))
/-- FcmpX, issued. -/
def execFcmpX (p cc a b : Nat) (s : State) : Out := issue (issFcmpX p cc a b) s

/-- PLOG (R178). -/
def issPlog (p o a b : Nat) : Iss := pIss p [] [a, b] fun _ l => logOp o (l.th.getP a) (l.th.getP b)
/-- Plog, issued. -/
def execPlog (p o a b : Nat) (s : State) : Out := issue (issPlog p o a b) s

/-- VTOP (R179). -/
def issVtop (p a : Nat) : Iss := pIss p [a] [] fun c l => decide ((c.src l a).f ≠ 0)
/-- Vtop, issued. -/
def execVtop (p a : Nat) (s : State) : Out := issue (issVtop p a) s

/-- VFROMP (R179). -/
def issVfromp (d b : Nat) : Iss := { vIss 0 d [] (fun _ l => (.int (if l.th.getP b then 1 else 0), 0)) with names := fun c => vNames [d] c ++ pNames [b] c }
/-- Vfromp, issued. -/
def execVfromp (d b : Nat) (s : State) : Out := issue (issVfromp d b) s

/-- VSEL (R180): the image of va where p_k is set, else that of vb. -/
def issVsel (k d a b : Nat) : Iss :=
  { vIss 0 d [a, b] (fun c l => (if l.th.getP k then c.src l a else c.src l b, 0)) with
    names := fun c => vNames [d, a, b] c ++ pNames [k] c }
/-- Vsel, issued. -/
def execVsel (k d a b : Nat) (s : State) : Out := issue (issVsel k d a b) s

end Sys2Proof.Machine
end

