-- ==== Sys2Proof/Machine/CrossLane.lean ====
section
/-! DEFINITION. The cross-lane unit (07_lane_integer R181 to R188). Sources of every active lane are read before any lane is written. -/
namespace Sys2Proof.Machine

/-! ### Shuffles (R182, R183) -/

/-- The active lane that stands in virtual lane n. -/
def laneAt (c : Ctx) (n : Nat) : Option Lane := c.lanes.find? fun l => l.vl == n
/-- The active lane of the thread with index n. -/
def laneOfIndex (c : Ctx) (n : Nat) : Option Lane := c.lanes.find? fun l => l.t == n

/-- A shuffle: each lane takes va of its source thread and sets p7, or falls back to its own and clears p7 (R182). -/
def shuffle (d a : Nat) (reads : List Nat) (src : Ctx → Lane → Option Lane) : Iss where
  names := fun c => vNames (d :: a :: reads) c ++ pNames [7] c
  eff := fun c s => .done (eachLane c s fun l => match src c l with
    | some t => ⟨(l.th.setV (c.reg l d) (c.src t a)).setP 7 true, 0⟩
    | none => ⟨(l.th.setV (c.reg l d) (c.src l a)).setP 7 false, 0⟩)

/-- VSHFL (R183). -/
def issVshfl (d a b : Nat) : Iss := shuffle d a [b] fun c l => laneAt c (cnt5 (c.src l b).f)
/-- Vshfl, issued. -/
def execVshfl (d a b : Nat) (s : State) : Out := issue (issVshfl d a b) s

/-- VSHFLX (R183). -/
def issVshflx (d a b : Nat) : Iss := shuffle d a [b] fun c l => laneAt c (l.vl ^^^ cnt5 (c.src l b).f)
/-- Vshflx, issued. -/
def execVshflx (d a b : Nat) (s : State) : Out := issue (issVshflx d a b) s

/-- VSHFLL (R183): by thread index; an index of 2,048 or more names no thread. -/
def issVshfll (d a b : Nat) : Iss := shuffle d a [b] fun c l => laneOfIndex c (c.src l b).f.toNat
/-- Vshfll, issued. -/
def execVshfll (d a b : Nat) (s : State) : Out := issue (issVshfll d a b) s

/-- VBCAST (R183). -/
def issVbcast (d a n : Nat) : Iss := shuffle d a [] fun c _ => laneAt c n
/-- Vbcast, issued. -/
def execVbcast (d a n : Nat) (s : State) : Out := issue (issVbcast d a n) s

/-! ### Scans and sums (R184) -/

/-- The inclusive integer prefix sums from y. -/
def scanI (y : W32) : List W32 → List W32
  | [] => []
  | x :: t => (y + x) :: scanI (y + x) t

/-- The inclusive FP32 prefix sums from y with S so far; each addition rounds by the mode of the lane whose term it takes in. -/
def scanF (y : W32) (st : Bool) : List (W32 × RMode) → List FRes
  | [] => []
  | (x, m) :: t =>
    let r := fadd32 y x m
    let r' : FRes := { r with s := st || r.s }
    r' :: scanF r'.f r'.s t

/-- The integer sums of the lanes, in rank order. -/
def laneSumsI (c : Ctx) (a : Nat) : List W32 := scanI 0 (c.lanes.map fun l => (c.src l a).f)

/-- The FP32 sums of the lanes: the first is the first lane's field itself. -/
def laneSumsF (c : Ctx) (a : Nat) : List FRes := match c.lanes with
  | [] => []
  | l :: t => ⟨(c.src l a).f, false, 0⟩ :: scanF (c.src l a).f false (t.map fun k => ((c.src k a).f, armOf k.wv.mode))

/-- An instruction that writes register d of each selected lane, the lanes' results given in order. -/
def vListIss (d a : Nat) (f : Ctx → List (Image × Flags5)) : Iss where
  names := vNames [d, a]
  eff := fun c s => .done (s.putLanes ((c.lanes.zip (f c)).map fun p => (p.1, ⟨p.1.th.setV (c.reg p.1 d) p.2.1, p.2.2⟩)))

/-- VSCAN.i32 (R184). -/
def issVscanI32 (d a : Nat) : Iss := vListIss d a fun c => (laneSumsI c a).map fun y => (.int y, 0)
/-- VscanI32, issued. -/
def execVscanI32 (d a : Nat) (s : State) : Out := issue (issVscanI32 d a) s

/-- VSCAN.f32 (R184): a rounding's flags go to the wave of the lane it reaches. -/
def issVscanF32 (d a : Nat) : Iss := vListIss d a fun c => (laneSumsF c a).map fun r => (⟨r.f, r.s⟩, r.fl)
/-- VscanF32, issued. -/
def execVscanF32 (d a : Nat) (s : State) : Out := issue (issVscanF32 d a) s

/-- VRED.i32 (R184). -/
def issVredI32 (d a : Nat) : Iss := vIss 0 d [a] fun c _ => (.int ((laneSumsI c a).getLastD 0), 0)
/-- VredI32, issued. -/
def execVredI32 (d a : Nat) (s : State) : Out := issue (issVredI32 d a) s

/-- The flags of all roundings together. -/
def allFlags (rs : List FRes) : Flags5 := rs.foldl (fun f r => f ||| r.fl) 0

/-- VRED.f32 (R184): the last sum to every lane, every rounding's flags to every lane's wave. -/
def issVredF32 (d a : Nat) : Iss :=
  vIss 0 d [a] fun c _ =>
    let rs := laneSumsF c a
    let r := rs.getLastD ⟨0, false, 0⟩
    (⟨r.f, r.s⟩, allFlags rs)
/-- VredF32, issued. -/
def execVredF32 (d a : Nat) (s : State) : Out := issue (issVredF32 d a) s

/-! ### Extremes (R185) -/

/-- x is before y in the order -∞ < … < -0 < +0 < … < +∞ of R185 and R194 (neither a NaN). -/
def totalLt (x y : W32) : Bool := match cmpF (val32 x) (val32 y) with
  | some .lt => true
  | some .eq => x.msb && !y.msb
  | _ => false

/-- The first image among those given that no other beats. -/
def firstBest (beats : W32 → W32 → Bool) : List Image → Image → Image
  | [], b => b
  | x :: t, b => firstBest beats t (if beats x.f b.f then x else b)

/-- VREDMAX and VREDMIN: the canonical NaN if there is a NaN, else the lowest-ranked best image. -/
def extreme (beats : W32 → W32 → Bool) (xs : List Image) : Image :=
  if xs.any fun x => isNaN32 x.f then ⟨nanF32, false⟩ else match xs with
    | [] => Image.zero
    | x :: t => firstBest beats t x

/-- VREDMAX.f32 (R185). -/
def issVredmax (d a : Nat) : Iss := vIss 0 d [a] fun c _ => (extreme (fun x y => totalLt y x) (c.lanes.map fun l => c.src l a), 0)
/-- Vredmax, issued. -/
def execVredmax (d a : Nat) (s : State) : Out := issue (issVredmax d a) s

/-- VREDMIN.f32 (R185). -/
def issVredmin (d a : Nat) : Iss := vIss 0 d [a] fun c _ => (extreme totalLt (c.lanes.map fun l => c.src l a), 0)
/-- Vredmin, issued. -/
def execVredmin (d a : Nat) (s : State) : Out := issue (issVredmin d a) s

/-! ### Votes, ballots, counts (R186 to R188) -/

/-- The vote of mode m (0 any, 1 all, 2 same) over predicates. -/
def vote (m : Nat) (ps : List Bool) : Bool := match m with
  | 0 => ps.any id
  | 1 => ps.all id
  | _ => ps.all id || ps.all not

/-- VVOTE (R186): each subset votes over its own active lanes. A subset of which the mask selects no lane writes no q_d: DESIGN CHOICE, the rule
says every subset and R130 settles the case for uniform instructions only (log 31). -/
def issVvote (d a m : Nat) : Iss :=
  { names := pNames [a]
    eff := fun c s => .done (eachSub c s fun w => w.wv.setQ d (vote m (w.lanes.map fun l => l.th.getP a))) }
/-- Vvote, issued. -/
def execVvote (d a m : Nat) (s : State) : Out := issue (issVvote d a m) s

/-- The mask with a bit for each lane whose predicate a is set. -/
def ballot (ls : List Lane) (a : Nat) (pos : Lane → Nat) : Nat :=
  ((ls.filter fun l => l.th.getP a).map fun l => 2 ^ pos l).sum

/-- VBALLOT (R187). As with VVOTE, a subset of which the mask selects no lane writes no s_d: DESIGN CHOICE (log 31). -/
def issVballot (d a m : Nat) : Iss :=
  { names := fun c => sNames [d] c ++ pNames [a] c
    eff := fun c s => .done (eachSub c s fun w => w.wv.setS d (BitVec.ofNat 64
      (if m = 0 then ballot w.lanes a (fun l => l.t % 32) else ballot c.lanes a (fun l => l.vl)))) }
/-- Vballot, issued. -/
def execVballot (d a m : Nat) (s : State) : Out := issue (issVballot d a m) s

/-- VCOUNT (R188). -/
def issVcount (d a : Nat) : Iss :=
  { vIss 0 d [] (fun c _ => (.int (BitVec.ofNat 32 (c.lanes.filter fun l => l.th.getP a).length), 0)) with
    names := fun c => vNames [d] c ++ pNames [a] c }
/-- Vcount, issued. -/
def execVcount (d a : Nat) (s : State) : Out := issue (issVcount d a) s

end Sys2Proof.Machine
end

