-- ==== Sys2Proof/Machine/LaneFloat.lean ====
section
/-! DEFINITION. Lane floating-point and conversion instructions (08_lane_float R189 to R208). -/
namespace Sys2Proof.Machine

/-! ### Shapes -/

/-- An image and the flags of a result. -/
def FRes.out (r : FRes) : Image × Flags5 := (⟨r.f, r.s⟩, r.fl)

/-- The arithmetic mode of a lane's wave-of-origin (R67). -/
def Lane.arm (l : Lane) : RMode := armOf l.wv.mode

/-- A sum of terms of va, vb and vd, rounded once by the arithmetic mode (R193, R196). -/
def fSum (d a b : Nat) (f : W32 → W32 → W32 → List (FVal × Bool)) : Iss :=
  vIss 0 d [a, b] fun c l => (roundSum (f (c.src l d).f (c.src l a).f (c.src l b).f) l.arm).out

/-- An instruction of one source and a lane's mode. -/
def f1 (d a : Nat) (f : W32 → RMode → FRes) : Iss := vIss 0 d [a] fun c l => (f (c.src l a).f l.arm).out

/-- The draw of a thread's k-th rounding within an instruction (R58, R59). -/
def laneDraw (c : Ctx) (l : Lane) (k : Nat) : Nat :=
  sruDraw c.launch.seed (drawId c.gk c.tk l.t) ((l.th.draw + k) % 2 ^ 32)

/-- A thread after consuming n draw numbers (R59). -/
def Thread.drew (t : Thread) (n : Nat) : Thread := { t with draw := (t.draw + n) % 2 ^ 32 }

/-- The final rounding of an image to a format by a lane instruction (R55, R205). k: which of the instruction's draws. -/
def finalOf (c : Ctx) (l : Lane) (f : Fmt) (x : Image) (k : Nat) : FVal × Flags5 :=
  let r := carrier (val32 x.f) f x.s
  roundFinal r.1 f (finMode l.wv.mode f) r.2 (laneDraw c l k)

/-- An instruction that final-rounds n elements in each lane and writes register d with S clear. -/
def finIss (d : Nat) (reads : List Nat) (n : Nat) (f : Ctx → Lane → W32 × Flags5) : Iss where
  names := vNames (d :: reads)
  eff := fun c s => .done (eachLane c s fun l => let r := f c l
    ⟨(l.th.setV (c.reg l d) ⟨r.1, false⟩).drew n, r.2⟩)

/-! ### FP32 arithmetic -/

/-- FADD (R193). -/
def issFadd (d a b : Nat) : Iss := fSum d a b fun _ x y => [(val32 x, false), (val32 y, false)]
/-- Fadd, issued. -/
def execFadd (d a b : Nat) (s : State) : Out := issue (issFadd d a b) s
/-- FSUB (R193). -/
def issFsub (d a b : Nat) : Iss := fSum d a b fun _ x y => [(val32 x, false), ((val32 y).neg, false)]
/-- Fsub, issued. -/
def execFsub (d a b : Nat) (s : State) : Out := issue (issFsub d a b) s
/-- FMUL (R193). -/
def issFmul (d a b : Nat) : Iss := fSum d a b fun _ x y => [(val32 x).mul (val32 y)]
/-- Fmul, issued. -/
def execFmul (d a b : Nat) (s : State) : Out := issue (issFmul d a b) s
/-- FMA (R193): the product is not rounded. -/
def issFma (d a b : Nat) : Iss := fSum d a b fun z x y => [(val32 z, false), (val32 x).mul (val32 y)]
/-- Fma, issued. -/
def execFma (d a b : Nat) (s : State) : Out := issue (issFma d a b) s
/-- FNMA (R193). -/
def issFnma (d a b : Nat) : Iss := fSum d a b fun z x y => [(val32 z, false), (val32 x).neg.mul (val32 y)]
/-- Fnma, issued. -/
def execFnma (d a b : Nat) (s : State) : Out := issue (issFnma d a b) s

/-- FMIN and FMAX (R194): a lone NaN gives the other source; beats says that the second image wins. -/
def fPick (beats : W32 → W32 → Bool) (x y : Image) : Image :=
  if isNaN32 x.f then (if isNaN32 y.f then ⟨nanF32, false⟩ else y)
  else if isNaN32 y.f then x
  else if beats y.f x.f then y else x

/-- FMIN (R194). -/
def issFmin (d a b : Nat) : Iss := vIss 0 d [a, b] fun c l => (fPick totalLt (c.src l a) (c.src l b), 0)
/-- Fmin, issued. -/
def execFmin (d a b : Nat) (s : State) : Out := issue (issFmin d a b) s
/-- FMAX (R194). -/
def issFmax (d a b : Nat) : Iss := vIss 0 d [a, b] fun c l => (fPick (fun x y => totalLt y x) (c.src l a) (c.src l b), 0)
/-- Fmax, issued. -/
def execFmax (d a b : Nat) (s : State) : Out := issue (issFmax d a b) s

/-- An image with bit 31 replaced (R195); a NaN gives the canonical NaN. -/
def setSign (x : Image) (b : Bool) : Image :=
  if isNaN32 x.f then ⟨nanF32, false⟩ else ⟨(x.f &&& 0x7FFFFFFF#32) ||| (if b then 0x80000000#32 else 0), x.s⟩

/-- FABS (R195). -/
def issFabs (d a : Nat) : Iss := v2 d a fun x => setSign x false
/-- Fabs, issued. -/
def execFabs (d a : Nat) (s : State) : Out := issue (issFabs d a) s
/-- FNEG (R195). -/
def issFneg (d a : Nat) : Iss := v2 d a fun x => setSign x (!x.f.msb)
/-- Fneg, issued. -/
def execFneg (d a : Nat) (s : State) : Out := issue (issFneg d a) s
/-- FCOPYSIGN (R195): vb's sign bit, even of a NaN. -/
def issFcopysign (d a b : Nat) : Iss := vIss 0 d [a, b] fun c l => (setSign (c.src l a) (c.src l b).f.msb, 0)
/-- Fcopysign, issued. -/
def execFcopysign (d a b : Nat) (s : State) : Out := issue (issFcopysign d a b) s

/-! ### Dot products (R196, R197) -/

/-- Element k of a packed field. -/
def elemOf (f : Fmt) (w : W32) (k : Nat) : FVal := decodeF f (fld w.toNat (f.bits * k) f.bits)

/-- The accumulator and n element products. -/
def dotTerms (f : Fmt) (n : Nat) (z x y : W32) : List (FVal × Bool) :=
  (val32 z, false) :: (List.range n).map fun k => (elemOf f x k).mul (elemOf f y k)

/-- FDOT2.bf16 (R196). -/
def issFdot2Bf16 (d a b : Nat) : Iss := fSum d a b (dotTerms .bf16 2)
/-- Fdot2Bf16, issued. -/
def execFdot2Bf16 (d a b : Nat) (s : State) : Out := issue (issFdot2Bf16 d a b) s
/-- FDOT4.e4m3 (R196). -/
def issFdot4E4m3 (d a b : Nat) : Iss := fSum d a b (dotTerms .e4m3 4)
/-- Fdot4E4m3, issued. -/
def execFdot4E4m3 (d a b : Nat) (s : State) : Out := issue (issFdot4E4m3 d a b) s
/-- FDOT4.e5m2 (R196). -/
def issFdot4E5m2 (d a b : Nat) : Iss := fSum d a b (dotTerms .e5m2 4)
/-- Fdot4E5m2, issued. -/
def execFdot4E5m2 (d a b : Nat) (s : State) : Out := issue (issFdot4E5m2 d a b) s
/-- FDOT8.e2m1 (R196). -/
def issFdot8E2m1 (d a b : Nat) : Iss := fSum d a b (dotTerms .e2m1 8)
/-- Fdot8E2m1, issued. -/
def execFdot8E2m1 (d a b : Nat) (s : State) : Out := issue (issFdot8E2m1 d a b) s

/-! ### Approximate functions (R198, R199) -/

/-- An exact special result with flags and S clear. -/
def fExact (v : FVal) (fl : Flags5) : FRes := ⟨BitVec.ofNat 32 (encodeF .f32 v), false, fl⟩
/-- An invalid operation: the canonical NaN. -/
def fBad : FRes := ⟨nanF32, false, fInvalid⟩

/-- FRCPA's value. -/
def frcpa (w : W32) : FRes := match val32 w with
  | .nan => fExact .nan 0
  | .inf n => fExact (.fin n 0 0) 0
  | .fin n m e => if m = 0 then fExact (.inf n) fDivzero else
    round12 (if n then (divSticky 1 0 m e).neg else divSticky 1 0 m e)
/-- FRSQA's value. -/
def frsqa (w : W32) : FRes := match val32 w with
  | .nan => fExact .nan 0
  | .inf n => if n then fBad else fExact .zero 0
  | .fin n m e => if m = 0 then fExact (.inf n) fDivzero else if n then fBad else round12 (rsqrtSticky m e)
/-- FEXP2A's value. -/
def fexp2a (w : W32) : FRes := match val32 w with
  | .nan => fExact .nan 0
  | .inf n => if n then fExact .zero 0 else fExact (.inf false) 0
  | .fin n m e => round12 (exp2Sticky n m e)
/-- FLOG2A's value. -/
def flog2a (w : W32) : FRes := match val32 w with
  | .nan => fExact .nan 0
  | .inf n => if n then fBad else fExact (.inf false) 0
  | .fin n m e => if m = 0 then fExact (.inf true) fDivzero else if n then fBad else round12 (log2Sticky m e)

/-- FRCPA (R198). -/
def issFrcpa (d a : Nat) : Iss := f1 d a fun x _ => frcpa x
/-- Frcpa, issued. -/
def execFrcpa (d a : Nat) (s : State) : Out := issue (issFrcpa d a) s
/-- FRSQA (R198). -/
def issFrsqa (d a : Nat) : Iss := f1 d a fun x _ => frsqa x
/-- Frsqa, issued. -/
def execFrsqa (d a : Nat) (s : State) : Out := issue (issFrsqa d a) s
/-- FEXP2A (R198). -/
def issFexp2a (d a : Nat) : Iss := f1 d a fun x _ => fexp2a x
/-- Fexp2a, issued. -/
def execFexp2a (d a : Nat) (s : State) : Out := issue (issFexp2a d a) s
/-- FLOG2A (R198). -/
def issFlog2a (d a : Nat) : Iss := f1 d a fun x _ => flog2a x
/-- Flog2a, issued. -/
def execFlog2a (d a : Nat) (s : State) : Out := issue (issFlog2a d a) s

/-! ### FSQRT and FDIV (R200) -/

/-- FSQRT's value. -/
def fsqrt (w : W32) (mode : RMode) : FRes := match val32 w with
  | .nan => fExact .nan 0
  | .inf n => if n then fBad else fExact (.inf false) 0
  | .fin n m e => if m = 0 then fExact (.fin n 0 0) 0 else if n then fBad else roundF32 (sqrtSticky m e) mode

/-- FDIV's value. A zero divided by a finite nonzero number has the exclusive or of the signs under every mode: the spec gives no sign there (DESIGN
CHOICE, log 31). -/
def fdiv (x y : W32) (mode : RMode) : FRes := match val32 x, val32 y with
  | .nan, _ => fExact .nan 0
  | _, .nan => fExact .nan 0
  | .inf _, .inf _ => fBad
  | .inf p, .fin q _ _ => fExact (.inf (p ^^ q)) 0
  | .fin p _ _, .inf q => fExact (.fin (p ^^ q) 0 0) 0
  | .fin p m e, .fin q n g =>
    if n = 0 then (if m = 0 then fBad else fExact (.inf (p ^^ q)) fDivzero)
    else if m = 0 then fExact (.fin (p ^^ q) 0 0) 0
    else roundF32 (if p ^^ q then (divSticky m e n g).neg else divSticky m e n g) mode

/-- FSQRT (R200). -/
def issFsqrt (d a : Nat) : Iss := f1 d a fsqrt
/-- Fsqrt, issued. -/
def execFsqrt (d a : Nat) (s : State) : Out := issue (issFsqrt d a) s
/-- FDIV (R200). -/
def issFdiv (d a b : Nat) : Iss := vIss 0 d [a, b] fun c l => (fdiv (c.src l a).f (c.src l b).f l.arm).out
/-- Fdiv, issued. -/
def execFdiv (d a b : Nat) (s : State) : Out := issue (issFdiv d a b) s

/-! ### Conversions (R201 to R203) -/

/-- The mode an rm field names: 0 takes `%mode.arm` (R201). -/
def rmOf (rm : Nat) (arm : RMode) : RMode := match rm with
  | 0 => arm
  | n + 1 => .ofCode n

/-- An integer rounded to FP32 (R202). -/
def cvtToF (x : Int) (mode : RMode) : FRes := roundF32 (ofUnits x 0 false) mode

/-- A value rounded to an integer and saturated (R203). -/
def cvtVToI (v : FVal) (mode : RMode) (lo hi : Int) : FRes := match v with
  | .nan => ⟨0, true, fInvalid⟩
  | .inf n => ⟨BitVec.ofInt 32 (if n then lo else hi), true, fInvalid⟩
  | .fin n m e =>
    let ct := cutAt m e 0
    let k : Int := (ct.round mode n : Nat)
    let r := if n then -k else k
    let y := min (max r lo) hi
    if y ≠ r then ⟨BitVec.ofInt 32 y, true, fInvalid⟩
    else ⟨BitVec.ofInt 32 y, decide (ct.rest ≠ 0), flagIf (decide (ct.rest ≠ 0)) fInexact⟩
/-- An FP32 field rounded to an integer. -/
def cvtToI (w : W32) (mode : RMode) (lo hi : Int) : FRes := cvtVToI (val32 w) mode lo hi

/-- CVT.f32.i32 (R202). -/
def issCvtF32I32 (d a rm : Nat) : Iss := f1 d a fun x m => cvtToF x.toInt (rmOf rm m)
/-- CvtF32I32, issued. -/
def execCvtF32I32 (d a rm : Nat) (s : State) : Out := issue (issCvtF32I32 d a rm) s
/-- CVT.f32.n32 (R202). -/
def issCvtF32N32 (d a rm : Nat) : Iss := f1 d a fun x m => cvtToF x.toNat (rmOf rm m)
/-- CvtF32N32, issued. -/
def execCvtF32N32 (d a rm : Nat) (s : State) : Out := issue (issCvtF32N32 d a rm) s
/-- CVT.i32.f32 (R203). -/
def issCvtI32F32 (d a rm : Nat) : Iss := f1 d a fun x m => cvtToI x (rmOf rm m) (-2147483648) 2147483647
/-- CvtI32F32, issued. -/
def execCvtI32F32 (d a rm : Nat) (s : State) : Out := issue (issCvtI32F32 d a rm) s
/-- CVT.n32.f32 (R203). -/
def issCvtN32F32 (d a rm : Nat) : Iss := f1 d a fun x m => cvtToI x (rmOf rm m) 0 4294967295
/-- CvtN32F32, issued. -/
def execCvtN32F32 (d a rm : Nat) (s : State) : Out := issue (issCvtN32F32 d a rm) s

/-! ### Narrowing (R204) -/

/-- The carrier of an image for a format, held as R47 gives. -/
def narrow (f : Fmt) (x : Image) : Image :=
  let r := carrier (val32 x.f) f x.s
  let h := holdF32 r.1
  ⟨h.1, r.2 || h.2⟩

/-- NRW.bf16 (R204). -/
def issNrwBf16 (d a : Nat) : Iss := v2 d a (narrow .bf16)
/-- NrwBf16, issued. -/
def execNrwBf16 (d a : Nat) (s : State) : Out := issue (issNrwBf16 d a) s
/-- NRW.f16 (R204). -/
def issNrwF16 (d a : Nat) : Iss := v2 d a (narrow .f16)
/-- NrwF16, issued. -/
def execNrwF16 (d a : Nat) (s : State) : Out := issue (issNrwF16 d a) s
/-- NRW.e4m3 (R204). -/
def issNrwE4m3 (d a : Nat) : Iss := v2 d a (narrow .e4m3)
/-- NrwE4m3, issued. -/
def execNrwE4m3 (d a : Nat) (s : State) : Out := issue (issNrwE4m3 d a) s
/-- NRW.e5m2 (R204). -/
def issNrwE5m2 (d a : Nat) : Iss := v2 d a (narrow .e5m2)
/-- NrwE5m2, issued. -/
def execNrwE5m2 (d a : Nat) (s : State) : Out := issue (issNrwE5m2 d a) s
/-- NRW.e2m1 (R204). -/
def issNrwE2m1 (d a : Nat) : Iss := v2 d a (narrow .e2m1)
/-- NrwE2m1, issued. -/
def execNrwE2m1 (d a : Nat) (s : State) : Out := issue (issNrwE2m1 d a) s

/-! ### Final rounding into a register (R205) -/

/-- FIN for a format. -/
def finTo (f : Fmt) (d a : Nat) : Iss := finIss d [a] 1 fun c l =>
  let r := finalOf c l f (c.src l a) 0
  (BitVec.ofNat 32 (encodeF .f32 r.1), r.2)

/-- FIN.bf16 (R205). -/
def issFinBf16 (d a : Nat) : Iss := finTo .bf16 d a
/-- FinBf16, issued. -/
def execFinBf16 (d a : Nat) (s : State) : Out := issue (issFinBf16 d a) s
/-- FIN.f16 (R205). -/
def issFinF16 (d a : Nat) : Iss := finTo .f16 d a
/-- FinF16, issued. -/
def execFinF16 (d a : Nat) (s : State) : Out := issue (issFinF16 d a) s
/-- FIN.e4m3 (R205). -/
def issFinE4m3 (d a : Nat) : Iss := finTo .e4m3 d a
/-- FinE4m3, issued. -/
def execFinE4m3 (d a : Nat) (s : State) : Out := issue (issFinE4m3 d a) s
/-- FIN.e5m2 (R205). -/
def issFinE5m2 (d a : Nat) : Iss := finTo .e5m2 d a
/-- FinE5m2, issued. -/
def execFinE5m2 (d a : Nat) (s : State) : Out := issue (issFinE5m2 d a) s
/-- FIN.e2m1 (R205): SAT always (R57). -/
def issFinE2m1 (d a : Nat) : Iss := finTo .e2m1 d a
/-- FinE2m1, issued. -/
def execFinE2m1 (d a : Nat) (s : State) : Out := issue (issFinE2m1 d a) s

/-! ### Packing (R206, R207) -/

/-- The codes of images final-rounded in order, packed from bit 0, and their flags. -/
def packed (c : Ctx) (l : Lane) (f : Fmt) (xs : List Image) : W32 × Flags5 :=
  let rs := xs.zipIdx.map fun p => finalOf c l f p.1 p.2
  (BitVec.ofNat 32 (rs.foldr (fun r acc => encodeF f r.1 + 2 ^ f.bits * acc) 0), rs.foldl (fun fl r => fl ||| r.2) 0)

/-- PACK2 for a format. -/
def pack2 (f : Fmt) (d a b : Nat) : Iss := finIss d [a, b] 2 fun c l => packed c l f [c.src l a, c.src l b]
/-- PACK4 for a format: the four registers from va on, each renamed. -/
def pack4 (f : Fmt) (d a : Nat) : Iss := finIss d [a, a + 1, a + 2, a + 3] 4 fun c l =>
  packed c l f [c.src l a, c.src l (a + 1), c.src l (a + 2), c.src l (a + 3)]

/-- PACK2.bf16 (R206). -/
def issPack2Bf16 (d a b : Nat) : Iss := pack2 .bf16 d a b
/-- Pack2Bf16, issued. -/
def execPack2Bf16 (d a b : Nat) (s : State) : Out := issue (issPack2Bf16 d a b) s
/-- PACK2.f16 (R206). -/
def issPack2F16 (d a b : Nat) : Iss := pack2 .f16 d a b
/-- Pack2F16, issued. -/
def execPack2F16 (d a b : Nat) (s : State) : Out := issue (issPack2F16 d a b) s
/-- PACK4.e4m3 (R207). -/
def issPack4E4m3 (d a : Nat) : Iss := pack4 .e4m3 d a
/-- Pack4E4m3, issued. -/
def execPack4E4m3 (d a : Nat) (s : State) : Out := issue (issPack4E4m3 d a) s
/-- PACK4.e5m2 (R207). -/
def issPack4E5m2 (d a : Nat) : Iss := pack4 .e5m2 d a
/-- Pack4E5m2, issued. -/
def execPack4E5m2 (d a : Nat) (s : State) : Out := issue (issPack4E5m2 d a) s

/-! ### Widening (R208) -/

/-- WID for a format and an element. -/
def widen (f : Fmt) (d a k : Nat) : Iss := vIss 0 d [a] fun c l =>
  (fExact (elemOf f (c.src l a).f k) 0).out

/-- WID.bf16 (R208). -/
def issWidBf16 (d a k : Nat) : Iss := widen .bf16 d a k
/-- WidBf16, issued. -/
def execWidBf16 (d a k : Nat) (s : State) : Out := issue (issWidBf16 d a k) s
/-- WID.f16 (R208). -/
def issWidF16 (d a k : Nat) : Iss := widen .f16 d a k
/-- WidF16, issued. -/
def execWidF16 (d a k : Nat) (s : State) : Out := issue (issWidF16 d a k) s
/-- WID.e4m3 (R208). -/
def issWidE4m3 (d a k : Nat) : Iss := widen .e4m3 d a k
/-- WidE4m3, issued. -/
def execWidE4m3 (d a k : Nat) (s : State) : Out := issue (issWidE4m3 d a k) s
/-- WID.e5m2 (R208). -/
def issWidE5m2 (d a k : Nat) : Iss := widen .e5m2 d a k
/-- WidE5m2, issued. -/
def execWidE5m2 (d a k : Nat) (s : State) : Out := issue (issWidE5m2 d a k) s

end Sys2Proof.Machine
end

