-- ==== Sys2Proof/Machine/Mem.lean ====
section
/-! DEFINITION. Memory accesses as they leave the core (09_global_memory R214 to R220; 05_control R115): checks of every lane or subset first,
then one access for each load sector and one for each store, atomic or contribution. -/
namespace Sys2Proof.Machine

/-- An access that has passed the core's checks: who makes it, and where. -/
structure Req where
  threads : List Nat
  wave : Nat
  obj : Nat
  off : Nat
  size : Nat
  colour : Nat
  cap : Cap
deriving DecidableEq, Repr

/-- One access a lane asks for: its capability, byte offset, size and rights, checked in that order. -/
structure Want where
  cap : Cap
  a : Int
  size : Nat
  rights : List Right
deriving DecidableEq, Repr

/-- check_cap for each right in turn (R261), with no further alignment than R27 asks. -/
def Want.check (w : Want) : List Right → Except (Cause × Nat × Nat) (Nat × Nat)
  | [] => .ok (w.cap.object, 0)
  | [r] => checkCap w.cap w.a w.size r
  | r :: rs => match checkCap w.cap w.a w.size r with
    | .error e => .error e
    | .ok _ => w.check rs

/-- Check every want of every holder, in order (R215, R139): the requests, or the trap of the first that fails, which names its lane and sends nothing
(R439: a load through a capability of fewer elements than lanes). -/
def checkWants (c : Ctx) : List (List Nat × Nat × Want) → Except TrapArgs (List Req)
  | [] => .ok []
  | (ts, wave, w) :: r => match w.check w.rights with
    | .error e => .error { c.trapArgs e.1 (ts.headD 0) with object := e.2.1, offset := e.2.2 }
    | .ok p => match checkWants c r with
      | .error e => .error e
      | .ok q => .ok (⟨ts, wave, p.1, p.2, w.size, w.cap.colour, w.cap⟩ :: q)

/-- Put accesses in flight, numbered in order. -/
def State.launchAccs (s : State) : List Access → State
  | [] => s
  | a :: t => ({ s with accesses := s.accesses.put s.nextId { a with seq := s.nextId }, nextId := s.nextId + 1 }).launchAccs t

/-- What a write of threads of the group releases (R316). ordered: an atomic of order rel or ar. -/
def Ctx.rel (c : Ctx) (ts : List Nat) (ordered : Bool) : List Cover :=
  (c.lanes.filter fun l => ts.contains l.t).flatMap fun l => l.th.agent.rel ordered

/-- Two load parts share a sector request (R217). -/
def sameSector (a : Access) (q : Req) : Bool :=
  a.obj == q.obj && a.off / 32 == q.off / 32 && a.colour == q.colour

/-- Add one part, reached through its own capability, to the sector requests of its instruction. -/
def addPart (q : Req) (p : LoadPart) (mk : Req → LoadPart → Access) : List Access → List Access
  | [] => [mk q p]
  | a :: t =>
    if sameSector a q then
      { a with threads := a.threads ++ q.threads.filter fun t => !a.threads.contains t
               kind := (match a.kind with | .load ps => .load (ps ++ [p]) | k => k) } :: t
    else a :: addPart q p mk t

/-- The sector requests of an instruction's load parts (R217). -/
def sectorsOf (mk : Req → LoadPart → Access) (rs : List (Req × LoadPart)) : List Access :=
  rs.foldl (fun acc r => addPart r.1 r.2 mk acc) []

/-- One access of an instruction as it leaves the core. -/
def oneAccess (c : Ctx) (info : Issued) (q : Req) (k : AKind) : Access where
  team := c.tk
  xact := c.xact
  kind := k
  obj := q.obj
  off := q.off
  size := q.size
  colour := q.colour
  threads := q.threads
  info := info
  st := .issued
  logged := false
  guest := 0
  cap := q.cap
  seq := 0
  rel := []
  acq := false
  pins := []
  foreseen := 0

/-- A load's sector request. -/
def loadAccess (c : Ctx) (info : Issued) (q : Req) (p : LoadPart) : Access := oneAccess c info q (.load [p])

/-- An access that writes, with what it releases. -/
def writeAccess (c : Ctx) (info : Issued) (q : Req) (k : AKind) (ordered : Bool) : Access :=
  { oneAccess c info q k with rel := c.rel q.threads ordered }

/-- A gang counts the faults that accesses will meet, and their sectors (R217, R388 sel 9, 4). -/
def Gang.countLoads (g : Gang) (as : List Access) : Gang := (g.count 9 (as.map (·.foreseen)).sum).count 4 as.length

/-- A load leaves the core: its sectors and the faults it will meet are counted. -/
def sendLoads (c : Ctx) (s : State) (info : Issued) (rs : List (Req × LoadPart)) : State :=
  let accs := foresee s c.fn (sectorsOf (loadAccess c info) rs)
  (s.launchAccs accs).setGang c.gk (·.countLoads accs)

/-- Entries that each thread's store window takes for some requests. -/
def entriesOf (qs : List Req) (t : Nat) : Nat := (qs.filter fun q => q.threads.contains t).length

/-- The requests fit the store windows (R115): at most 64 unacknowledged entries a thread. -/
def windowFits (c : Ctx) (s : State) (qs : List Req) : Bool :=
  (qs.flatMap (·.threads)).all fun t => decide (storesOf s c.tk t + entriesOf qs t ≤ 64)

/-- Stores leave the core and enter the store windows (R115, R388 sel 5). -/
def sendStores (c : Ctx) (s : State) (info : Issued) (qs : List (Req × AKind)) : State :=
  (s.launchAccs (qs.map fun q => writeAccess c info q.1 q.2 false)).setGang c.gk
    (·.count 5 (qs.map fun q => q.1.threads.length).sum)

/-- Update the threads and raise the flags that an instruction's issue leaves at once (draws, S dropped). -/
def atIssue (c : Ctx) (s : State) (f : Lane → LaneOut) : State := eachLane c s f

end Sys2Proof.Machine
end

