-- ==== Sys2Proof/Machine/Glade.lean ====
section
/-! DEFINITION. Glade and tag-table instructions (10_glade R236 to R244, R254 to R256, R259). A glade access is performed at its issue. -/
namespace Sys2Proof.Machine

/-! ### Regions (R237) -/

/-- Size of one plane in 4 KiB units; also the line size of a tagged region (R254). -/
def Region.units (r : Region) : Nat := r.cfg.toNat % 256
/-- Bytes of one plane. -/
def Region.bytes (r : Region) : Nat := r.units * 4096
def Region.dual (r : Region) : Bool := bit r.cfg.toNat 8
def Region.shared (r : Region) : Bool := bit r.cfg.toNat 9
/-- The collision rule: 0 none, 1 PRIO, 2 SUM.i32, 3 SUM.f32, 4 SUM.bf16, 5 FAULT. -/
def Region.rule (r : Region) : Nat := fld r.cfg.toNat 10 3
def Region.tagged (r : Region) : Bool := bit r.cfg.toNat 13
/-- Final rounding of a SUM region: SAT applies to BF16 only. -/
def Region.final (r : Region) : FinMode := ⟨.ofCode (fld r.cfg.toNat 16 3), !bit r.cfg.toNat 19, bit r.cfg.toNat 20⟩
/-- Glade that a region consumes (R237). -/
def cfgBytes (cfg : W64) : Nat := cfg.toNat % 256 * 4096 * (if bit cfg.toNat 8 then 2 else 1)

/-- Region K of a team. -/
def Team.region (t : Team) (k : Nat) : Region := sget Region.absent t.regions k
/-- Change region K. -/
def Team.setRegion (t : Team) (k : Nat) (r : Region) : Team := { t with regions := sset Region.absent t.regions k r }

/-- Is a tagged region's line size valid: a power of two from 16 (R254). -/
def lineOk (units : Nat) : Bool := [16, 32, 64, 128].contains units

/-- A valid configuration word for region K of a team (R237, R254). -/
def cfgValid (t : Team) (k : Nat) (cfg : W64) : Bool :=
  let w := cfg.toNat
  let others := ((List.range 8).filter (· != k)).map t.region
  w / 2 ^ 21 == 0 && fld w 14 2 == 0 && decide (fld w 16 3 ≤ 4) && decide (fld w 10 3 ≤ 5) &&
    (bit w 8 != (fld w 10 3 == 0)) && decide (w % 256 ≤ 128) &&
    decide (cfgBytes cfg + (others.map fun r => cfgBytes r.cfg).sum ≤ t.allot) &&
    (!bit w 13 || (t.ownsTags && lineOk (w % 256) && others.all fun r => !(r.tagged && decide (0 < r.units))))

/-- The word of a region that loads see: the present plane or the one plane (R239). -/
def Region.read (r : Region) (word : Nat) : W32 := sget 0 r.present word
/-- A store of one word by a rank: to the next plane with its record, or to the one plane (R239, R240). -/
def Region.write (r : Region) (word rank : Nat) (v : W32) : Region :=
  if r.dual then { r with next := sset 0 r.next word v, written := r.written.put word (((r.written.find word).getD []).put rank v) }
  else { r with present := sset 0 r.present word v }

/-- Byte i of a region, as loads and copies see it. -/
def Region.readByte (r : Region) (i : Nat) : Nat := (r.read (i / 4)).toNat / 256 ^ (i % 4) % 256
/-- n bytes of a region from byte i, little-endian. -/
def Region.readBytes (r : Region) (i : Nat) : Nat → List Nat
  | 0 => []
  | n + 1 => r.readByte i :: r.readBytes (i + 1) n
/-- Put byte v at place k of a word. -/
def setByte (w : W32) (k v : Nat) : W32 :=
  let p := 256 ^ (k % 4)
  BitVec.ofNat 32 (w.toNat / p / 256 * 256 * p + v % 256 * p + w.toNat % p)
/-- The word with the bytes that fall in it of a run of bytes from offset i. -/
def overlay (word : Nat) : W32 → Nat → List Nat → W32
  | w, _, [] => w
  | w, i, b :: t => overlay word (if i / 4 = word then setByte w i b else w) (i + 1) t
/-- The words that n bytes from offset i touch. -/
def wordsAt (i n : Nat) : List Nat := if n = 0 then [] else (List.range ((i + n - 1) / 4 - i / 4 + 1)).map (i / 4 + ·)
/-- An engine writes a run of bytes; done: the runs of the same command already written. In a next plane each word it touches contributes
the command's bytes and the present plane's other bytes (R240, R288). -/
def Region.writeRun (r : Region) (rank : Nat) (done : List (Nat × List Nat)) (i : Nat) (bs : List Nat) : Region :=
  (wordsAt i bs.length).foldl (fun r word =>
    let w := if r.dual then done.foldl (fun w d => overlay word w d.1 d.2) (r.read word) else r.read word
    r.write word rank (overlay word w i bs)) r

/-! ### Tags (R254, R255) -/

/-- The set of a key. -/
def tagSet (k : W32) : Nat := ((k &&& 0x3FF#32) ^^^ ((k >>> 10) &&& 0x3FF#32) ^^^ ((k >>> 20) &&& 0x3FF#32) ^^^ (k >>> 30)).toNat
/-- The slot that holds a key. -/
def tagSlot (tags : Tab W32) (k : W32) : Option Nat :=
  ((List.range 4).map (tagSet k * 4 + ·)).find? fun n => tags.find n == some k
/-- The line of a byte of a tagged region is valid. -/
def lineValid (t : Team) (r : Region) (a : Nat) : Bool := !r.tagged || (t.tags.find (a / r.units)).isSome

/-! ### Checks and waits -/

/-- A lane's glade access: the team it reaches and its byte offset. -/
structure GAcc where
  lane : Lane
  tk : Nat
  off : Nat
deriving DecidableEq, Repr

/-- The access of a lane to n bytes of region K (R238, R244). -/
def gladeAcc (c : Ctx) (x n : Nat) (member : Bool) (l : Lane) : GAcc :=
  let v := (c.src l x).f.toNat
  if member then ⟨l, teamKey c.gk (v / 1073741824), v % 1073741824 * n⟩ else ⟨l, c.tk, v * n⟩

/-- An access passes the checks of R238, R244 and R254. atomic: of R273, which consults no tags and wants one plane. -/
def gladeOk (c : Ctx) (s : State) (k n : Nat) (atomic : Bool) (a : GAcc) : Bool :=
  match s.teams.find a.tk with
  | none => false
  | some t =>
    let r := t.region k
    decide (a.tk % 4 < c.gang.teams) && decide (0 < r.units) && decide (a.off + n ≤ r.bytes) && (a.tk == c.tk || r.shared)
      && (if atomic then !r.dual else lineValid t r a.off)

/-- All lanes' accesses, or the lowest-ranked thread that fails. -/
def gladePlan (c : Ctx) (s : State) (k n : Nat) (member atomic : Bool) (x : Nat) : Except Nat (List GAcc) :=
  let as := c.lanes.map (gladeAcc c x n member)
  match as.find? fun a => !gladeOk c s k n atomic a with
  | some a => .error a.lane.t
  | none => .ok as

/-- Scoreboard entries that an access to a plane of region K must wait for (R243). -/
def boardHolds (t : Team) (k : Nat) (next writes : Bool) (lo n : Nat) : Bool :=
  t.board.vals.any fun e => e.region == k && e.nextPlane == next && (writes || e.writes) && decide (e.lo < lo + n) && decide (lo < e.hi)

/-- Some access must wait for a copy. -/
def gladeWaits (s : State) (k n : Nat) (writes : Bool) (as : List GAcc) : Bool := as.any fun a =>
  match s.teams.find a.tk with
  | some t => boardHolds t k (writes && (t.region k).dual) writes a.off n
  | none => false

/-- Bank-conflict cycles c - 1 of an instruction's accesses (R242). -/
def conflicts (n : Nat) (as : List GAcc) : Nat :=
  let words := (as.flatMap fun a => (List.range (n / 4)).map fun i => (a.tk, a.off / 4 + i)).eraseDups
  (words.map fun w => (words.filter fun u => u.1 == w.1 && u.2 % 32 == w.2 % 32).length).foldl max 1 - 1

/-- Name the region of a target team in the state. -/
def regionOf (s : State) (tk k : Nat) : Region := match s.teams.find tk with
  | some t => t.region k
  | none => Region.absent

/-- Perform the glade accesses of an instruction one lane after another (R256). -/
def performGlade (f : State → GAcc → State) : State → List GAcc → State
  | s, [] => s
  | s, a :: t => performGlade f (f s a) t

/-! Single-plane regions as `rc` locations (R312, R315, R318, R322) -/

/-- The place of a word in a team's table of past writes. -/
def gladeKey (k word : Nat) : Nat := k * 131072 + word
/-- A word of a team's glade in views, above every byte of memory. -/
def gladeAt (tk k word : Nat) : Nat := 2 ^ 70 + (tk * 8 + k) * 131072 + word
/-- The words of an access. -/
def GAcc.words (a : GAcc) (n : Nat) : List Nat := (List.range (n / 4)).map (a.off / 4 + ·)

/-- The writes of a word that threads may still see, newest first. -/
def State.gladePastOf (s : State) (tk k word : Nat) : List GPast :=
  ((s.teams.find tk).bind fun t => t.gladePast.find (gladeKey k word)).getD [⟨0, (regionOf s tk k).read word, []⟩]

/-- The newest of a word's writes that is no later than write t. -/
def gpastAt (t : Nat) : List GPast → GPast
  | [] => ⟨0, 0, []⟩
  | [p] => p
  | p :: r => if p.no ≤ t then p else gpastAt t r

/-- An agent may read words as they stood after write t: it must see none of the writes passed over (R312, R320, R322). -/
def State.gladeMay (s : State) (g : Agent) (tk k : Nat) (words : List Nat) (t : Nat) : Bool := words.all fun w =>
  ((s.gladePastOf tk k w).takeWhile fun p => decide (t < p.no)).all fun p => decide (g.bound false (gladeAt tk k w) < p.no)

/-- The writes after which an agent may read words, together (R239: one access is single-copy atomic). -/
def State.gladeTimes (s : State) (g : Agent) (tk k : Nat) (words : List Nat) : List Nat :=
  ((words.flatMap fun w => (s.gladePastOf tk k w).map (·.no)).eraseDups).filter (s.gladeMay g tk k words)

/-- The write after which a load reads its words: a free one of those it may, where there are several (R322). -/
def State.gladePick (s : State) (ts : List Nat) : State × Nat := match ts with
  | [] => (s, s.writeNo)
  | [t] => (s, t)
  | t :: r => ({ s with free := s.free + 1 }, (t :: r).getD ((Config.freeValue s.free).toNat % (r.length + 1)) t)

/-- An agent has read words as they stood after write t: coherence binds it (R312), and its later acquire fences take the releases (R317). -/
def State.gladeRead (s : State) (place : Place) (key tk k : Nat) (words : List Nat) (t : Nat) : State :=
  let ps := words.map fun w => (gladeAt tk k w, gpastAt t (s.gladePastOf tk k w))
  s.onAgents [key] (·.read ((ps.filter fun p => decide (0 < p.2.no)).map fun p => (2 * p.1, p.2.no)) (inScope s place (ps.flatMap fun p => p.2.rel)))

/-- A thread writes words: a next plane and its record, or the one plane, where the write joins each word's order with what it releases and, as a
read-modify-write, passes on (R240, R312, R318). -/
def State.gladeWrite (s : State) (key tk k : Nat) (ws : List (Nat × W32)) (rel : List Release) (passOn : Bool) : State :=
  let relAt (w : Nat) : List Release := if passOn then (rel ++ ((s.gladePastOf tk k w).head?.map (·.rel)).getD []).eraseDups else rel
  let s1 := s.setTeam tk fun t =>
    { t.setRegion k (ws.foldl (fun (r : Region) (w : Nat × W32) => r.write w.1 (rankOf (key / 2048) (key % 2048)) w.2) (t.region k)) with
      gladePast := if (t.region k).dual then t.gladePast else
        ws.foldl (fun g (w : Nat × W32) => g.put (gladeKey k w.1) (⟨s.writeNo + 1, w.2, relAt w.1⟩ :: s.gladePastOf tk k w.1)) t.gladePast }
  if (regionOf s tk k).dual then s1
  else { s1 with writeNo := s.writeNo + 1 }.onAgents [key] (·.made (ws.map fun (w : Nat × W32) => (2 * gladeAt tk k w.1, s.writeNo + 1)))

/-- An engine or a macro has written words of a region: what stood there before is seen no more. DEDUCED: the scoreboard holds lane accesses until
the bytes are written (R243), so what they then read is not what stood before (log 7). -/
def Team.gladeForget (t : Team) (k : Nat) (words : List Nat) : Team :=
  { t with gladePast := t.gladePast.filter fun p => !(words.map (gladeKey k)).contains p.1 }

/-- An engine or a macro writes a run of bytes of region k, for a rank. -/
def Team.gladeRun (t : Team) (k rank : Nat) (done : List (Nat × List Nat)) (off : Nat) (bs : List Nat) : Team :=
  (t.setRegion k ((t.region k).writeRun rank done off bs)).gladeForget k (wordsAt off bs.length)

/-- A region is as GCFG has made it: no write of it stands (R257). -/
def Team.gladeFresh (t : Team) (k : Nat) : Team := { t with gladePast := t.gladePast.filter fun p => p.1 / 131072 != k }

/-- A lane's agent, as the state has it. -/
def GAcc.agent (s : State) (a : GAcc) : Agent := (s.thread a.lane.key).agent

/-- The shape of a glade access instruction: checks of every lane, waits, then each lane in turn. -/
def gladeIss (n : Nat) (writes member atomic : Bool) (names dests : Ctx → List RegName) (x k l : Nat) (f : Ctx → State → GAcc → State) : Iss where
  la := some l
  mem := true
  names := names
  dests := dests
  eff := fun c s => match gladePlan c s k n member atomic x with
    | .error t => .trap (c.trapArgs .gladeRegion t)
    | .ok as =>
      if gladeWaits s k n writes as then .wait
      else .done ((performGlade (f c) s as).setGang c.gk (·.count 6 (conflicts n as)))

/-- What a lane's load reads: of a dual-plane region the present plane, of a single-plane one its words as they stood after a write it may read (R239,
R315). -/
def gladeFetch (c : Ctx) (s : State) (k n : Nat) (a : GAcc) : State × List W32 :=
  let ws := a.words n
  if (regionOf s a.tk k).dual then (s, ws.map (regionOf s a.tk k).read)
  else
    let p := s.gladePick (s.gladeTimes (a.agent s) a.tk k ws)
    (p.1.gladeRead (.team c.tk) a.lane.key a.tk k ws p.2, ws.map fun w => (gpastAt p.2 (s.gladePastOf a.tk k w)).val)

/-- A glade load of n bytes into registers from vt. -/
def gladeLoad (n : Nat) (member : Bool) (t x k l : Nat) : Iss :=
  let span := (List.range (n / 4)).map (t + ·)
  gladeIss n false member false (vNames (x :: span)) (vNames span) x k l fun c s a =>
    let r := gladeFetch c s k n a
    r.1.setThread a.lane.key fun th => r.2.zipIdx.foldl (fun th (w : W32 × Nat) => th.setV (c.reg a.lane (t + w.2)) ⟨w.1, false⟩) th

/-- A glade store of n bytes from registers from vt; a dropped S raises inexact (R241). -/
def gladeStore (n : Nat) (member : Bool) (t x k l : Nat) : Iss :=
  let span := (List.range (n / 4)).map (t + ·)
  gladeIss n true member false (vNames (x :: span)) (fun _ => []) x k l fun c s a =>
    let xs := span.map (c.src a.lane)
    (s.gladeWrite a.lane.key a.tk k ((a.words n).zip (xs.map (·.f))) (relOf (.team c.tk) 0 false ((a.agent s).rel false)) false).raise
      a.lane.wk (flagIf (xs.any (·.s)) fInexact)

/-! ### LDG, STG, LDGM, STGM (R256) -/

/-- LDG.b32 (R256). -/
def issLdgB32 (t x k l : Nat) : Iss := gladeLoad 4 false t x k l
/-- LdgB32, issued. -/
def execLdgB32 (t x k l : Nat) (s : State) : Out := issue (issLdgB32 t x k l) s
/-- LDG.b64 (R256). -/
def issLdgB64 (t x k l : Nat) : Iss := gladeLoad 8 false t x k l
/-- LdgB64, issued. -/
def execLdgB64 (t x k l : Nat) (s : State) : Out := issue (issLdgB64 t x k l) s
/-- LDG.b128 (R256). -/
def issLdgB128 (t x k l : Nat) : Iss := gladeLoad 16 false t x k l
/-- LdgB128, issued. -/
def execLdgB128 (t x k l : Nat) (s : State) : Out := issue (issLdgB128 t x k l) s
/-- STG.b32 (R256). -/
def issStgB32 (t x k l : Nat) : Iss := gladeStore 4 false t x k l
/-- StgB32, issued. -/
def execStgB32 (t x k l : Nat) (s : State) : Out := issue (issStgB32 t x k l) s
/-- STG.b64 (R256). -/
def issStgB64 (t x k l : Nat) : Iss := gladeStore 8 false t x k l
/-- StgB64, issued. -/
def execStgB64 (t x k l : Nat) (s : State) : Out := issue (issStgB64 t x k l) s
/-- STG.b128 (R256). -/
def issStgB128 (t x k l : Nat) : Iss := gladeStore 16 false t x k l
/-- StgB128, issued. -/
def execStgB128 (t x k l : Nat) (s : State) : Out := issue (issStgB128 t x k l) s
/-- LDGM.b32 (R256). -/
def issLdgmB32 (t x k l : Nat) : Iss := gladeLoad 4 true t x k l
/-- LdgmB32, issued. -/
def execLdgmB32 (t x k l : Nat) (s : State) : Out := issue (issLdgmB32 t x k l) s
/-- STGM.b32 (R256). -/
def issStgmB32 (t x k l : Nat) : Iss := gladeStore 4 true t x k l
/-- StgmB32, issued. -/
def execStgmB32 (t x k l : Nat) (s : State) : Out := issue (issStgmB32 t x k l) s

/-! ### TLOOK, TSET, TCLR (R259) -/

/-- A tag instruction: every lane in ascending rank; a team that does not own the table traps (R255). -/
def tagIss (names dests : Ctx → List RegName) (l : Nat) (f : Ctx → State → Lane → State) : Iss where
  la := some l
  mem := true
  names := names
  dests := dests
  eff := fun c s => if c.team.ownsTags then .done (c.lanes.foldl (f c) s) else .trap (c.trapArgs .gladeRegion (lowLane c.lanes))

/-- The tag table of a team. -/
def tagsOf (s : State) (tk : Nat) : Tab W32 := ((s.teams.find tk).map (·.tags)).getD []

/-- TLOOK (R259). -/
def issTlook (t x l : Nat) : Iss :=
  tagIss (vNames [t, x]) (vNames [t]) l fun c s a =>
  let r := match tagSlot (tagsOf s c.tk) (c.src a x).f with
    | some n => BitVec.ofNat 32 n
    | none => 0xFFFFFFFF#32
  s.setThread a.key (·.setV (c.reg a t) ⟨r, false⟩)
/-- Tlook, issued. -/
def execTlook (t x l : Nat) (s : State) : Out := issue (issTlook t x l) s

/-- Make the entry that holds a key invalid. -/
def dropKey (tags : Tab W32) (k : W32) : Tab W32 := match tagSlot tags k with
  | some n => tags.del n
  | none => tags

/-- TSET (R259). -/
def issTset (t x l : Nat) : Iss :=
  tagIss (vNames [t, x]) (fun _ => []) l fun c s a =>
  let k := (c.src a x).f
  s.setTeam c.tk fun tm => { tm with tags := (dropKey tm.tags k).put (tagSet k * 4 + (c.src a t).f.toNat % 4) k }
/-- Tset, issued. -/
def execTset (t x l : Nat) (s : State) : Out := issue (issTset t x l) s

/-- TCLR (R259). -/
def issTclr (x l : Nat) : Iss :=
  tagIss (vNames [x]) (fun _ => []) l fun c s a =>
  s.setTeam c.tk fun tm => { tm with tags := dropKey tm.tags (c.src a x).f }
/-- Tclr, issued. -/
def execTclr (x l : Nat) (s : State) : Out := issue (issTclr x l) s

/-! ### Glade atomics (11_atomics R273 to R276) -/

/-- The lock bit of a word: bank and bit (R274). -/
def lockBit (w : Nat) : Nat := w % 32 * 16 + (fld w 5 4 ^^^ fld w 9 4 ^^^ fld w 13 4)

/-- The thread that holds a lock bit of a core, by key. -/
def lockHolder (s : State) (core b : Nat) : Option Nat := (teamsOn s core).findSome? fun p => (p.2.locks.find b).map (threadKey p.1)

/-- A glade atomic: one plane, checks of R273, each lane in ascending rank. It acts on the newest write. -/
def gatomIss (k2 : Nat) (dests : Ctx → List RegName) (t x k l : Nat) (f : Ctx → State → GAcc → State) : Iss :=
  gladeIss 4 true false true (fun c => vNames (x :: (List.range k2).map (t + ·)) c ++ dests c) dests x k l f

/-- The word of an access. -/
def GAcc.word (a : GAcc) (s : State) (k : Nat) : W32 := (regionOf s a.tk k).read (a.off / 4)

/-- The thread of an atomic has read its word. -/
def gatomRead (c : Ctx) (s : State) (k : Nat) (a : GAcc) : State := s.gladeRead (.team c.tk) a.lane.key a.tk k [a.off / 4] s.writeNo

/-- Store a word of the one plane: its releases are the thread's, as an atomic of order rel or not. -/
def putWord (c : Ctx) (s : State) (k : Nat) (a : GAcc) (v : W32) (ordered passOn : Bool) : State :=
  s.gladeWrite a.lane.key a.tk k [(a.off / 4, v)] (relOf (.team c.tk) 0 false ((a.agent s).rel ordered)) passOn

/-- A G-operation (R276): the word becomes f m, vt receives m. -/
def gop (n : Nat) (t x k l : Nat) (f : Ctx → Lane → W32 → W32 × Flags5) : Iss := gatomIss n (vNames [t]) t x k l fun c s a =>
  let m := a.word s k
  let r := f c a.lane m
  ((putWord c (gatomRead c s k a) k a r.1 false true).raise a.lane.wk r.2).setThread a.lane.key (·.setV (c.reg a.lane t) ⟨m, false⟩)

/-- GADD.i32 (R276). -/
def issGaddI32 (t x k l : Nat) : Iss := gop 1 t x k l fun c a m => (m + (c.src a t).f, 0)
/-- GaddI32, issued. -/
def execGaddI32 (t x k l : Nat) (s : State) : Out := issue (issGaddI32 t x k l) s
/-- GADD.f32 (R276). -/
def issGaddF32 (t x k l : Nat) : Iss :=
  gop 1 t x k l fun c a m =>
  let r := fadd32 m (c.src a t).f (armOf a.wv.mode); (r.f, r.fl)
/-- GaddF32, issued. -/
def execGaddF32 (t x k l : Nat) (s : State) : Out := issue (issGaddF32 t x k l) s
/-- GMAX.i32 (R276). -/
def issGmaxI32 (t x k l : Nat) : Iss :=
  gop 1 t x k l fun c a m =>
  let v := (c.src a t).f; (if m.slt v then v else m, 0)
/-- GmaxI32, issued. -/
def execGmaxI32 (t x k l : Nat) (s : State) : Out := issue (issGmaxI32 t x k l) s
/-- GXCHG (R276). -/
def issGxchg (t x k l : Nat) : Iss := gop 1 t x k l fun c a _ => ((c.src a t).f, 0)
/-- Gxchg, issued. -/
def execGxchg (t x k l : Nat) (s : State) : Out := issue (issGxchg t x k l) s
/-- GCAS (R276). -/
def issGcas (t x k l : Nat) : Iss :=
  gop 2 t x k l fun c a m =>
  (if m = (c.src a t).f then (c.src a (t + 1)).f else m, 0)
/-- Gcas, issued. -/
def execGcas (t x k l : Nat) (s : State) : Out := issue (issGcas t x k l) s

/-- Register and predicate destinations of LDL and STUL. -/
def lockNames (vs : List Nat) (c : Ctx) : List RegName := vNames vs c ++ pNames [7] c

/-- The releases that a word's newest write carries, as the scope of a context's threads sees them. -/
def gladeMet (c : Ctx) (s : State) (k : Nat) (a : GAcc) : List (Nat × View) :=
  inScope s (.team c.tk) ((gpastAt s.writeNo (s.gladePastOf a.tk k (a.off / 4))).rel)

/-- LDL (R275): takes the lock bit if it is free or the thread's own. It is performed at issue, so its acquire at `.core` (R262, R317) is made at
once. -/
def issLdl (t x k l : Nat) : Iss :=
  gatomIss 1 (lockNames [t]) t x k l fun c s a =>
  let b := lockBit (a.off / 4)
  let h := lockHolder s c.team.core b
  let won := h == none || h == some a.lane.key
  let s1 := if won then s.setTeam c.tk fun tm => { tm with locks := tm.locks.put b a.lane.t } else s
  ((gatomRead c s1 k a).onAgents [a.lane.key] (·.acquireIn false 0 (gladeMet c s k a))).setThread a.lane.key fun th =>
    (th.setV (c.reg a.lane t) ⟨a.word s k, false⟩).setP 7 won
/-- Ldl, issued. -/
def execLdl (t x k l : Nat) (s : State) : Out := issue (issLdl t x k l) s

/-- STUL's effect (R275): a store that releases at `.core` (R316). -/
def stulIss (t x k l : Nat) : Iss := gatomIss 1 (pNames [7]) t x k l fun c s a =>
  let v := c.src a.lane t
  let b := lockBit (a.off / 4)
  let mine := lockHolder s c.team.core b == some a.lane.key
  let s := (putWord c s k a v.f true false).raise a.lane.wk (flagIf v.s fInexact)
  let s := if mine then s.setTeam c.tk fun tm => { tm with locks := tm.locks.del b } else s
  s.setThread a.lane.key (·.setP 7 mine)

end Sys2Proof.Machine
end

