-- ==== Sys2Proof/Machine/Ordered.lean ====
section
/-! DEFINITION. The ordered buffer, its shadow and its flush (11_atomics R267 to R270), and the fatal records that end a launch (R392). -/
namespace Sys2Proof.Machine

/-! ### Fatal records -/

/-- Store the records of a service context into the launch: the launch ends by the first fatal trap (R392). -/
def setFatal (s : State) (lk : Nat) (r : TrapRec) : State := s.setLaunch lk fun l => { l with fatal := some (l.fatal.getD r) }

/-- Write a fatal record that stops no group, and end its launch by it. -/
def fatalRecord (s : State) (tk : Nat) (a : TrapArgs) : State :=
  let r := trapRecord s tk none { a with fatal := true, resume := .nothing }
  setFatal (recordOnly s tk { a with fatal := true }) r.launch r

/-- The record of a contribution or flush that finds no room in the shadow (R269). -/
def noRoomRecord (s : State) (tk thread obj off : Nat) (info : Issued) : TrapArgs :=
  { cause := .orderedTarget, thread := thread, pc := info.pc, word := info.word, object := obj, offset := off, fatal := true
    heat := info.heat, heatPos := info.heatPos, pathB := info.pathB.contains thread, deferredPrecise := true
    deferred := deferredSince s tk thread info, resume := .nothing }

/-! ### Flush (R270) -/

/-- Sorting order of contributions: wave-of-origin, lane-of-origin, sequence. -/
def contribLe (a b : Contrib) : Bool := decide (a.thread < b.thread) || (a.thread == b.thread && decide (a.seq ≤ b.seq))
/-- Insert a contribution. -/
def insertContrib (c : Contrib) : List Contrib → List Contrib
  | [] => [c]
  | d :: t => if contribLe c d then c :: d :: t else d :: insertContrib c t

/-- A partial after one more value, and whether the value completed a pair of infinities: only the first of each sign can. -/
def Partial.add (p : Partial) (x : FVal) : Partial × Bool :=
  ({ p with sum := (p.sum.add x).1, pinf := p.pinf || x == .inf false, ninf := p.ninf || x == .inf true },
    (x == .inf false && p.ninf && !p.pinf) || (x == .inf true && p.pinf && !p.ninf))

/-- The partial of one value. -/
def Partial.one (obj off : Nat) (x : FVal) : Partial := ⟨obj, off, ⟨x, false⟩, x == .inf false, x == .inf true⟩

/-- Add a contribution to the partials; the Bool says that it completed a pair of infinities; none: no room in the shadow. -/
def addContrib (room : Nat) (ps : List Partial) (c : Contrib) : Option (List Partial × Bool) :=
  let x := val32 c.value
  let here (p : Partial) : Bool := p.obj == c.obj && p.off == c.off
  if ps.any here then some (ps.map fun p => if here p then (p.add x).1 else p, ps.any fun p => here p && (p.add x).2)
  else if 16 * ps.length + 16 ≤ room then some (ps ++ [.one c.obj c.off x], false) else none

/-- The bytes of a team's shadow that its partials may take: 16 for each contribution still spilled there are not theirs (R269). -/
def Team.partialRoom (t : Team) : Nat := t.shadow - 16 * (t.buffer.filter (·.shadow)).length

/-- Fold contributions in order into a team's partials. -/
def flushInto (s : State) (tk : Nat) : List Contrib → State
  | [] => s
  | c :: t => match s.teams.find tk with
    | none => s
    | some tm => match addContrib tm.partialRoom tm.partials c with
      | none => fatalRecord s tk (noRoomRecord s tk c.thread c.obj c.off c.info)
      | some (ps, pair) =>
        flushInto ((s.setTeam tk fun tm => { tm with partials := ps }).raise (waveKey tk (c.thread / 32)) (flagIf pair fInvalid)) tk t

/-- A flush point of a team: the contributions that p selects go from buffer and shadow into the partials. -/
def flush (s : State) (tk : Nat) (p : Contrib → Bool) : State := match s.teams.find tk with
  | none => s
  | some tm =>
    let now := (tm.buffer.filter p).foldr insertContrib []
    flushInto (s.setTeam tk fun tm => { tm with buffer := tm.buffer.filter fun c => !p c }) tk now

/-- Flush several teams. -/
def flushAll (s : State) (p : Contrib → Bool) : List Nat → State
  | [] => s
  | tk :: r => flushAll (flush s tk p) p r

/-- An access is an ordered contribution. -/
def AKind.isOrdered : AKind → Bool
  | .ordered .. => true
  | _ => false

/-- The access has ended without being performed. -/
def ASt.dead : ASt → Bool
  | .faulted .. => true
  | .refused .. => true
  | _ => false

/-- A contribution of a team is still on its way to the buffer. -/
def orderedInFlight (s : State) (tk : Nat) : Bool := s.accesses.vals.any fun a => a.team == tk && a.kind.isOrdered && !a.st.dead

/-- The flush at a team's end (R270): made once every contribution it issued has been validated or refused. -/
def endFlush (s : State) (tk : Nat) : State :=
  if ((s.teams.find tk).any (·.ended)) && !orderedInFlight s tk then flush s tk fun _ => true else s

end Sys2Proof.Machine
end

