-- ==== Sys2Proof/Machine/MemSide.lean ====
section
/-! DEFINITION. What the memory side does with accesses in flight (09_global_memory R212 to R226; 11_atomics R260 to R268; 05_control R115, R116):
returns, acknowledgements, refusals, faults, the operand log and replay. -/
namespace Sys2Proof.Machine

/-! ### Looking at an access -/

/-- The byte ranges of an access, each with the threads it concerns. -/
def Access.ranges (a : Access) : List (List Nat × Nat × Nat) := match a.kind with
  | .load ps => ps.map fun p => (p.threads, p.off, p.size)
  | .tag g _ => [(a.threads, a.off, 32 * g)]
  | _ => [(a.threads, a.off, a.size)]

/-- Two ranges share a byte. -/
def rangesMeet (o1 n1 o2 n2 : Nat) : Bool := decide (o1 < o2 + n2) && decide (o2 < o1 + n1)

/-- Some thread makes both accesses to a common byte (R115, R312). -/
def ownOverlap (a b : Access) : Bool :=
  a.obj == b.obj && a.team == b.team && a.ranges.any fun x => b.ranges.any fun y =>
    (x.1.any fun t => y.1.contains t) && rangesMeet x.2.1 x.2.2 y.2.1 y.2.2

/-- The two accesses touch a common byte. -/
def anyOverlap (a b : Access) : Bool :=
  a.obj == b.obj && a.ranges.any fun x => b.ranges.any fun y => rangesMeet x.2.1 x.2.2 y.2.1 y.2.2

/-- Some thread makes both accesses. -/
def shareThread (a b : Access) : Bool := a.team == b.team && a.threads.any fun t => b.threads.contains t

/-- Put bytes of a number into a list from a place on. -/
def putBytes : List Nat → Nat → Nat → Nat → List Nat
  | bs, _, 0, _ => bs
  | bs, i, n + 1, v => putBytes (bs.set i (v % 256)) (i + 1) n (v / 256)

/-- A store into the engine buffer of a gang's active run. -/
def bufferWrite (s : State) (gk off n v : Nat) : State := s.setGang gk fun g => { g with relay := { g.relay with
  active := g.relay.active.map fun r => { r with buffer := putBytes r.buffer off n v } } }

/-! ### Order among accesses in flight -/

/-- A resolvable fault parks an access (R222). -/
def parks (c : Cause) : Bool := c == .pageNotPresent || c == .stage2

/-- A store is held at the memory port (R225): parked, or before a snapshot copy. -/
def heldStore (s : State) (f : Fn) (b : Access) : Bool := b.kind.inWindow && (match b.st with
  | .queued c _ => parks c
  | .resolving c => parks c
  | .issued => (checkAccess s f b == .snap)
  | _ => false)

/-- Some page of an access is of kind `st`, or may be. -/
def mayBeSt (s : State) (f : Fn) (b : Access) : Bool := (accessKinds s f b).any fun k => k == some 0 || k == none

/-- An earlier access b of the machine that a must wait for: R115 and R312 (own overlapping bytes), R314 and R225 (`st` pages of one object; any
store held there), R268 (contributions of a thread), R218 and R261 (lanes of one instruction). -/
def mustFollow (s : State) (f : Fn) (a b : Access) : Bool :=
  !b.st.dead &&
    (ownOverlap a b
      || (shareThread a b && a.obj == b.obj && (accessKinds s f a).contains (some 0) && (mayBeSt s f b || heldStore s f b))
      || (shareThread a b && a.kind.ty == .contrib && b.kind.ty == .contrib)
      || (a.xact == b.xact && (match a.kind, b.kind with
          | .atomic .., .atomic .. => b.st == .issued || anyOverlap a b
          | .store .., .store .. => anyOverlap a b
          | _, _ => false)))

/-- Access a may be performed now: nothing it must follow is outstanding. -/
def clearToGo (s : State) (f : Fn) (a : Access) : Bool :=
  s.accesses.all fun p => !(decide (p.2.seq < a.seq) && mustFollow s f a p.2)

/-! ### Performing -/

/-- Write registers of a thread from words, S clear. -/
def Thread.putWords (t : Thread) : List Nat → Nat → Thread
  | [], _ => t
  | r :: rs, m => (t.setV r ⟨BitVec.ofNat 32 m, false⟩).putWords rs (m / 4294967296)

/-- The two elements of a decoded block pair (R233): fields, S and flags. -/
def blockPair (conv : Conv) (data scale : Nat) : FRes × FRes :=
  match conv with
  | .zb4 => (holdBlock (zb4Val (data % 16) (scale % 256) (scale / 256)), holdBlock (zb4Val (data / 16 % 16) (scale % 256) (scale / 256)))
  | _ => (holdBlock (zb8Val .e4m3 (data % 256) (scale % 256)), holdBlock (zb8Val .e4m3 (data / 256 % 256) (scale % 256)))

/-- A load part writes its destination with the bytes m (R229, R231, R235, R160, R163); v: the half's validity bit. -/
def writePart (s : State) (tk : Nat) (p : LoadPart) (m : Nat) (v : Bool) : State :=
  let onT (g : Thread → Thread) : State := s.setThread (threadKey tk (p.threads.headD 0)) g
  let d := p.dst.headD 0
  match p.conv with
  | .zext _ => onT (·.setV d ⟨BitVec.ofNat 32 m, false⟩)
  | .sext n => onT (·.setV d ⟨BitVec.ofInt 32 (sextN (8 * n) m), false⟩)
  | .words _ => onT (·.putWords p.dst m)
  | .fmt f => onT (·.setV d ⟨BitVec.ofNat 32 (encodeF .f32 (decodeF f m)), false⟩)
  | .fill => onT (·.setV d ⟨BitVec.ofNat 32 m, bit m 32⟩)
  | .zb4 | .zb8 => match p.mate with
    | none => s
    | some other =>
      let r := if p.role = 1 then blockPair p.conv m other else blockPair p.conv other m
      (onT fun t => (t.setV d ⟨r.1.f, r.1.s⟩).setV (p.dst.getD 1 0) ⟨r.2.f, r.2.s⟩).raise p.wave (r.1.fl ||| r.2.fl)
  | .uni _ => s.setWave p.wave (·.setS d (BitVec.ofNat 64 m))
  | .cap => s.setWave p.wave (·.setC d ⟨BitVec.ofNat 128 m, v⟩)

/-- Give the other access of a block pair the bytes that have returned (R233). -/
def tellMate (s : State) (a : Access) (p : LoadPart) (m : Nat) : State :=
  if p.role = 0 then s else
  { s with accesses := s.accesses.mapVals fun _ b =>
      if b.xact = a.xact then { b with kind := (match b.kind with
        | .load ps => .load (ps.map fun q => if q.threads = p.threads ∧ q.role + p.role = 3 then { q with mate := some m } else q)
        | k => k) } else b }

/-- The bytes of a part's mate, where the same sector has just given them. -/
def withMate (told : List (LoadPart × Nat)) (p : LoadPart) : LoadPart :=
  match told.find? fun q => q.1.threads == p.threads && q.1.role + p.role == 3 with
  | some q => { p with mate := some q.2 }
  | none => p

/-- The bytes a part reads: as memory stands, or as it stood after write t (R322). -/
def State.readVal (s : State) (t : Option Nat) (a n : Nat) : Nat := match t with
  | none => readLE s.mem a n
  | some t => valueOf (s.seenAt t a n)

/-- The threads of a part have read these bytes (R312, R317). -/
def notePart (s : State) (a : Access) (p : LoadPart) (t : Option Nat) (phys : Nat) : State :=
  let ps := s.seenAt (t.getD s.writeNo) phys p.size
  s.onAgents (p.threads.map (threadKey a.team)) (·.read (seenView phys ps) (inScope s (.team a.team) (releasesOf ps)))

/-- The older values that parts of a load ask for, by place in the sector, may be read (R322). -/
def oldOk (s : State) (f : Fn) (a : Access) (old : Tab Nat) (ps : List LoadPart) : Bool := ps.zipIdx.all fun q => match old.find q.2 with
  | none => true
  | some t => match checkAt s f a q.1.off q.1.size with
    | .ok i => s.mayRead (q.1.threads.map fun u => (s.thread (threadKey a.team u)).agent) (.team a.team) i q.1.size t
    | _ => true

/-- The validity bit of the half at an address key: as it stands, or as it stood after write t (R143). -/
def State.validBit (s : State) (t : Option Nat) (a : Nat) : Bool := match t with
  | none => sget false s.valid (a / 16)
  | some t => s.validAt t a

/-- Perform the parts of a load sector from part k on; told: the parts done, with their bytes (one sector may hold both parts of a block pair). -/
def performParts (s : State) (f : Fn) (a : Access) (old : Tab Nat) (told : List (LoadPart × Nat)) : Nat → List LoadPart → State
  | _, [] => s
  | k, p :: r => match checkAt s f a p.off p.size with
    | .ok i =>
      let m := s.readVal (old.find k) i.phys p.size
      let s1 := tellMate (writePart s a.team (withMate told p) m (s.validBit (old.find k) i.phys)) a p m
      performParts (notePart s1 a p (old.find k) i.phys) f a old ((p, m) :: told) (k + 1) r
    | _ => performParts s f a old told (k + 1) r

/-- A launch loses its replayability (R423). -/
def loseReplay (s : State) (lk : Nat) : State := s.setLaunch lk fun l => { l with replayable := false }

/-- The launches other than lk that hold obj of function fn as a snapshot object lose their replayability (R423). -/
def outsideWrite (s : State) (fn : Nat) (lk : Option Nat) (obj : Nat) : State :=
  { s with launches := s.launches.mapVals fun k l =>
      if l.fn = fn ∧ some k ≠ lk ∧ l.snapObjs.contains obj then { l with replayable := false } else l }

/-- An atomic to a host-homed page or a host-visible object costs a launch its replayability, whatever it does there (R423). -/
def noteHost (s : State) (tk : Nat) (i : PageInfo) : State :=
  if i.home = 2 || i.hostvis then loseReplay s (launchOfGang (gangOfTeam tk)) else s

/-- What a write by a launch's access means for replay (R423): off the module's own HBM, or host-visible, or another launch's snapshot. -/
def noteWrite (s : State) (tk obj : Nat) (i : PageInfo) : State :=
  let lk := launchOfGang (gangOfTeam tk)
  let s := if i.home ≠ 0 || i.hostvis then loseReplay s lk else s
  outsideWrite s (s.fnOf lk) (some lk) obj

/-- The value an atomic leaves (none: it writes nothing) and its flags (R263 to R265). -/
def atomicNew (op a b m : Nat) (arm : RMode) : Option Nat × Flags5 :=
  let x := BitVec.ofNat 32 a
  let y := BitVec.ofNat 32 m
  match op with
  | 0 => (some ((m + a) % 2 ^ 32), 0)
  | 1 => (some ((m + a) % 2 ^ 64), 0)
  | 2 => (some (if x.slt y then a else m), 0)
  | 3 => (some (if y.slt x then a else m), 0)
  | 4 => (some (min m a), 0)
  | 5 => (some (max m a), 0)
  | 6 => (some (m &&& a), 0)
  | 7 => (some (m ||| a), 0)
  | 8 => (some (m ^^^ a), 0)
  | 9 => (some a, 0)
  | 10 => (if m = a then some b else none, 0)
  | _ => let r := fadd32 y x arm; (some r.f.toNat, r.fl)

/-- Recolour the granule of an access's page at its offset, clearing both validity bits (R162). -/
def recolour (s : State) (a : Access) (col : Nat) (p : PageInfo) : State :=
  noteWrite { s.forget p.phys 32 with
    colours := sset 0 s.colours (p.phys / 32) col
    valid := sset false (sset false s.valid (p.phys / 16) false) (p.phys / 16 + 1) false
    versions := bumpSectors s.versions (p.phys / 32) 1 } a.team a.obj p

/-- The access has ended. -/
def State.dropAcc (s : State) (id : Nat) : State := { s with accesses := s.accesses.del id }

/-- Set an access's state. -/
def State.setAcc (s : State) (id : Nat) (g : Access → Access) : State := { s with accesses := s.accesses.modify id g }

/-- Faults that counter 9 has counted for an access at its issue and that it has not met are taken back (log 12). -/
def State.unforesee (s : State) (a : Access) : State :=
  if a.foreseen = 0 then s else s.setGang (gangOfTeam a.team) (·.count 9 (2 ^ 64 - a.foreseen))

/-- The access named by an event, in flight, with its function. -/
def accOf (s : State) (id : Nat) : Option (Access × Fn) :=
  match s.accesses.find id with
  | some a => (fnOfTeam s a.team).map fun f => (a, f)
  | none => none

/-- An event that cannot happen now. -/
def notNow : Out := .refused .notEnabled

/-- Run an event on an access that is issued and clear to go. -/
def onReady (s : State) (id : Nat) (g : Access → Fn → Out) : Out :=
  match accOf s id with
  | some (a, f) => if a.st == .issued && clearToGo s f a then g a f else notNow
  | none => notNow

/-- The stack that holds a sector. -/
def stackOf (sector : Nat) : Nat := sector * 32 / Config.stackBytes

/-- A memory error is counted: 2 × stack for one corrected, 1 added for one that cannot be (R449). -/
def State.countError (s : State) (k : Nat) : State := { s with errorCounts := sset 0 s.errorCounts k (sget 0 s.errorCounts k + 1) }

/-- A program reads a sector: where it is correctable the data is corrected, and its stack counts that (R425, R449). That the reads of lanes, subsets and
atomics count, and no other agent's, is DESIGN CHOICE (log 4). -/
def State.corrected (s : State) (a : Nat) : State :=
  if sget .ok s.ecc (a / 32) = .correctable then s.countError (2 * stackOf (a / 32)) else s

/-- LOAD_SECTOR_RETURN (R217): each part of the sector reads memory as it stands, or as it stood after an earlier write (R322). -/
def execLoadSectorReturn (ret : SectorReturn) (s : State) : Out := onReady s ret.acc fun a f => match a.kind with
  | .load ps => match checkAccess s f a with
    | .ok i => if oldOk s f a ret.old ps then .next (((performParts (s.corrected i.phys) f a ret.old [] 0 ps).unforesee a).dropAcc ret.acc).wake else notNow
    | .bad => .fault .noMemory
    | _ => notNow
  | _ => notNow

/-- The threads of an access have made write no of its bytes. -/
def State.noteMade (s : State) (a : Access) (i : PageInfo) (no : Nat) : State :=
  s.onAgents (a.threads.map (threadKey a.team)) (·.made (View.ofWrite (i.kind == 2) no i.phys a.size))

/-- A write of an access is made: memory, the validity bit of its half, what it releases, and what it means for replay. rmw: a read-modify-write, which
passes on what the write before it releases at each byte, and whose own release is at its object's scope for atomics (R318). -/
def writeAcc (s : State) (a : Access) (i : PageInfo) (v : Nat) (valid rmw : Bool) : State :=
  let m : Made := ⟨.team a.team, s.writeNo + 1, valid, relOf (.team a.team) i.atomScope (i.kind == 2) a.rel, rmw⟩
  noteWrite ((s.writeAs m i.phys a.size v).noteMade a i (s.writeNo + 1)) a.team a.obj i

/-- The thread of an atomic has read its word; of order acq or ar, it acquires at its object's scope (R317, R319). -/
def noteAtomic (s : State) (a : Access) (i : PageInfo) : State :=
  let ps := s.seenAt s.writeNo i.phys a.size
  let met := inScope s (.team a.team) (releasesOf ps)
  s.onAgents (a.threads.map (threadKey a.team)) fun g =>
    let g := g.read (seenView i.phys ps) met
    if a.acq then g.acquireIn false i.atomScope met else g

/-- ATOMIC_PERFORMED (R260, R261, R264): one indivisible step at the home; the return arrives. It acts on the newest write, and passes on what that
releases (R318). -/
def execAtomicPerformed (id : Nat) (s : State) : Out := onReady s id fun a f => match a.kind with
  | .atomic op x y arm dst => match checkAccess s f a with
    | .ok i =>
      let m := readLE s.mem i.phys a.size
      let r := atomicNew op x y m arm
      let s0 := noteAtomic (s.corrected i.phys) a i
      let s1 := match r.1 with
        | some v => writeAcc s0 a i v false true
        | none => noteHost s0 a.team i
      let t := a.threads.headD 0
      let s2 := s1.setThread (threadKey a.team t) (·.putWords dst m)
      .next ((((s2.raise (waveKey a.team (t / 32)) r.2).unforesee a).dropAcc id).wake)
    | .bad => .fault .noMemory
    | _ => notNow
  | _ => notNow

/-- STORE_ACKNOWLEDGED (R115): the store or CST is performed and leaves the store window; a CTAG recolours its next granule, and leaves after the
last (R162). -/
def execStoreAcknowledged (id : Nat) (s : State) : Out := onReady s id fun a f => match a.kind with
  | .store data cb => match checkAccess s f a with
    | .ok i =>
      match toBuffer s a with
      | some p => .next ((bufferWrite s p a.off a.size data).dropAcc id).wake
      | none =>
      let s1 := writeAcc s a i data (cb.getD false) false
      let s2 := match cb with
        | some b => { s1 with valid := sset false s1.valid (i.phys / 16) b }
        | none => s1
      .next (s2.dropAcc id).wake
    | .bad => .fault .noMemory
    | _ => notNow
  | .tag g col => match checkAccess s f a with
    | .ok p =>
      let s1 := recolour s a col p
      if g ≤ 1 then .next (s1.dropAcc id).wake else .next (s1.setAcc id fun x => { x with kind := .tag (g - 1) col, off := a.off + 32 }).wake
    | .bad => .fault .noMemory
    | _ => notNow
  | _ => notNow

/-- A team's contributions in its core's ordered buffer (R269). -/
def Team.unspilled (t : Team) : Nat := (t.buffer.filter fun c => !c.shadow).length

/-- Entries of the core's ordered buffer in use (R269). -/
def bufferUse (s : State) (core : Nat) : Nat := ((teamsOn s core).map (·.2.unspilled)).sum

/-- Bytes of a team's shadow in use: 16 for each spilled contribution and each partial (R269). -/
def shadowUse (t : Team) : Nat := 16 * (t.buffer.filter (·.shadow)).length + 16 * t.partials.length

/-- ORDERED_VALIDATE (R267, R269): the contribution enters the buffer, or the shadow, and is acknowledged.
A full shadow ends the launch: the event writes the fatal record, which LAUNCH's own rules then carry out. -/
def execOrderedValidate (id : Nat) (s : State) : Out := onReady s id fun a f => match a.kind with
  | .ordered v sq bars => match checkAccess s f a, s.teams.find a.team with
    | .ok i, some t =>
      let full := decide (2048 ≤ bufferUse s t.core)
      if full && decide (t.shadow < shadowUse t + 16) then
        .next ((fatalRecord s a.team (noRoomRecord s a.team (a.threads.headD 0) a.obj a.off a.info)).dropAcc id).wake
      else
        .next (((outsideWrite (noteHost s a.team i) (s.fnOf (launchOfGang (gangOfTeam a.team))) (some (launchOfGang (gangOfTeam a.team))) a.obj).setTeam a.team fun t =>
          { t with buffer := t.buffer ++ [⟨a.obj, a.off, a.threads.headD 0, sq, v, full, bars, a.info⟩] }).dropAcc id |> (endFlush · a.team)).wake
    | .bad, _ => .fault .noMemory
    | _, _ => notNow
  | _ => notNow

/-! ### Faults -/

/-- Instructions of some teams that hold an operand-log entry (R220). -/
def logUsersOf (s : State) (tks : List Nat) : List Nat := ((s.accesses.vals.filter fun a => a.logged && tks.contains a.team).map (·.xact)).eraseDups

/-- Instructions that hold an entry of a core's operand log: of the teams that have their places there. -/
def logUsers (s : State) (core : Nat) : List Nat := logUsersOf s ((teamsOn s core).map (·.1))

/-- An access's instruction holds an entry of its core's operand log. -/
def hasEntry (s : State) (a : Access) : Bool := (logUsers s (coreOf s a.team)).contains a.xact

/-- Its core's 64-entry operand log has a free entry. -/
def logRoom (s : State) (a : Access) : Bool := decide ((logUsers s (coreOf s a.team)).length < 64)

/-- The memory port of its die that an access uses (R11). -/
def Access.port (a : Access) : Nat := Config.memoryPort a.obj (a.off / 32) % 8

/-- Another access of the same core waits in the same port's fault queue, entered before number n (R221). -/
def queuedBefore (s : State) (a : Access) (n : Nat) : Bool := s.accesses.vals.any fun b => match b.st with
  | .queued _ m => decide (m < n) && coreOf s b.team == coreOf s a.team && b.port == a.port
  | _ => false

/-- The state a failed access takes with its log entry (R222, R226). -/
def failedState (k : AKind) (c : Cause) (fatal : Bool) : ASt :=
  match c with
  | .pageNotPresent | .stage2 => if fatal then (if k.inWindow then .refused c fatal else .faulted c fatal) else .resolving c
  | _ => if k.inWindow then .refused c fatal else .faulted c fatal

/-- An uncorrectable error of the launch is answered by a replay (R391, R423). -/
def replays (s : State) (lk : Nat) : Bool := (s.launches.find lk).any (·.replayable)

/-- The launch has consumed uncorrectable data (R423). -/
def State.consume (s : State) (lk : Nat) : State := s.setLaunch lk fun l => { l with consumed := true }

/-- An access takes its log entry and its state; a dropped store is counted in the function's status (R426). A refused contribution may have been its
ended team's last on the way (R270). -/
def enterFault (s : State) (id : Nat) (a : Access) (c : Cause) : State :=
  let lk := launchOfGang (gangOfTeam a.team)
  let s := s.setAcc id fun x => { x with st := failedState a.kind c false, logged := true }
  let s := if c = .linkPoison && a.kind.inWindow then s.setFn (s.fnOf lk) fun f => { f with dropped := f.dropped + 1 } else s
  let s := if c = .uncorrectable && replays s lk then (s.consume lk).setAcc id fun x => { x with st := .resolving c } else s
  endFlush s a.team

/-- The fault a failing check gives. -/
def Chk.cause : Chk → Option (Cause × Nat)
  | .fail c g => some (c, g)
  | _ => none

/-- Count a faulted load that its issue did not foresee (R388 sel 9, log 12); one met while the clock is halted counts when issue restarts. -/
def Gang.countFault (g : Gang) : Gang := if g.inService then g.count 9 1 else { g with owed := g.owed + 1 }

/-- A load's access that is left with some of its parts: its offset and size are those of the first. -/
def Access.withParts (a : Access) (ps : List LoadPart) : Access :=
  { a with kind := .load ps, threads := (ps.flatMap (·.threads)).eraseDups
           off := (ps.head?.map (·.off)).getD a.off, size := (ps.head?.map (·.size)).getD a.size }

/-- MEMORY_SIDE_FAULT (R216, R219 to R222): the lanes that fail as the first one does park with an operand-log entry, or wait in the fault queue when
the log is full; the other lanes of the same sector go on by themselves, in the place of the whole. An access that holds its entry already keeps it, and one whose
instruction holds an entry needs no other (R220). -/
def execMemorySideFault (id : Nat) (s : State) : Out := onReady s id fun a f =>
  match checkAccess s f a with
  | .bad => .fault .noMemory
  | .ok _ => notNow
  | .snap => notNow
  | .fail c g =>
    let same (p : LoadPart) : Bool := checkAt s f a p.off p.size == .fail c g
    let sp : State × Access := match a.kind with
      | .load ps =>
        let bad := { a.withParts (ps.filter same) with guest := g, foreseen := 0 }
        let rest := ps.filter fun p => !same p
        let s1 := s.setAcc id fun _ => bad
        if rest.isEmpty then (s1, bad)
        else ({ s1 with accesses := s1.accesses.put s.nextId { a.withParts rest with foreseen := a.foreseen - 1 }, nextId := s.nextId + 1 }, bad)
      | _ => (s.setAcc id fun x => { x with guest := g, foreseen := 0 }, { a with guest := g, foreseen := 0 })
    let s := if a.kind.inWindow || a.logged || decide (0 < a.foreseen) then sp.1 else sp.1.setGang (gangOfTeam a.team) (·.countFault)
    if a.logged || hasEntry s sp.2 || (logRoom s sp.2 && !queuedBefore s sp.2 s.nextId) then .next (enterFault s id sp.2 c).wake
    else .next ({ s with nextId := s.nextId + 1 }.setAcc id fun x => { x with st := .queued c s.nextId })

/-- FAULT_ENTERS_LOG (R221): the first fault of the core in its port's queue takes a freed entry; one whose instruction has meanwhile taken its entry
needs none. -/
def execFaultEntersLog (id : Nat) (s : State) : Out := match s.accesses.find id with
  | some a => match a.st with
    | .queued c n => if hasEntry s a || (!queuedBefore s a n && logRoom s a) then .next (enterFault s id a c).wake else notNow
    | _ => notNow
  | none => notNow

/-- The groups whose instruction fetch is the access id. -/
def fetchersOf (s : State) (id : Nat) : List Nat := (s.groups.filter fun p => p.2.status == .fetching id).map (·.1)

/-- A parked fetch ends: its group fetches again. -/
def refetch (s : State) (id : Nat) : State :=
  { s.dropAcc id with groups := s.groups.mapVals fun _ g => if g.status = .fetching id then { g with status := .ready } else g }

/-- FAULT_REPLAY (R222, R438): a resolved access is replayed through R216; the replay of a fetch fetches again. The accesses of a gang
whose issue has stopped wait for its restart. -/
def execFaultReplay (id : Nat) (s : State) : Out := match accOf s id with
  | some (a, f) => match a.st with
    | .resolving c =>
      if !teamServed s a.team || !parks c then notNow
      else match a.kind with
        | .fetch => match checkAt s f a a.off a.size with
          | .fail .pageNotPresent _ => .next s
          | .fail .stage2 gp => .next (s.setAcc id fun x => { x with guest := gp })
          | .bad => .fault .noMemory
          | _ => .next (refetch s id)
        | _ => .next (s.setAcc id fun x => { x with st := .issued, pins := [] }).wake
    | _ => notNow
  | none => notNow

/-- A parked fetch is declared fatal: the group traps at the instruction, with word 0 (R87). -/
def fetchFatal (s : State) (id : Nat) (a : Access) (c : Cause) (fatal : Bool) : State :=
  match fetchersOf s id with
  | gkey :: _ =>
    takeTrap (s.dropAcc id) gkey
      { cause := c, thread := a.threads.headD 0, pc := a.info.pc, word := a.info.word, fatal := fatal
        object := if c = .stage2 then a.obj else 0, offset := if c = .stage2 then a.off else 0
        heat := a.info.heat, heatPos := a.info.heatPos, pathB := a.info.pathB.contains (a.threads.headD 0) }
  | [] => s.dropAcc id

/-- An access declared fatal (R222, R225, R226): a load traps at its park point, a held store is refused, a fetch traps its group. none: it is not
parked. -/
def accFatal (s : State) (id : Nat) : Option State := match s.accesses.find id with
  | some a => match a.st with
    | .resolving c =>
      if !parks c then none
      else match a.kind with
        | .fetch => some (fetchFatal s id a c false)
        | k => some (endFlush (s.setAcc id fun x => { x with st := if k.inWindow then .refused c false else .faulted c false }) a.team).wake
    | _ => none
  | none => none

/-- The access of the lowest-ranked thread among refused ones (R226). -/
def lowestOf : List Access → Option Access
  | [] => none
  | a :: t => match lowestOf t with
    | none => some a
    | some b => if a.threads.headD 0 ≤ b.threads.headD 0 then some a else some b

/-- The cause with which a store is refused, and whether it is fatal. -/
def ASt.refusal : ASt → Cause × Bool
  | .refused c f => (c, f)
  | _ => (.pagePermission, false)

/-- The record of refused accesses of one instruction (R226, R426): it names the lowest-ranked refused lane, with that lane's cause. Of a CTAG
refused part-way it holds the refused granule's offset: DESIGN CHOICE, R226 does not say which (log 31). -/
def refusalArgs (s : State) (a : Access) (as : List Access) : TrapArgs :=
  let x := (lowestOf as).getD a
  let th := x.threads.headD 0
  let c := x.st.refusal.1
  { cause := c, thread := th, pc := x.info.pc, word := x.info.word, object := x.obj, offset := x.off
    deferredPrecise := true, fatal := x.st.refusal.2
    deferred := if c = .linkPoison then
        (s.accesses.vals.filter fun y => y.team == x.team && y.threads.contains th && y.st.refusal.1 == .linkPoison).length
      else deferredSince s x.team th x.info
    heat := x.info.heat, heatPos := x.info.heatPos, pathB := x.info.pathB.contains th, resume := .boundary }

/-- The group that holds a thread. -/
def groupOf (s : State) (tk t : Nat) : Option (Nat × Group) :=
  (s.groups.find? fun p => teamOfGroup p.1 == tk && p.2.lanes.contains t).map fun p => (p.1, p.2)

/-- The age limit of a team's function, in core cycles (R105). -/
def ageLimitOf (s : State) (tk : Nat) : Nat := ((fnOfTeam s tk).map (·.ageLimit)).getD 256

/-- Take a thread out of its bin (R116): that bin, no longer full, stays eligible where it has aged or its wave is being formed (R105, R418). -/
def unbin (s : State) (tk t : Nat) : State :=
  let without (b : Bin) : Bin := if b.threads.contains t then
      { b with threads := b.threads.filter fun u => u != t, eligible := b.eligible && (isDet s tk || decide (ageLimitOf s tk * 16 ≤ b.age)) } else b
  s.setTeam tk fun x => { x with bins := (x.bins.map without).filter fun b => !b.threads.isEmpty }

/-- The PC under which a thread is filed. -/
def binPc (s : State) (tk t : Nat) : Nat :=
  match s.teams.find tk with
  | some x => ((x.bins.find? fun b => b.threads.contains t).map (·.pc)).getD 0
  | none => 0

/-- A refused access leaves its thread: the threads it still concerns. -/
def settle (s : State) (ids : List Nat) (ts : List Nat) : State :=
  { s with accesses := (s.accesses.map fun p => if ids.contains p.1 then
      (p.1, { p.2 with threads := p.2.threads.filter fun t => !ts.contains t }) else p).filter fun p =>
        !(ids.contains p.1 && p.2.threads.isEmpty) }

/-- Split lanes off a group into a group slot, where they stand as they stood (R145). -/
def splitOff (s : State) (gkey slot : Nat) (g : Group) (ls : List Nat) : State :=
  { s with
    groups := (s.groups.put gkey { g with lanes := g.lanes.filter fun t => !ls.contains t }).put (groupKey (teamOfGroup gkey) slot)
      { g with lanes := ls, formed := s.nextId }
    nextId := s.nextId + 1 }

/-- A refused access is one of a uniform instruction: the set is that of the operation its word names (R95). -/
def uniformStore (s : State) (a : Access) : Bool := (fnOfTeam s a.team).any fun f => decide (1024 ≤ opKey f a.info.word)

/-- The lanes of a group that a refused access stops: of a uniform store the lanes of its subset, which a mixed group's others outlive
(R145); of a lane store the whole group (R136). -/
def stopLanes (s : State) (g : Group) (a : Access) : List Nat := if uniformStore s a then g.lanes.filter fun t => a.threads.contains t else g.lanes

/-- Stop the lanes of a group that a refused access stops. none: no free slot for a subset that must leave its group (it waits; log 31). -/
def stopRefused (s : State) (gkey : Nat) (g : Group) (a : Access) (args : TrapArgs) : Option State :=
  let ls := stopLanes s g a
  if ls.length = g.lanes.length then some (takeTrap s gkey args)
  else (freeSlot s (coreOf s a.team)).map fun slot => takeTrap (splitOff s gkey slot g ls) (groupKey a.team slot) args

/-- An access whose answer is still to come: on its way, or refused with its entry of the operand log to come. -/
def Access.unanswered (a : Access) : Bool := match a.st with
  | .issued => true
  | .queued c _ => !parks c
  | _ => false

/-- STORE_REFUSED (R226, R116, R145): the negative acknowledgement arrives. The thread's group, or of a uniform store its subset, stops at this
boundary with one record for the instruction's lanes in it; a thread in a bin is taken out and stopped alone; exited threads get a record that
stops nothing. It arrives once every lane of the instruction has been answered or held (log 16), and waits where the stopped thread needs a group
slot and none is free: DESIGN CHOICE, the spec gives it none (log 31). -/
def execStoreRefused (id : Nat) (s : State) : Out := match s.accesses.find id with
  | none => notNow
  | some a => match a.st with
    | .refused .. =>
      let mates := s.accesses.filter fun p => p.2.xact == a.xact && p.2.team == a.team
      let t := a.threads.headD 0
      let uniform := uniformStore s a
      if !uniform && mates.any fun p => p.2.unanswered then notNow else
      let reds := mates.filter fun p => (match p.2.st with | .refused .. => true | _ => false) && (!uniform || p.1 == id)
      match (s.thread (threadKey a.team t)).status with
      | .exited =>
        let gone (u : Nat) : Bool := (s.thread (threadKey a.team u)).status == .exited
        let mine := reds.filter fun p => p.2.threads.any gone
        .next (settle (recordOnly s a.team (refusalArgs s a (mine.map (·.2)))) (mine.map (·.1)) (mine.flatMap fun p => p.2.threads.filter gone)).wake
      | .grouped => match groupOf s a.team t with
        | none => notNow
        | some (gkey, g) =>
          if g.status == .ready || g.status == .waiting then
            let mine := reds.filter fun p => p.2.threads.any fun u => g.lanes.contains u
            match stopRefused s gkey g a (refusalArgs s a (mine.map (·.2))) with
            | some s1 => .next (settle s1 (mine.map (·.1)) (stopLanes s g a)).wake
            | none => notNow
          else notNow
      | .filed => match s.teams.find a.team with
        | none => notNow
        | some x => match freeSlot s x.core with
          | none => notNow
          | some slot =>
            let mine := reds.filter fun p => p.2.threads.contains t
            let s1 := (unbin s a.team t).putGroup a.team slot (binPc s a.team t) [t] .ready
            .next (settle (takeTrap s1 (groupKey a.team slot) { refusalArgs s a (mine.map (·.2)) with thread := t }) (mine.map (·.1)) [t]).wake
    | _ => notNow

/-- Write table entries of 8 bytes at physical addresses. -/
def writeTable (s : State) : List (Nat × Nat) → Option State
  | [] => some s
  | (a, v) :: t => if physExists a && physExists (a + 7) then writeTable (s.writeMem a 8 v) t else none

/-- The pages an access touches. -/
def Access.pages (a : Access) : List Nat :=
  let n := match a.kind with | .tag g _ => 32 * g | _ => a.size
  if n = 0 then [] else (List.range ((a.off + n - 1) / 65536 - a.off / 65536 + 1)).map (a.off / 65536 + ·)

/-- The translations an access has made so far, kept (R212). -/
def Access.pinned (s : State) (f : Fn) (a : Access) : Access :=
  { a with pins := a.pages.filterMap fun p => match a.xlate s f (max a.off (p * 65536)) with
    | .ok i => some (p, i)
    | _ => none }

/-- The physical address of the page entry of a page of an object. -/
def entryPhys (s : State) (f : Fn) (obj page : Nat) : Option Nat := match walkDesc s.mem f obj with
  | .ok d0 _ => (guestPhys s.mem f.stage2 (d0 + page * 8)).map (·.1)
  | .fail .. => none

/-- Set or clear bit k of the 8 bytes at an address. -/
def setMemBit (s : State) (a k : Nat) (b : Bool) : State :=
  let v := readLE s.mem a 8
  let w := if b then (if bit v k then v else v + 2 ^ k) else (if bit v k then v - 2 ^ k else v)
  if w = v || !physExists a then s else s.writeMem a 8 w

/-- A launch has taken a page of an object away by EVICT: its service context gives it back, and no fault there is declared fatal (R437). -/
def evictedPage (s : State) (lk obj page : Nat) : Bool := (s.launches.find lk).any fun l => l.evicted.contains (obj, page)

/-- An access of a launch, or an engine's for it, waits at a page of an object that is not present. -/
def parkedAt (s : State) (lk obj page : Nat) : Bool :=
  (s.accesses.vals.any fun a => a.st == .resolving .pageNotPresent && launchOfGang (gangOfTeam a.team) == lk && a.obj == obj && a.off / 65536 == page) ||
  s.gangs.any fun p => launchOfGang p.1 == lk &&
    (p.2.channels.vals.filterMap (fun ch => ch.op.bind (·.parked)) ++ ((p.2.relay.active.orElse fun _ => p.2.relay.queue.head?).bind (·.parked)).toList).any
      fun e => e.1 == .pageNotPresent && e.2.1 == obj && e.2.2 / 65536 == page

/-- Give a page that a launch's EVICT took away back to it; its entry is present again once no launch has it evicted (R437). -/
def restorePage (lk : Nat) (f : Fn) (s : State) (p : Nat × Nat) : State :=
  let s1 := s.setLaunch lk fun l => { l with evicted := l.evicted.filter (· != p) }
  if s1.launches.any fun x => x.2.fn == s.fnOf lk && x.2.evicted.contains p then s1
  else match entryPhys s1 f p.1 p.2 with
    | some a => setMemBit s1 a 0 true
    | none => s1

/-- MEMORY_PORT_INVALIDATE (R212): the table entries a service context has changed take effect for later translations; kept names the accesses in
flight that had translated before, which complete under the old entries. Translation here reads the tables themselves, so the change and the
invalidation are one act. back: pages that launches of the function have evicted and wait at, given back (R437). -/
def execMemoryPortInvalidate (fn : Nat) (change : TableChange) (s : State) : Out :=
  match s.fns.find fn with
  | none => notNow
  | some f =>
    let keep (id : Nat) (a : Access) : Access :=
      if change.kept.contains id && a.st == .issued && s.fnOf (launchOfGang (gangOfTeam a.team)) == fn then a.pinned s f else a
    if !(change.back.all fun b => s.fnOf b.1 == fn && evictedPage s b.1 b.2.1 b.2.2 && parkedAt s b.1 b.2.1 b.2.2) then notNow
    else match writeTable { s with accesses := s.accesses.mapVals keep } change.writes with
    | some s => .next (change.back.foldl (fun s b => restorePage b.1 f s b.2) s)
    | none => .fault .noMemory

end Sys2Proof.Machine
end

