-- ==== Sys2Proof/Machine/Atomic.lean ====
section
/-! DEFINITION. Global atomics at issue (11_atomics R260 to R268), and the release of STUL. What the home does with them stands in MemSide. -/
namespace Sys2Proof.Machine

/-- The waits before a release (R262 order rel): earlier loads and returning atomics, then stores to `st` and `rc` pages. -/
def Ctx.release (c : Ctx) (s : State) : Waited := match c.waitLoads s with
  | .go => if storesPending s c.fn c.tk (c.lanes.map (·.t)) false then .wait else .go
  | w => w

/-- Run an effect after a wait. -/
def afterWait (w : Waited) (e : Eff) : Eff := match w with
  | .go => e
  | .wait => .wait
  | .park x => .park x

/-- Later memory instructions of the group wait for this one (R262 order acq). -/
def acquireAfter (c : Ctx) (s : State) : State := s.setGroup c.gkey fun g => { g with acquires := g.acquires ++ [c.xact] }

/-- The operands of a returning atomic in a lane: vt, and vt + 1 as the high half or as the new value. -/
def atomicOperands (op : Nat) (c : Ctx) (l : Lane) (t : Nat) : Nat × Nat :=
  let x := (c.src l t).f.toNat
  let y := (c.src l (t + 1)).f.toNat
  if op = 1 then (x + 4294967296 * y, 0) else (x, if op = 10 then y else 0)

/-- A returning global atomic (R261 to R264). r: the order field. -/
def gatomic (op n : Nat) (r t x b l : Nat) : Iss :=
  let wide := op == 1 || op == 10
  let span := if wide then [t, t + 1] else [t]
  let dst := if op == 1 then [t, t + 1] else [t]
  { la := some l
    load := false
    mem := true
    names := fun c => vNames (x :: span) c ++ cNames [b] c
    dests := vNames dst
    eff := fun c s => afterWait (if r ≥ 2 then c.release s else .go) <|
      match checkWants c (c.lanes.map fun l => ([l.t], l.wk, ⟨l.wv.getC b, laneOffset (c.src l x) n 0, n, [.r, .w]⟩)) with
      | .error e => .trap e
      | .ok qs =>
        let info := c.issued (x :: span)
        let accs := (qs.zip c.lanes).map fun q =>
          let v := atomicOperands op c q.2 t
          { writeAccess c info q.1 (.atomic op v.1 v.2 (armOf q.2.wv.mode) (dst.map (c.reg q.2))) (decide (2 ≤ r)) with acq := r % 2 == 1 }
        let sent := foresee s c.fn accs
        let s := (s.launchAccs sent).setGang c.gk (·.count 9 (sent.map (·.foreseen)).sum)
        .done (if r % 2 = 1 then acquireAfter c s else s) }

/-- AADD.i32 (R263, R264). -/
def issAaddI32 (r t x b l : Nat) : Iss := gatomic 0 4 r t x b l
/-- AaddI32, issued. -/
def execAaddI32 (r t x b l : Nat) (s : State) : Out := issue (issAaddI32 r t x b l) s
/-- AADD.i64 (R263, R264). -/
def issAaddI64 (r t x b l : Nat) : Iss := gatomic 1 8 r t x b l
/-- AaddI64, issued. -/
def execAaddI64 (r t x b l : Nat) (s : State) : Out := issue (issAaddI64 r t x b l) s
/-- AMIN.i32 (R263, R264). -/
def issAminI32 (r t x b l : Nat) : Iss := gatomic 2 4 r t x b l
/-- AminI32, issued. -/
def execAminI32 (r t x b l : Nat) (s : State) : Out := issue (issAminI32 r t x b l) s
/-- AMAX.i32 (R263, R264). -/
def issAmaxI32 (r t x b l : Nat) : Iss := gatomic 3 4 r t x b l
/-- AmaxI32, issued. -/
def execAmaxI32 (r t x b l : Nat) (s : State) : Out := issue (issAmaxI32 r t x b l) s
/-- AMIN.n32 (R263, R264). -/
def issAminN32 (r t x b l : Nat) : Iss := gatomic 4 4 r t x b l
/-- AminN32, issued. -/
def execAminN32 (r t x b l : Nat) (s : State) : Out := issue (issAminN32 r t x b l) s
/-- AMAX.n32 (R263, R264). -/
def issAmaxN32 (r t x b l : Nat) : Iss := gatomic 5 4 r t x b l
/-- AmaxN32, issued. -/
def execAmaxN32 (r t x b l : Nat) (s : State) : Out := issue (issAmaxN32 r t x b l) s
/-- AAND (R263, R264). -/
def issAand (r t x b l : Nat) : Iss := gatomic 6 4 r t x b l
/-- Aand, issued. -/
def execAand (r t x b l : Nat) (s : State) : Out := issue (issAand r t x b l) s
/-- AOR (R263, R264). -/
def issAor (r t x b l : Nat) : Iss := gatomic 7 4 r t x b l
/-- Aor, issued. -/
def execAor (r t x b l : Nat) (s : State) : Out := issue (issAor r t x b l) s
/-- AXOR (R263, R264). -/
def issAxor (r t x b l : Nat) : Iss := gatomic 8 4 r t x b l
/-- Axor, issued. -/
def execAxor (r t x b l : Nat) (s : State) : Out := issue (issAxor r t x b l) s
/-- AXCHG (R263, R264). -/
def issAxchg (r t x b l : Nat) : Iss := gatomic 9 4 r t x b l
/-- Axchg, issued. -/
def execAxchg (r t x b l : Nat) (s : State) : Out := issue (issAxchg r t x b l) s
/-- ACAS (R263, R264). -/
def issAcas (r t x b l : Nat) : Iss := gatomic 10 4 r t x b l
/-- Acas, issued. -/
def execAcas (r t x b l : Nat) (s : State) : Out := issue (issAcas r t x b l) s
/-- AADD.f32.u (R263, R264). -/
def issAaddF32U (r t x b l : Nat) : Iss := gatomic 11 4 r t x b l
/-- AaddF32U, issued. -/
def execAaddF32U (r t x b l : Nat) (s : State) : Out := issue (issAaddF32U r t x b l) s

/-- AADD.f32.o (R267): a contribution in each lane, with its thread's sequence number. -/
def issAaddF32O (t x b l : Nat) : Iss :=
  { la := some l
    mem := true
    names := fun c => vNames [x, t] c ++ cNames [b] c
    eff := fun c s =>
      match checkWants c (c.lanes.map fun l => ([l.t], l.wk, ⟨l.wv.getC b, laneOffset (c.src l x) 4 0, 4, [.w]⟩)) with
      | .error e => .trap e
      | .ok qs =>
        if windowFits c s qs then
          .done (sendStores c (eachLane c s fun l => ⟨{ l.th with ordSeq := l.th.ordSeq + 1 }, 0⟩) (c.issued [x, t])
            ((qs.zip c.lanes).map fun q => (q.1, .ordered (c.src q.2 t).f q.2.th.ordSeq q.2.th.bar)))
        else .wait }
/-- AaddF32O, issued. -/
def execAaddF32O (t x b l : Nat) (s : State) : Out := issue (issAaddF32O t x b l) s

/-- STUL (R275): the waits of a release at `.core`, then the store and the freeing of the lock bit. -/
def issStul (t x k l : Nat) : Iss :=
  let i := stulIss t x k l
  { i with eff := fun c s => afterWait (c.release s) (i.eff c s) }
/-- Stul, issued. -/
def execStul (t x k l : Nat) (s : State) : Out := issue (issStul t x k l) s

end Sys2Proof.Machine
end

