-- ==== Sys2Proof/Machine/Control.lean ====
section
/-! DEFINITION. Control and divergence instructions (05_control R117 to R133). -/
namespace Sys2Proof.Machine

/-! ### Shapes -/

/-- A window end that a heat forbids (R112, R131). At its issue no window is open; the names it reads and writes serve the finaliser's la rule (R33). -/
def endIss (guard : Nat) (f : Ctx → State → Eff) : Iss where
  uniform := true
  forbid := true
  wend := true
  guard := guard
  eff := f

/-- The group's threads go to their next places (R102): whole when code capability and PC agree, else it dissolves.
A dissolution that finds neither a bin nor a slot waits (log 15). -/
def proceed (c : Ctx) (s : State) (nexts : List (Nat × Cap × Nat)) : Eff :=
  let s1 := countIssue s c true
  if allSame (nexts.map (·.2)) then .jump (s1.goto c.gkey ((nexts.map (·.2.2)).headD c.g.pc))
  else match dissolve s1 c.gkey (nexts.map fun n => (n.1, n.2.2)) with
    | some s2 => .jump s2
    | none => .waitAs (s.setStuck c.gkey)

/-- The code capability of a lane's wave. -/
def Lane.code (l : Lane) : Cap := l.wv.getC 31

/-- A conditional branch (R119, R120). -/
def branch (o : Nat) (take : Lane → Bool) : Iss := endIss 0 fun c s =>
  proceed c s (c.lanes.map fun l => (l.t, l.code, if take l then branchTarget c.g.pc o else c.g.pc + 4))

/-- BQ (R120). -/
def issBq (k o : Nat) : Iss := branch o fun l => l.wv.getQ k
/-- Bq, issued. -/
def execBq (k o : Nat) (s : State) : Out := issue (issBq k o) s
/-- BQN (R120). -/
def issBqn (k o : Nat) : Iss := branch o fun l => !l.wv.getQ k
/-- Bqn, issued. -/
def execBqn (k o : Nat) (s : State) : Out := issue (issBqn k o) s
/-- BRL (R120). -/
def issBrl (k o : Nat) : Iss := { branch o (fun l => l.th.getP k) with names := pNames [k] }
/-- Brl, issued. -/
def execBrl (k o : Nat) (s : State) : Out := issue (issBrl k o) s
/-- BRLN (R120). -/
def issBrln (k o : Nat) : Iss := { branch o (fun l => !l.th.getP k) with names := pNames [k] }
/-- Brln, issued. -/
def execBrln (k o : Nat) (s : State) : Out := issue (issBrln k o) s

/-- CALL (R121): s62 of each subset gets the return address; every subset reaches the same target. -/
def issCall (o : Nat) : Iss :=
  { endIss 0 (fun c s =>
      .jump ((countIssue (eachSub c s fun w => w.wv.setS 62 (BitVec.ofNat 64 (c.g.pc + 4))) c true).goto c.gkey (branchTarget c.g.pc o))) with
    names := sNames [62] }
/-- Call, issued. -/
def execCall (o : Nat) (s : State) : Out := issue (issCall o) s

/-- The first subset, in ascending wave-of-origin, at which a check fails: the trap names its lowest-ranked thread (R139). -/
def firstBad (c : Ctx) (f : Sub → Option (Cause × Nat × Nat)) : Option TrapArgs :=
  c.subs.findSome? fun w => (f w).map fun r =>
    { c.trapArgs r.1 (lowLane w.lanes) with object := r.2.1, offset := r.2.2 }

/-- The guard of a lane's subset holds. -/
def Lane.guarded (k : Nat) (l : Lane) : Bool := guardOk k l.wv

/-- RET (R122). -/
def issRet (a g : Nat) : Iss :=
  { endIss g (fun c s =>
      match firstBad c fun w => if (w.wv.getS a).toNat % 4 ≠ 0 then some (.alignment, (w.wv.getC 31).object, (w.wv.getS a).toNat) else none with
      | some t => .trap t
      | none => proceed c s (c.lanes.map fun l => (l.t, l.code, if l.guarded g then (l.wv.getS a).toNat else c.g.pc + 4))) with
    names := sNames [a] }
/-- Ret, issued. -/
def execRet (a g : Nat) (s : State) : Out := issue (issRet a g) s

/-- JMPC's checks in one subset (R123). -/
def jmpcBad (a b : Nat) (w : Sub) : Option (Cause × Nat × Nat) :=
  let k := w.wv.getC a
  let t := (w.wv.getS b).toNat
  if !k.valid then some (.capInvalid, 0, 0)
  else if !k.has .x then some (.capRights, 0, 0)
  else if t % 4 ≠ 0 then some (.alignment, k.object, t)
  else none

/-- JMPC (R123): every source is read before s_d and c31 are written. -/
def issJmpc (d a b g : Nat) : Iss :=
  { endIss g (fun c s =>
      match firstBad c (jmpcBad a b) with
      | some t => .trap t
      | none =>
        let s2 := eachSub c s fun w => { (w.wv.setS d (BitVec.ofNat 64 (c.g.pc + 4))) with c := sset Cap.null w.wv.c 31 (w.wv.getC a) }
        proceed c s2 (c.lanes.map fun l =>
          if l.guarded g then (l.t, l.wv.getC a, (l.wv.getS b).toNat) else (l.t, l.code, c.g.pc + 4))) with
    names := fun c => sNames [d, b] c ++ cNames [a, 31] c }
/-- Jmpc, issued. -/
def execJmpc (d a b g : Nat) (s : State) : Out := issue (issJmpc d a b g) s

/-- REFORM (R124): every active thread is filed under PC + 4. -/
def issReform (g : Nat) : Iss :=
  endIss g fun c s =>
  match dissolve (countIssue s c true) c.gkey (c.lanes.map fun l => (l.t, c.g.pc + 4)) with
  | some s1 => .jump s1
  | none => .waitAs (s.setStuck c.gkey)
/-- Reform, issued. -/
def execReform (g : Nat) (s : State) : Out := issue (issReform g) s

/-! ### EXIT (R125) -/

/-- Free the lock bits a thread holds (R275): the locks left, and how many were held. -/
def dropLocks (locks : Tab Nat) (t : Nat) : Tab Nat × Nat :=
  (locks.filter fun p => p.2 != t, (locks.filter fun p => p.2 == t).length)

/-- Threads of a team that have not exited. -/
def liveThreads (s : State) (tk : Nat) : List (Nat × Thread) :=
  s.threads.filter fun p => p.1 / 2048 == tk && p.2.status != .exited

/-- A thread exits: its slot never issues again, its locks are freed (R125, R275). -/
def exitThread (s : State) (tk t : Nat) : State :=
  { s with
    threads := s.threads.put (threadKey tk t) { s.thread (threadKey tk t) with status := .exited, hold := .none }
    teams := s.teams.modify tk fun x => let r := dropLocks x.locks t; { x with locks := r.1, orphaned := x.orphaned + r.2 } }

/-- A team ends when its last thread exits (R125), which is a flush point of its contributions (R270). -/
def markEnded (s : State) (tk : Nat) : State :=
  if (liveThreads s tk).isEmpty then endFlush (s.setTeam tk fun t => { t with ended := true }) tk else s

/-- Threads exit in order. -/
def exitAll (s : State) (tk : Nat) : List Nat → State
  | [] => markEnded s tk
  | t :: r => exitAll (exitThread s tk t) tk r

/-- EXIT (R125): the threads whose guard holds end; the others are filed under PC + 4. -/
def issExit (g : Nat) : Iss :=
  endIss g fun c s =>
  let s1 := countIssue s c true
  let out := (c.lanes.filter (·.guarded g)).map (·.t)
  let stay := (c.lanes.filter fun l => !l.guarded g).map fun l => (l.t, c.g.pc + 4)
  match dissolve (exitAll s1 c.tk out) c.gkey stay with
  | some s2 => .jump s2.wake
  | none => .waitAs (s.setStuck c.gkey)
/-- Exit, issued. -/
def execExit (g : Nat) (s : State) : Out := issue (issExit g) s

/-- NOP (R126). -/
def issNop (g : Nat) : Iss := { uniform := true, guard := g, eff := fun _ s => .done s }
/-- Nop, issued. -/
def execNop (g : Nat) (s : State) : Out := issue (issNop g) s

/-! ### Heats (R127, R128) -/

/-- HMAP's check: every byte names a register below min(regs, 120). -/
def hmapBad (regs : Nat) (a b : Nat) (w : Sub) : Option (Cause × Nat × Nat) :=
  let ok (v : W64) : Bool := (List.range 8).all fun k => decide (renameByte v k < min regs 120)
  if ok (w.wv.getS a) && ok (w.wv.getS b) then none else some (.heatViolation, 0, 0)

/-- HMAP (R127). -/
def issHmap (a b : Nat) : Iss :=
  { uniform := true
    forbid := true
    names := sNames [a, b]
    eff := fun c s => match firstBad c (hmapBad c.team.regs a b) with
      | some t => .trap t
      | none => .done (eachSub c s fun w => { w.wv with renA := w.wv.getS a, renB := w.wv.getS b }) }
/-- Hmap, issued. -/
def execHmap (a b : Nat) (s : State) : Out := issue (issHmap a b) s

/-- HEAT (R128): the paths are latched once; the body is the n instructions that follow the literal words. -/
def issHeat (k n m : Nat) : Iss :=
  { endIss 0 (fun c s =>
      let lits := if n ≤ 16 then 1 else 2
      .jump ((countIssue s c true).setGroup c.gkey fun g =>
        { g with pc := g.pc + 4 * (1 + lits), status := .ready, acted := [],
                 heat := some ⟨n, m, 0, (c.lanes.filter fun l => l.th.getP k).map (·.t)⟩ })) with
    names := pNames [k] }
/-- Heat, issued. -/
def execHeat (k n m : Nat) (s : State) : Out := issue (issHeat k n m) s

/-! ### Waits (R117, R118) -/

/-- WAITM (R117, R114): at most n of the group's long-latency instructions may be incomplete; `waitm 0` closes every window. Where more than n have
faulted, it parks at the (n + 1)-th of these in the order of their issue: DESIGN CHOICE, the spec does not say at which (log 31). -/
def issWaitm (n : Nat) : Iss :=
  { uniform := true
    eff := fun c s =>
      let inc := (c.g.windows.map (·.xact)).filter fun x => !isComplete s c.tk x
      let bad := inc.filter (allFaulted s)
      if inc.length ≤ n then .done (if n = 0 then s.setGroup c.gkey fun g => { g with windows := [] } else s)
      else match bad.drop n with
        | x :: _ => .park x
        | [] => .wait }
/-- Waitm, issued. -/
def execWaitm (n : Nat) (s : State) : Out := issue (issWaitm n) s

/-- WAITS (R118): every active thread has at most n unacknowledged stores. -/
def issWaits (n : Nat) : Iss :=
  { uniform := true
    eff := fun c s => if c.lanes.all fun l => decide (storesOf s c.tk l.t ≤ n) then .done s else .wait }
/-- Waits, issued. -/
def execWaits (n : Nat) (s : State) : Out := issue (issWaits n) s

end Sys2Proof.Machine
end

