-- ==== Sys2Proof/Machine/Uniform.lean ====
section
/-! DEFINITION. Uniform integer instructions (06_uniform R147 to R153). -/
namespace Sys2Proof.Machine

/-- A uniform instruction that writes s_d of each subset whose guard holds; lits: its literal words. -/
def uIss (lits g d : Nat) (reads : List Nat) (f : Ctx → Sub → W64) : Iss where
  uniform := true
  lits := lits
  guard := g
  names := sNames (d :: reads)
  eff := fun c s => .done (eachSub c s fun w => w.wv.setS d (f c w))

/-- Three registers (R147). -/
def u3 (d a b g : Nat) (f : W64 → W64 → W64) : Iss := uIss 0 g d [a, b] fun _ w => f (w.wv.getS a) (w.wv.getS b)
/-- Two registers. -/
def u2 (d a g : Nat) (f : W64 → W64) : Iss := uIss 0 g d [a] fun _ w => f (w.wv.getS a)

/-- A uniform instruction that writes q_d of each subset whose guard holds. -/
def qIss (q g : Nat) (reads : List Nat) (f : Sub → Bool) : Iss where
  uniform := true
  guard := g
  names := sNames reads
  eff := fun c s => .done (eachSub c s fun w => w.wv.setQ q (f w))

/-- The high half of the signed 128-bit product (R147). -/
def smulHi (a b : W64) : W64 := BitVec.ofInt 64 (a.toInt * b.toInt / 18446744073709551616)
/-- A shift count b[5:0]. -/
def cnt6 (b : W64) : Nat := b.toNat % 64

/-- The value SID's selector gives (R153). In a reduce kernel the gang index is its parent gang's: DESIGN CHOICE, the spec gives that kernel no index
of its own (log 31). -/
def sidValue (c : Ctx) (w : Sub) (sel : Nat) : Nat := match sel with
  | 0 => c.tk % 4
  | 1 => c.gk % 65536
  | 2 => c.launch.gangs
  | 3 => c.gang.teams
  | 4 => c.team.count / 32
  | 5 => c.team.regs
  | _ => w.w

/-- SADD (R147). -/
def issSadd (d a b g : Nat) : Iss := u3 d a b g fun x y => x + y
/-- Sadd, issued. -/
def execSadd (d a b g : Nat) (s : State) : Out := issue (issSadd d a b g) s

/-- SSUB (R147). -/
def issSsub (d a b g : Nat) : Iss := u3 d a b g fun x y => x - y
/-- Ssub, issued. -/
def execSsub (d a b g : Nat) (s : State) : Out := issue (issSsub d a b g) s

/-- SMUL (R147). -/
def issSmul (d a b g : Nat) : Iss := u3 d a b g fun x y => x * y
/-- Smul, issued. -/
def execSmul (d a b g : Nat) (s : State) : Out := issue (issSmul d a b g) s

/-- SMULH (R147). -/
def issSmulh (d a b g : Nat) : Iss := u3 d a b g fun x y => smulHi x y
/-- Smulh, issued. -/
def execSmulh (d a b g : Nat) (s : State) : Out := issue (issSmulh d a b g) s

/-- SAND (R147). -/
def issSand (d a b g : Nat) : Iss := u3 d a b g fun x y => x &&& y
/-- Sand, issued. -/
def execSand (d a b g : Nat) (s : State) : Out := issue (issSand d a b g) s

/-- SOR (R147). -/
def issSor (d a b g : Nat) : Iss := u3 d a b g fun x y => x ||| y
/-- Sor, issued. -/
def execSor (d a b g : Nat) (s : State) : Out := issue (issSor d a b g) s

/-- SXOR (R147). -/
def issSxor (d a b g : Nat) : Iss := u3 d a b g fun x y => x ^^^ y
/-- Sxor, issued. -/
def execSxor (d a b g : Nat) (s : State) : Out := issue (issSxor d a b g) s

/-- SSHL (R147). -/
def issSshl (d a b g : Nat) : Iss := u3 d a b g fun x y => x <<< cnt6 y
/-- Sshl, issued. -/
def execSshl (d a b g : Nat) (s : State) : Out := issue (issSshl d a b g) s

/-- SSHR.n (R147). -/
def issSshrN (d a b g : Nat) : Iss := u3 d a b g fun x y => x >>> cnt6 y
/-- SshrN, issued. -/
def execSshrN (d a b g : Nat) (s : State) : Out := issue (issSshrN d a b g) s

/-- SSHR.i (R147). -/
def issSshrI (d a b g : Nat) : Iss := u3 d a b g fun x y => x.sshiftRight (cnt6 y)
/-- SshrI, issued. -/
def execSshrI (d a b g : Nat) (s : State) : Out := issue (issSshrI d a b g) s

/-- SMIN.i (R147). -/
def issSminI (d a b g : Nat) : Iss := u3 d a b g fun x y => if x.slt y then x else y
/-- SminI, issued. -/
def execSminI (d a b g : Nat) (s : State) : Out := issue (issSminI d a b g) s

/-- SMAX.i (R147). -/
def issSmaxI (d a b g : Nat) : Iss := u3 d a b g fun x y => if x.slt y then y else x
/-- SmaxI, issued. -/
def execSmaxI (d a b g : Nat) (s : State) : Out := issue (issSmaxI d a b g) s

/-- SMOV (R147). -/
def issSmov (d a g : Nat) : Iss := u2 d a g fun x => x
/-- Smov, issued. -/
def execSmov (d a g : Nat) (s : State) : Out := issue (issSmov d a g) s

/-- SPOPC (R147). -/
def issSpopc (d a g : Nat) : Iss := u2 d a g fun x => BitVec.ofNat 64 (popc x.toNat 64)
/-- Spopc, issued. -/
def execSpopc (d a g : Nat) (s : State) : Out := issue (issSpopc d a g) s

/-- SCLZ (R147). -/
def issSclz (d a g : Nat) : Iss := u2 d a g fun x => BitVec.ofNat 64 (clz x.toNat 64)
/-- Sclz, issued. -/
def execSclz (d a g : Nat) (s : State) : Out := issue (issSclz d a g) s

/-- SSEL (R148): always runs; the guard selects. -/
def issSsel (d a b g : Nat) : Iss := uIss 0 0 d [a, b] fun _ w => if w.wv.getQ g then w.wv.getS a else w.wv.getS b
/-- Ssel, issued. -/
def execSsel (d a b g : Nat) (s : State) : Out := issue (issSsel d a b g) s

/-- SCMP.i (R149). -/
def issScmpI (q cc a b g : Nat) : Iss := qIss q g [a, b] fun w => ccHolds cc (some (compare (w.wv.getS a).toInt (w.wv.getS b).toInt))
/-- ScmpI, issued. -/
def execScmpI (q cc a b g : Nat) (s : State) : Out := issue (issScmpI q cc a b g) s

/-- SCMP.n (R149). -/
def issScmpN (q cc a b g : Nat) : Iss := qIss q g [a, b] fun w => ccHolds cc (some (compare (w.wv.getS a).toNat (w.wv.getS b).toNat))
/-- ScmpN, issued. -/
def execScmpN (q cc a b g : Nat) (s : State) : Out := issue (issScmpN q cc a b g) s

/-- SADDI (R151). -/
def issSaddi (d a i : Nat) : Iss := u2 d a 0 fun x => x + imm9 i
/-- Saddi, issued. -/
def execSaddi (d a i : Nat) (s : State) : Out := issue (issSaddi d a i) s

/-- SADDI with a literal word (R151). -/
def issSaddiTwin (d a w : Nat) : Iss := uIss 1 0 d [a] fun _ u => u.wv.getS a + litS w
/-- SaddiTwin, issued. -/
def execSaddiTwin (d a w : Nat) (s : State) : Out := issue (issSaddiTwin d a w) s

/-- SSHLI (R151). -/
def issSshli (d a i : Nat) : Iss := u2 d a 0 fun x => x <<< i
/-- Sshli, issued. -/
def execSshli (d a i : Nat) (s : State) : Out := issue (issSshli d a i) s

/-- SANDI (R151). -/
def issSandi (d a i : Nat) : Iss := u2 d a 0 fun x => x &&& imm9 i
/-- Sandi, issued. -/
def execSandi (d a i : Nat) (s : State) : Out := issue (issSandi d a i) s

/-- SLI (R151). -/
def issSli (d i : Nat) : Iss := uIss 0 0 d [] fun _ _ => imm9 i
/-- Sli, issued. -/
def execSli (d i : Nat) (s : State) : Out := issue (issSli d i) s

/-- SLI with a literal word (R151). -/
def issSliTwin (d w : Nat) : Iss := uIss 1 0 d [] fun _ _ => litS w
/-- SliTwin, issued. -/
def execSliTwin (d w : Nat) (s : State) : Out := issue (issSliTwin d w) s

/-- SLI64 (R152). -/
def issSli64 (d w w2 : Nat) : Iss := uIss 2 0 d [] fun _ _ => BitVec.ofNat 64 (w + 4294967296 * w2)
/-- Sli64, issued. -/
def execSli64 (d w w2 : Nat) (s : State) : Out := issue (issSli64 d w w2) s

/-- SID (R153). -/
def issSid (d sel : Nat) : Iss := uIss 0 0 d [] fun c w => BitVec.ofNat 64 (sidValue c w sel)
/-- Sid, issued. -/
def execSid (d sel : Nat) (s : State) : Out := issue (issSid d sel) s

/-- QLOG (R150). -/
def issQlog (q o a b g : Nat) : Iss := qIss q g [] fun w => logOp o (w.wv.getQ a) (w.wv.getQ b)
/-- Qlog, issued. -/
def execQlog (q o a b g : Nat) (s : State) : Out := issue (issQlog q o a b g) s

end Sys2Proof.Machine
end

