-- ==== Sys2Proof/Machine/Caps.lean ====
section
/-! DEFINITION. Capability instructions on registers (06_uniform R154 to R159). CLD, CST and CTAG stand in Umem. -/
namespace Sys2Proof.Machine

/-- A capability instruction that checks every subset (R139) and then writes c_d of each. -/
def cIss (g d : Nat) (readsC readsS : List Nat) (bad : Sub → Option (Cause × Nat × Nat)) (f : Sub → Cap) : Iss where
  uniform := true
  guard := g
  names := fun c => cNames (d :: readsC) c ++ sNames readsS c
  eff := fun c s => match firstBad c bad with
    | some t => .trap t
    | none => .done (eachSub c s fun w => w.wv.setC d (f w))

/-- CBND's checks (R154): the record names (object, base + off). -/
def cbndBad (a b : Nat) (w : Sub) : Option (Cause × Nat × Nat) :=
  let k := w.wv.getC a
  let off := (w.wv.getS b).toNat
  let at' := (k.base + off) % 2 ^ 64
  if !k.valid then some (.capInvalid, k.object, at')
  else if off + (w.wv.getS (b + 1)).toNat > k.length then some (.capBounds, k.object, at')
  else none

/-- A capability narrowed to len bytes from off. -/
def Cap.narrow (k : Cap) (off len : Nat) : Cap := .mk' k.object (k.base + off) len k.rights k.colour k.valid

/-- CBND (R154): bounds beyond the source's trap CAP_BOUNDS, as a tenant of more than 32 elements meets it (R439). -/
def issCbnd (d a b g : Nat) : Iss :=
  cIss g d [a] [b, b + 1] (cbndBad a b)
  fun w => (w.wv.getC a).narrow (w.wv.getS b).toNat (w.wv.getS (b + 1)).toNat
/-- Cbnd, issued. -/
def execCbnd (d a b g : Nat) (s : State) : Out := issue (issCbnd d a b g) s

/-- A capability whose rights are masked. -/
def Cap.mask (k : Cap) (m : Nat) : Cap := .mk' k.object k.base k.length (k.rights &&& m &&& 0x3F) k.colour k.valid

/-- CRGT (R155). -/
def issCrgt (d a b g : Nat) : Iss :=
  cIss g d [a] [b]
  (fun w => if (w.wv.getC a).valid then none else some (.capInvalid, 0, 0))
  fun w => (w.wv.getC a).mask ((w.wv.getS b).toNat % 256)
/-- Crgt, issued. -/
def execCrgt (d a b g : Nat) (s : State) : Out := issue (issCrgt d a b g) s

/-- A capability of another colour. -/
def Cap.recolour (k : Cap) (col : Nat) : Cap := .mk' k.object k.base k.length k.rights col k.valid

/-- CCOL (R156): under the T right. -/
def issCcol (d a b g : Nat) : Iss :=
  cIss g d [a] [b]
  (fun w => let k := w.wv.getC a
    if !k.valid then some (.capInvalid, 0, 0) else if !k.has .t then some (.capRights, 0, 0) else none)
  fun w => (w.wv.getC a).recolour ((w.wv.getS b).toNat % 16)
/-- Ccol, issued. -/
def execCcol (d a b g : Nat) (s : State) : Out := issue (issCcol d a b g) s

/-- The field CGET's selector names (R157). -/
def capField (k : Cap) (sel : Nat) : Nat := match sel with
  | 0 => k.object
  | 1 => k.base
  | 2 => k.length
  | 3 => k.rights
  | 4 => k.colour
  | 5 => if k.valid then 1 else 0
  | 6 => k.bits.toNat % 2 ^ 64
  | _ => k.bits.toNat / 2 ^ 64

/-- CGET (R157). -/
def issCget (d a b g : Nat) : Iss :=
  { uIss 0 g d [] (fun _ w => BitVec.ofNat 64 (capField (w.wv.getC a) b)) with
    names := fun c => sNames [d] c ++ cNames [a] c }
/-- Cget, issued. -/
def execCget (d a b g : Nat) (s : State) : Out := issue (issCget d a b g) s

/-- CMOV (R158). -/
def issCmov (d a g : Nat) : Iss := cIss g d [a] [] (fun _ => none) fun w => w.wv.getC a
/-- Cmov, issued. -/
def execCmov (d a g : Nat) (s : State) : Out := issue (issCmov d a g) s

/-- CNULL (R158). -/
def issCnull (d g : Nat) : Iss := cIss g d [] [] (fun _ => none) fun _ => Cap.null
/-- Cnull, issued. -/
def execCnull (d g : Nat) (s : State) : Out := issue (issCnull d g) s

/-- The right a CCHK field names, none for 0 (R159). -/
def cchkRight (r : Nat) : Option Right := match r with
  | 0 => none
  | 1 => some .r
  | 2 => some .w
  | 3 => some .x
  | 4 => some .lc
  | 5 => some .sc
  | _ => some .t

/-- The capability carries the right, if one is asked. -/
def Cap.hasOpt (k : Cap) : Option Right → Bool
  | none => true
  | some r => k.has r

/-- CCHK (R159): no trap. -/
def issCchk (q r a b g : Nat) : Iss :=
  { qIss q g [b, b + 1] (fun w => let k := w.wv.getC a
      k.valid && k.hasOpt (cchkRight r) && decide ((w.wv.getS b).toNat + (w.wv.getS (b + 1)).toNat ≤ k.length)) with
    names := fun c => sNames [b, b + 1] c ++ cNames [a] c }
/-- Cchk, issued. -/
def execCchk (q r a b g : Nat) (s : State) : Out := issue (issCchk q r a b g) s

end Sys2Proof.Machine
end

