-- ==== Sys2Proof/Machine/Check.lean ====
section
/-! DEFINITION. Checksum accumulators (14_matrix R354 to R358). -/
namespace Sys2Proof.Machine

/-- The code of an accumulator's kind. -/
def Ck.kind : Ck → Nat
  | .i32 _ => 0 | .f32 .. => 1 | .sig _ => 2

/-- A cleared accumulator of a kind (R356). -/
def Ck.clear : Nat → Ck
  | 0 => .i32 0
  | 1 => .f32 0 false false false
  | _ => .sig 0xFFFFFFFF#32

/-- Fold one field (R355). -/
def Ck.fold (k : Ck) (x : W32) : Ck := match k with
  | .i32 v => .i32 (v + x.signExtend 64)
  | .f32 v n p m => match val32 x with
    | .nan => .f32 v true p m
    | .inf false => .f32 v n true m
    | .inf true => .f32 v n p true
    | .fin s a e => let u : Int := scaled a e 149; .f32 (v + BitVec.ofInt 320 (if s then -u else u)) n p m
  | .sig c => .sig (crcWord c x)

/-- CKACC of a kind: every lane into its wave-of-origin's accumulator, in ascending rank. -/
def ckIss (kind d a : Nat) : Iss where
  names := vNames [a]
  eff := fun c s =>
    match c.lanes.find? fun l => (l.wv.getK d).kind != kind with
    | some l => .trap (c.trapArgs .illegalInstruction l.t)
    | none => .done (c.lanes.foldl (fun s l => s.setWave l.wk fun w => w.setK d ((w.getK d).fold (c.src l a).f)) s)

/-- CKACC.i32 (R355). -/
def issCkaccI32 (d a : Nat) : Iss := ckIss 0 d a
/-- CkaccI32, issued. -/
def execCkaccI32 (d a : Nat) (s : State) : Out := issue (issCkaccI32 d a) s
/-- CKACC.f32 (R355). -/
def issCkaccF32 (d a : Nat) : Iss := ckIss 1 d a
/-- CkaccF32, issued. -/
def execCkaccF32 (d a : Nat) (s : State) : Out := issue (issCkaccF32 d a) s
/-- CKACC.sig (R355). -/
def issCkaccSig (d a : Nat) : Iss := ckIss 2 d a
/-- CkaccSig, issued. -/
def execCkaccSig (d a : Nat) (s : State) : Out := issue (issCkaccSig d a) s

/-- CKCLR (R356). -/
def issCkclr (d b g : Nat) : Iss :=
  { uniform := true
    guard := g
    eff := fun c s => .done (eachSub c s fun w => w.wv.setK d (Ck.clear b)) }
/-- Ckclr, issued. -/
def execCkclr (d b g : Nat) (s : State) : Out := issue (issCkclr d b g) s

/-- A part of an accumulator (R357). -/
def Ck.part (k : Ck) (i : Nat) : W64 := match k with
  | .i32 v => if i = 0 then v else 0
  | .f32 v n p m =>
    if i < 5 then BitVec.ofNat 64 (v.toNat / 2 ^ (64 * i))
    else BitVec.ofNat 64 ((if n then 1 else 0) + (if p then 2 else 0) + (if m then 4 else 0))
  | .sig c => if i = 0 then (c ^^^ 0xFFFFFFFF#32).setWidth 64 else 0

/-- CKRD (R357). -/
def issCkrd (d a b g : Nat) : Iss :=
  { uniform := true
    guard := g
    names := sNames [d]
    eff := fun c s => .done (eachSub c s fun w => w.wv.setS d ((w.wv.getK a).part b)) }
/-- Ckrd, issued. -/
def execCkrd (d a b g : Nat) (s : State) : Out := issue (issCkrd d a b g) s

/-- CKCHK (R358): m = 0 traps on an inequality; else the predicate q_m. -/
def issCkchk (a b m : Nat) : Iss :=
  { uniform := true
    eff := fun c s =>
      match firstBad c fun w =>
        let x := w.wv.getK a
        let y := w.wv.getK b
        if x.kind ≠ y.kind then some (.illegalInstruction, 0, 0)
        else if m = 0 ∧ x ≠ y then some (.checkFailed, 0, 0) else none with
      | some t => .trap t
      | none => .done (if m = 0 then s else eachSub c s fun w => w.wv.setQ m (decide (w.wv.getK a = w.wv.getK b))) }
/-- Ckchk, issued. -/
def execCkchk (a b m : Nat) (s : State) : Out := issue (issCkchk a b m) s

end Sys2Proof.Machine
end

