-- ==== Sys2Proof/Machine/Sync.lean ====
section
/-! DEFINITION. Fences, barriers, GSTEP and GCFG with their events (11_atomics R270, R277 to R282; 10_glade R245 to R252, R257, R258). -/
namespace Sys2Proof.Machine

/-! ### FENCE (R277) -/

/-- What a fence of a kind waits for: 1 acq, 2 rel, 3 full. -/
def Ctx.fence (c : Ctx) (s : State) (kind : Nat) : Waited := match c.waitLoads s with
  | .go => if decide (2 ≤ kind) && storesPending s c.fn c.tk (c.lanes.map (·.t)) (kind == 3) then .wait else .go
  | w => w

/-- One thread's full fence: it sees what the full fences before it show, and shows what the thread has made and read (R321). -/
def fullFenceOf (place : Place) (scope : Nat) (s : State) (key : Nat) : State :=
  let v := s.fencesSeen place scope
  (s.onAgents [key] fun g => { g with always := View.join g.always v }).fullFence place scope (s.thread key).agent.seen

/-- The threads of the context fence (R316, R317); full fences one after another, in rank order (R321). -/
def fenced (c : Ctx) (s : State) (kind scope : Nat) : State :=
  let keys := c.lanes.map (·.key)
  let s1 := s.onAgents keys (·.fence kind scope)
  if kind = 3 then keys.foldl (fullFenceOf (.team c.tk) scope) s1 else s1

/-- A fence of a kind and scope. -/
def fenceIss (kind scope : Nat) : Iss where
  uniform := true
  mem := true
  eff := fun c s => afterWait (c.fence s kind) (.done (fenced c s kind scope))

/-- FENCE.acq (R277). -/
def issFenceAcq (scope : Nat) : Iss := fenceIss 1 scope
/-- FenceAcq, issued. -/
def execFenceAcq (scope : Nat) (s : State) : Out := issue (issFenceAcq scope) s
/-- FENCE.rel (R277). -/
def issFenceRel (scope : Nat) : Iss := fenceIss 2 scope
/-- FenceRel, issued. -/
def execFenceRel (scope : Nat) (s : State) : Out := issue (issFenceRel scope) s
/-- FENCE.full (R277). -/
def issFenceFull (scope : Nat) : Iss := fenceIss 3 scope
/-- FenceFull, issued. -/
def execFenceFull (scope : Nat) (s : State) : Out := issue (issFenceFull scope) s

/-! ### Arrivals -/

/-- The lanes that have not yet arrived here. -/
def Ctx.fresh (c : Ctx) : List Lane := c.lanes.filter fun l => l.th.hold == .none

/-- Record arrivals of lanes (R245, R257, R279), each once. -/
def arrive (s : State) (c : Ctx) (ls : List Lane) (f : Lane → Thread → Thread) : State :=
  ls.foldl (fun s l => s.setThread l.key (f l)) (countIssue s { c with lanes := ls } true)

/-- What arriving lanes bring to a phase or step: everything that happens before their arrival, of every page kind (R320). -/
def broughtBy (ls : List Lane) : View := ls.foldl (fun v l => View.join v l.th.agent.all) []

/-- A released group goes on after its instruction (R245, R280). -/
def Group.released (g : Group) : Group :=
  { g with pc := g.pc + 4, status := .ready, acted := [], windows := g.windows.map fun w => { w with left := w.left - 1 } }

/-- Threads no longer hold, and have what the phase or step gave (R320). -/
def letGo (s : State) (keys : List Nat) (given : View) : State :=
  { s with threads := s.threads.mapVals fun k t => if keys.contains k then { t with hold := .none, agent := t.agent.acquire true given } else t }

/-- Threads that a trap has stopped at their arrival hold there once more (R250). -/
def holdAgain (s : State) (c : Ctx) (kind : Hold) : State :=
  (c.lanes.filter fun l => l.th.hold == .again).foldl (fun s l => s.setThread l.key fun t => { t with hold := kind }) s

/-- Threads of a group stand at an arrival that a trap has stopped. -/
def stopHolds (s : State) (k : Nat) (g : Group) : State :=
  g.lanes.foldl (fun s t => s.setThread (threadKey (teamOfGroup k) t) fun x => { x with hold := .again }) s

/-- Arrive and hold: the group waits until an event releases it. A group whose threads all hold here (it was trapped meanwhile) goes on once
what they wait for is done. note: the arrivals' views are brought. -/
def arriveAndHold (c : Ctx) (s : State) (w : Waited) (kind : Hold) (f : Lane → Thread → Thread) (note : View → State → State) (ended : Bool)
    (given : View) : Eff :=
  if c.fresh.isEmpty then
    if c.lanes.any (fun l => l.th.hold == .again) then .waitAs (holdAgain s c kind)
    else if ended then .jump ((letGo s (c.lanes.map (·.key)) given).setGroup c.gkey Group.released) else .wait
  else afterWait w (.waitAs (holdAgain (note (broughtBy c.fresh) (arrive s c c.fresh fun l t => { f l t with hold := kind })) c kind))

/-- Count one arrival more. -/
def bump (t : Tab Nat) (k : Nat) : Tab Nat := sset 0 t k (sget 0 t k + 1)

/-- A `.launch` barrier outside a cohort launch is illegal (R19, R278). -/
def barLevelBad (c : Ctx) (level : Nat) : Bool := level == 2 && !c.launch.cohort

/-- A barrier instruction. -/
def barIss (level : Nat) (f : Ctx → State → Eff) : Iss where
  uniform := true
  forbid := true
  mem := true
  eff := fun c s => if barLevelBad c level then .trap (c.trapArgs .illegalInstruction (lowLane c.lanes)) else f c s

/-- Change the meeting of a barrier level. -/
def onMeet (level tk gk lk : Nat) (f : Meet → Meet) (s : State) : State := match level with
  | 0 => s.setTeam tk fun t => { t with meet := f t.meet }
  | 1 => s.setGang gk fun g => { g with meet := f g.meet }
  | _ => s.setLaunch lk fun l => { l with meet := f l.meet }

/-- Completed phases of a level, as a thread of the context sees it. -/
def Ctx.phase (c : Ctx) (level : Nat) : Nat := match level with
  | 0 => c.team.coreBar
  | 1 => c.gang.quadBar
  | _ => c.launch.launchBar

/-- What the completed phases of a level give. -/
def Ctx.given (c : Ctx) (level : Nat) : View := match level with
  | 0 => c.team.meet.given
  | 1 => c.gang.meet.given
  | _ => c.launch.meet.given

/-- The phase of every lane's latest arrival at a level is complete. -/
def Ctx.phaseOver (c : Ctx) (level : Nat) : Bool := c.lanes.all fun l => decide (sget 0 l.th.bar level ≤ c.phase level)

/-- BAR (R279, R280): arrives, then waits for its phase. -/
def issBar (level : Nat) : Iss :=
  barIss level fun c s =>
  arriveAndHold c s (c.fence s 3) .bar (fun _ t => { t with bar := bump t.bar level, brought := level })
    (fun v => onMeet level c.tk c.gk c.lk (·.arrive v)) (c.phaseOver level) (c.given level)
/-- Bar, issued. -/
def execBar (level : Nat) (s : State) : Out := issue (issBar level) s

/-- BARA (R280): arrives and goes on. -/
def issBara (level : Nat) : Iss :=
  barIss level fun c s => afterWait (c.fence s 3)
  (.done (onMeet level c.tk c.gk c.lk (·.arrive (broughtBy c.lanes)) (eachLane c s fun l => ⟨{ l.th with bar := bump l.th.bar level }, 0⟩)))
/-- Bara, issued. -/
def execBara (level : Nat) (s : State) : Out := issue (issBara level) s

/-- BARW (R280): waits for the phase of each thread's latest arrival. -/
def issBarw (level : Nat) : Iss :=
  barIss level fun c s =>
  if c.phaseOver level then .done (s.onAgents (c.lanes.map (·.key)) (·.acquire true (c.given level))) else .wait
/-- Barw, issued. -/
def execBarw (level : Nat) (s : State) : Out := issue (issBarw level) s

/-! ### Release -/

/-- Release the groups of a team all of whose threads are in a set. -/
def releaseGroups (s : State) (tk : Nat) (ts : List Nat) : State :=
  { s with groups := s.groups.mapVals fun k g =>
      if teamOfGroup k = tk ∧ !g.lanes.isEmpty ∧ (g.lanes.all fun t => ts.contains t) then g.released else g }

/-- Refile the released threads of bins that hold others too. none: no place yet (log 15). -/
def refileAll (s : State) (tk : Nat) : List (Nat × Nat) → Option State
  | [] => some s
  | (t, pc) :: r => (fileBin (unbin s tk t) tk t pc).bind fun s => refileAll s tk r

/-- Release the filed threads of a team that are in a set (R245: as if still grouped): a bin of released threads moves on whole. -/
def releaseBins (s : State) (tk : Nat) (ts : List Nat) : Option State :=
  let s1 := s.setTeam tk fun t => { t with bins := t.bins.map fun b => if b.threads.all fun u => ts.contains u then { b with pc := b.pc + 4 } else b }
  let mixed := (((s.teams.find tk).map (·.bins)).getD []).filter fun b => (b.threads.any fun u => ts.contains u) && !(b.threads.all fun u => ts.contains u)
  refileAll s1 tk (mixed.flatMap fun b => (b.threads.filter fun u => ts.contains u).map fun u => (u, b.pc + 4))

/-- A group is trapped. -/
def Group.isTrapped (g : Group) : Bool := match g.status with | .trapped _ => true | _ => false

/-- The threads of a team that an event releases: those that hold as p says. A group goes on when all its threads do. -/
def released (s : State) (tk : Nat) (p : Thread → Bool) : List Nat :=
  ((s.threads.filter fun q => q.1 / 2048 == tk && q.2.status != .exited && p q.2).map fun q => q.1 % 2048)

/-- Threads of groups that stay: another of their threads does, or a trap holds the group (R280, R392). -/
def stayers (s : State) (tk : Nat) (ts : List Nat) : List Nat :=
  (s.groups.filter fun q => teamOfGroup q.1 == tk && (q.2.isTrapped || !(q.2.lanes.all fun t => ts.contains t))).flatMap fun q => q.2.lanes

/-- Release a team's threads, each with what the phase or step gave. -/
def releaseTeam (s : State) (tk : Nat) (p : Thread → Bool) (given : View) : Option State :=
  let all := released s tk p
  let ts := all.filter fun t => !(stayers s tk all).contains t
  (releaseBins (releaseGroups s tk ts) tk ts).map fun s => letGo s (ts.map (threadKey tk)) given

/-- Release the threads of several teams. -/
def releaseTeams (s : State) (p : Thread → Bool) (given : View) : List Nat → Option State
  | [] => some s
  | tk :: r => (releaseTeam s tk p given).bind fun s => releaseTeams s p given r

/-- A contribution of an exited thread of these teams is still in flight: the phase waits for it, so that the fold is fixed (R270, R272). -/
def exitedPending (s : State) (tks : List Nat) : Bool := s.accesses.vals.any fun a => tks.contains a.team &&
  (match a.kind with | .ordered .. => true | _ => false) && a.threads.any fun t => (s.thread (threadKey a.team t)).status == .exited

/-! ### BARRIER_PHASE_COMPLETE (R279, R281) -/

/-- The teams of a gang that are on cores. -/
def teamsOfGang (s : State) (gk : Nat) : List Nat := (s.teams.filter fun p => gangOfTeam p.1 == gk).map (·.1)
/-- The gangs of a launch. -/
def gangsOf (s : State) (lk : Nat) : List Nat := (s.gangs.filter fun p => launchOfGang p.1 == lk && p.2.reduceOf.isNone).map (·.1)

/-- The teams whose threads are the members of a level, and its completed phases. -/
def barMembers (s : State) (level key : Nat) : Option (List Nat × Nat) := match level with
  | 0 => (s.teams.find key).map fun t => ([key], t.coreBar)
  | 1 => (s.gangs.find key).map fun g => (teamsOfGang s key, g.quadBar)
  | 2 => match s.launches.find key with
    | some l => if l.cohort && l.placed == l.gangs then some ((gangsOf s key).flatMap (teamsOfGang s), l.launchBar) else none
    | none => none
  | _ => none

/-- The threads of teams that have not exited. -/
def liveOf (s : State) (tks : List Nat) : List Thread := tks.flatMap fun tk => (liveThreads s tk).map (·.2)

/-- Count a completed phase: what was brought is given. -/
def donePhase (s : State) (level key : Nat) : State := match level with
  | 0 => s.setTeam key fun t => { t with coreBar := t.coreBar + 1, meet := t.meet.complete }
  | 1 => s.setGang key fun g => { g with quadBar := g.quadBar + 1, meet := g.meet.complete }
  | _ => s.setLaunch key fun l => { l with launchBar := l.launchBar + 1, meet := l.meet.complete }

/-- What the completed phases of a level give. -/
def phaseGiven (s : State) (level key : Nat) : View := match level with
  | 0 => ((s.teams.find key).map (·.meet.given)).getD []
  | 1 => ((s.gangs.find key).map (·.meet.given)).getD []
  | _ => ((s.launches.find key).map (·.meet.given)).getD []

/-- Every member has made its next arrival. -/
def phaseReady (s : State) (level : Nat) (m : List Nat × Nat) : Bool :=
  let live := liveOf s m.1
  !live.isEmpty && (live.all fun t => decide (m.2 < sget 0 t.bar level)) && m.1.all (standing s) && !exitedPending s m.1

/-- BARRIER_PHASE_COMPLETE (R279, R281). -/
def execBarrierPhaseComplete (level key : Nat) (s : State) : Out := match barMembers s level key with
  | none => notNow
  | some m =>
    if phaseReady s level m then
      let live := m.1.filter fun tk => !(liveThreads s tk).isEmpty
      let s1 := flushAll (donePhase s level key) (fun c => decide (sget 0 c.bars level ≤ m.2)) live
      match releaseTeams s1 (fun t => t.hold == .bar && t.brought == level && decide (sget 0 t.bar level ≤ m.2 + 1)) (phaseGiven s1 level key) live with
      | some s2 => .next s2.wake
      | none => notNow
    else notNow

/-! ### GSTEP (R245 to R252) -/

/-- The regions a mask names. -/
def maskRegions (m : Nat) : List Nat := (List.range 8).filter fun k => bit m k

/-- The step group of a mask is the gang (R245). A region of 0 units whose word has shared = 1 does not make it so: DESIGN CHOICE, R245 does not speak
of absent regions (log 31). -/
def stepWide (t : Team) (m : Nat) : Bool := (maskRegions m).any fun k => let r := t.region k; r.shared && decide (0 < r.units)

/-- Change the meeting of team steps or gang steps. -/
def onStepMeet (wide tk gk : Nat) (f : Meet → Meet) (s : State) : State :=
  if wide = 0 then s.setTeam tk fun t => { t with stepMeet := f t.stepMeet } else s.setGang gk fun g => { g with stepMeet := f g.stepMeet }

/-- The latest steps of every lane have taken place. -/
def Ctx.stepOver (c : Ctx) (wide : Nat) : Bool :=
  c.lanes.all fun l => decide (sget 0 l.th.steps wide ≤ if wide = 0 then c.team.teamSteps else c.gang.gangSteps)

/-- What the completed steps give: for global memory GSTEP orders as BAR does at its scope (R251). -/
def Ctx.stepGiven (c : Ctx) (wide : Nat) : View := if wide = 0 then c.team.stepMeet.given else c.gang.stepMeet.given

/-- GSTEP (R258): waits as at a window end and as BAR does (R251), then arrives. brought: the mask, and 256 for a gang step. -/
def issGstep (m : Nat) : Iss :=
  { endIss 0 (fun c s =>
      let w := if stepWide c.team m then 1 else 0
      arriveAndHold c s (c.fence s 3) .step (fun _ t => { t with steps := bump t.steps w, brought := m + 256 * w })
        (fun v => onStepMeet w c.tk c.gk (·.arrive v)) (c.stepOver w) (c.stepGiven w))
    with mem := true }
/-- Gstep, issued. -/
def execGstep (m : Nat) (s : State) : Out := issue (issGstep m) s

/-- The teams of a step group. -/
def stepTeams (s : State) (tk wide : Nat) : List Nat := if wide = 0 then [tk] else teamsOfGang s (gangOfTeam tk)

/-- Steps a step group has completed. -/
def stepsDone (s : State) (tk wide : Nat) : Nat :=
  if wide = 0 then ((s.teams.find tk).map (·.teamSteps)).getD 0 else ((s.gangs.find (gangOfTeam tk)).map (·.gangSteps)).getD 0

/-- The mask a step group drains for. -/
def drainMask (s : State) (tk wide : Nat) : Option Nat :=
  if wide = 0 then (s.teams.find tk).bind (·.draining) else (s.gangs.find (gangOfTeam tk)).bind (·.draining)

/-- Set it. -/
def setDrain (s : State) (tk wide : Nat) (m : Option Nat) : State :=
  if wide = 0 then s.setTeam tk fun t => { t with draining := m } else s.setGang (gangOfTeam tk) fun g => { g with draining := m }

/-- The groups of teams. -/
def groupsIn (s : State) (tks : List Nat) : List (Nat × Group) := s.groups.filter fun p => tks.contains (teamOfGroup p.1)

/-- Every thread of the step group has arrived at its next step. -/
def stepReady (s : State) (tk wide : Nat) : Bool :=
  let tks := stepTeams s tk wide
  let live := liveOf s tks
  !live.isEmpty && (live.all fun t => t.hold == .step && sget 0 t.steps wide == stepsDone s tk wide + 1 && t.brought / 256 == wide)
    && tks.all (standing s) && !exitedPending s tks

/-- No group of teams is trapped. -/
def noneTrapped (s : State) (tks : List Nat) : Bool := (groupsIn s tks).all fun p => !p.2.isTrapped

/-- Trap GLADE_REGION in every group of teams (R246, R257); resumed, each issues its instruction again as the same arrival. -/
def trapEach (s : State) : List (Nat × Group) → State
  | [] => s
  | (k, g) :: t => trapEach (takeTrap (stopHolds s k g) k { cause := .gladeRegion, thread := g.lanes.headD 0, pc := g.pc, word := g.word }) t

/-- Every live thread stands in a group. -/
def allGrouped (s : State) (tks : List Nat) : Bool := (liveOf s tks).all fun t => t.status == .grouped

/-- The checks of R246 hold for a mask. -/
def stepOk (s : State) (tks : List Nat) (m : Nat) : Bool :=
  (liveOf s tks).all (fun t => t.brought % 256 == m) &&
  (maskRegions m).all fun k =>
    (tks.all fun tk => let r := regionOf s tk k; decide (0 < r.units) && r.dual) && allSame (tks.map fun tk => (regionOf s tk k).cfg)

/-- GSTEP_ARRIVALS_COMPLETE (R246): the checks; a filed thread must stand in a group again, and an earlier trap be answered, before a trap can hold
every member. -/
def execGstepArrivalsComplete (team wide : Nat) (s : State) : Out :=
  let tks := stepTeams s team wide
  if wide ≤ 1 && stepReady s team wide && drainMask s team wide == none then
    let m := ((liveOf s tks).head?.map fun t => t.brought % 256).getD 0
    if stepOk s tks m then .next (setDrain s team wide (some m))
    else if allGrouped s tks && noneTrapped s tks then .next (trapEach s (groupsIn s tks))
    else notNow
  else notNow

/-! Resolving (R247 to R249) -/

/-- Sum values in the wide accumulator in ascending rank: the sum, and whether both infinities are terms (R248). -/
def wideSum (vs : List FVal) : Wide × Bool := match vs with
  | [] => (⟨.zero, false⟩, false)
  | x :: t => (t.foldl (fun w v => (w.add v).1) ⟨x, false⟩, vs.contains (.inf false) && vs.contains (.inf true))

/-- The final value of a SUM.f32 word. -/
def sumF32 (r : Region) (vs : List W32) : W32 × Flags5 :=
  let w := wideSum (vs.map val32)
  let o := roundFinal w.1.v .f32 ⟨r.final.mode, false, false⟩ w.1.s 0
  (BitVec.ofNat 32 (encodeF .f32 o.1), o.2 ||| flagIf w.2 fInvalid)

/-- The final value of a half of a SUM.bf16 word. u: the draw. -/
def sumBf16 (r : Region) (vs : List Nat) (u : Nat) : Nat × Flags5 :=
  let w := wideSum (vs.map (decodeF .bf16))
  let c := carrier w.1.v .bf16 w.1.s
  let o := roundFinal c.1 .bf16 r.final c.2 u
  (encodeF .bf16 o.1, o.2 ||| flagIf w.2 fInvalid)

/-- The value of a word after a step, with its flags (R247). FAULT has none. -/
def resolveWord (seed : W64) (tk k word : Nat) (r : Region) (rec : Tab W32) : W32 × Flags5 :=
  let vs := rec.vals
  if vs.length ≤ 1 then (vs.headD 0, 0)
  else match r.rule with
    | 1 => (vs.headD 0, 0)
    | 2 => (vs.foldl (· + ·) 0, 0)
    | 3 => sumF32 r vs
    | 4 =>
      let half (h : Nat) : Nat × Flags5 := sumBf16 r (vs.map fun v => v.toNat / 65536 ^ h % 65536)
        (sruDraw seed (stepDrawId tk k) ((r.lap * 262144 + word * 2 + h) % 2 ^ 32))
      (BitVec.ofNat 32 ((half 0).1 + 65536 * (half 1).1), (half 0).2 ||| (half 1).2)
    | _ => (vs.headD 0, 0)

/-- The region after a step, and the flags of each word's lowest-ranked writer. -/
def stepRegion (seed : W64) (tk k : Nat) (r : Region) : Region × List (Nat × Flags5) :=
  let rs := r.written.map fun w => (w.1, (w.2.keys.headD 0), resolveWord seed tk k w.1 r w.2)
  let p := rs.foldl (fun t w => sset 0 t w.1 w.2.2.1) r.next
  ({ r with present := p, next := p, written := [], lap := r.lap + 1 }, rs.map fun w => (w.2.1, w.2.2.2))

/-- The wave-of-origin of a rank in a gang. -/
def waveOfRank (gk rank : Nat) : Nat := waveKey (teamKey gk (rank / 2048)) (rank % 2048 / 32)

/-- Step one region of one team. -/
def stepOne (s : State) (seed : W64) (tk k : Nat) : State :=
  let r := stepRegion seed tk k (regionOf s tk k)
  r.2.foldl (fun s f => s.raise (waveOfRank (gangOfTeam tk) f.1) f.2) (s.setTeam tk fun t => t.setRegion k r.1)

/-- Collided words of a FAULT region in a team: word, lowest and second-lowest rank. -/
def faults (s : State) (tk k : Nat) : List (Nat × Nat × Nat) :=
  let r := regionOf s tk k
  if r.rule ≠ 5 then [] else r.written.filterMap fun w => match w.2.keys with
    | a :: b :: _ => some (w.1, a, b)
    | _ => none

/-- The least collision by word, then by rank. -/
def leastFault : List (Nat × Nat × Nat) → Option (Nat × Nat × Nat)
  | [] => none
  | x :: t => match leastFault t with
    | none => some x
    | some y => if x.1 < y.1 || (x.1 == y.1 && decide (x.2.1 ≤ y.2.1)) then some x else some y

/-- The collision a step reports (R250): region, word, lowest and second rank. -/
def collision (s : State) (tks ks : List Nat) : Option (Nat × Nat × Nat × Nat) :=
  ks.findSome? fun k => (leastFault (tks.flatMap fun tk => faults s tk k)).map fun f => (k, f)

/-- The group to trap for a thread of a step group: its own; where it is filed, its bin's, formed in a free slot (whose word is then
GSTEP's own); else, and for a thread that has exited, the first one (DESIGN CHOICE, log 31). none: there is no group and no slot. -/
def groupFor (s : State) (tks : List Nat) (tk t : Nat) : Option (State × Nat × Group) :=
  let first := (groupsIn s tks).head?.map fun p => (s, p.1, p.2)
  match groupOf s tk t with
  | some p => some (s, p.1, p.2)
  | none => match ((s.teams.find tk).bind fun x => x.bins.find? fun b => b.threads.contains t).bind (formBin s tk) with
    | none => first
    | some s1 => ((groupOf s1 tk t).map fun p => (s1, p.1, p.2)).orElse fun _ => first

/-- GLADE_COLLISION (R250): one record; the group that holds the thread is trapped, the others are held. none: the group is trapped already, or there is
none. -/
def collide (s : State) (tks : List Nat) (gk : Nat) (x : Nat × Nat × Nat × Nat) : Option State :=
  let tk := teamKey gk (x.2.2.1 / 2048)
  let t := x.2.2.1 % 2048
  (groupFor s tks tk t).bind fun r =>
    let s0 := r.1
    let k := r.2.1
    let g := r.2.2
    if g.isTrapped then none else
      let hold (k : Nat) (h : Group) : Group := if tks.contains (teamOfGroup k) && !h.isTrapped then { h with status := .held } else h
      let s1 := { s0 with groups := s0.groups.mapVals hold }
      let word := if g.word = 0 then 0x92800000 + (s.thread (threadKey tk t)).brought % 256 else g.word
      let a : TrapArgs := { cause := .gladeCollision, thread := t, pc := g.pc, word := word, offset := x.1 * 16777216 + x.2.1 * 4, deferred := x.2.2.2 }
      let s2 := takeTrap (stopHolds s1 k g) k a
      some { s2 with traps := s2.traps.modify s1.nextId fun r => { r with team := tk % 4 } }

/-- Some scoreboard entry of teams names one of the regions (R246). -/
def boardNames (s : State) (tks ks : List Nat) : Bool := s.teams.any fun p => tks.contains p.1 && p.2.board.vals.any fun e => ks.contains e.region

/-- A step group has stepped. -/
def doneStep (s : State) (tk wide : Nat) : State :=
  if wide = 0 then s.setTeam tk fun t => { t with teamSteps := t.teamSteps + 1, stepMeet := t.stepMeet.complete }
  else s.setGang (gangOfTeam tk) fun g => { g with gangSteps := g.gangSteps + 1, stepMeet := g.stepMeet.complete }

/-- What its completed steps give. -/
def stepGiven (s : State) (tk wide : Nat) : View :=
  if wide = 0 then ((s.teams.find tk).map (·.stepMeet.given)).getD [] else ((s.gangs.find (gangOfTeam tk)).map (·.stepMeet.given)).getD []

/-- A thread held at the step that its step group has just made. -/
def atStep (wide : Nat) (done : Nat) (t : Thread) : Bool := t.hold == .step && t.brought / 256 == wide && decide (sget 0 t.steps wide ≤ done)

/-- The seed of a gang's launch. -/
def seedOf (s : State) (gk : Nat) : W64 := ((s.launches.find (launchOfGang gk)).map (·.seed)).getD 0

/-- GSTEP_DRAINED (R246 to R252). -/
def execGstepDrained (team wide : Nat) (s : State) : Out :=
  let tks := stepTeams s team wide
  let gk := gangOfTeam team
  match drainMask s team wide with
  | none => notNow
  | some m =>
    let ks := maskRegions m
    if boardNames s tks ks then notNow
    else match collision s tks ks with
      | some x => match collide s tks gk x with
        | some s1 => .next (setDrain s1 team wide none)
        | none => notNow
      | none =>
        let s1 := (tks.flatMap fun tk => ks.map fun k => (tk, k)).foldl (fun s p => stepOne s (seedOf s gk) p.1 p.2) s
        let live := tks.filter fun tk => !(liveThreads s tk).isEmpty
        let s2 := flushAll (doneStep (setDrain s1 team wide none) team wide) (fun _ => true) live
        match releaseTeams s2 (atStep wide (stepsDone s2 team wide)) (stepGiven s2 team wide) live with
        | some s3 => .next s3.wake
        | none => notNow

/-! ### GCFG (R257) -/

/-- GCFG (R257): waits as at a window end, then arrives with the subset's s_a. -/
def issGcfg (a k : Nat) : Iss :=
  { endIss 0 (fun c s => arriveAndHold c s .go .cfg (fun l t => { t with cfgs := bump t.cfgs k, brought := (l.wv.getS a).toNat })
      (fun _ s => s) (c.lanes.all fun l => decide (sget 0 l.th.cfgs k ≤ sget 0 c.team.cfgs k)) [])
    with mem := true, names := sNames [a] }
/-- Gcfg, issued. -/
def execGcfg (a k : Nat) (s : State) : Out := issue (issGcfg a k) s

/-- Every thread of the team has arrived at this GCFG of region k. -/
def cfgReady (s : State) (tk k : Nat) (t : Team) : Bool :=
  let live := liveOf s [tk]
  !live.isEmpty && (live.all fun x => x.hold == .cfg && sget 0 x.cfgs k == sget 0 t.cfgs k + 1)
    && standing s tk && (t.cfgDraining.find k).isNone

/-- GCFG_ARRIVALS_COMPLETE (R257). -/
def execGcfgArrivalsComplete (team region : Nat) (s : State) : Out := match s.teams.find team with
  | none => notNow
  | some t =>
    if region < 8 && cfgReady s team region t then
      let vs := (liveOf s [team]).map (·.brought)
      let v := BitVec.ofNat 64 (vs.headD 0)
      if allSame vs && cfgValid t region v && (reduceGang s team).isNone then .next (s.setTeam team fun t => { t with cfgDraining := t.cfgDraining.put region v })
      else if allGrouped s [team] && noneTrapped s [team] then .next (trapEach s (groupsIn s [team]))
      else notNow
    else notNow

/-- GCFG_DRAINED (R257): the region is configured, both planes are zero, the lap is 0. -/
def execGcfgDrained (team region : Nat) (s : State) : Out := match (s.teams.find team).bind fun t => (t.cfgDraining.find region).map fun v => (t, v) with
  | none => notNow
  | some (t, v) =>
    if boardNames s [team] [region] then notNow
    else
      let s1 := s.setTeam team fun t => { (t.setRegion region ⟨v, [], [], [], 0⟩).gladeFresh region with
        cfgDraining := t.cfgDraining.del region, cfgs := bump t.cfgs region }
      let at_ (x : Thread) : Bool := x.hold == .cfg && decide (sget 0 x.cfgs region ≤ sget 0 t.cfgs region + 1)
      match releaseTeams s1 at_ [] [team] with
      | some s2 => .next s2.wake
      | none => notNow

end Sys2Proof.Machine
end

