-- ==== Sys2Proof/Machine/Engine.lean ====
section
/-! DEFINITION. What engine commands share (12_copy_engines R286, R287; 14_matrix R335, R336; 05_control R116): acceptance subset by subset,
the range scoreboard, and the trap of a thread by an engine. -/
namespace Sys2Proof.Machine

/-! ### Starting while a gang stops -/

/-- A step or GCFG of the gang drains: a stop completes it first, so the copies it waits for may start (R252). -/
def Gang.drains (s : State) (gk : Nat) (g : Gang) : Bool :=
  g.draining.isSome || (s.teams.any fun t => gangOfTeam t.1 == gk && (t.2.draining.isSome || !t.2.cfgDraining.isEmpty))

/-- An engine of the gang may start a command (R291, R338): in service; while a step drains, which needs it (R252); and while a single-step quiesces, whose
command was accepted in service (R41; DESIGN CHOICE, log 24). -/
def Gang.mayStart (s : State) (gk : Nat) (g : Gang) : Bool := g.inService || (g.status == .quiescing && (g.drains s gk || g.stopWhy == .step))

/-! ### The range scoreboard (R243) -/

/-- A glade range of a command: team, region, first byte, bytes, and whether it is written. -/
structure GRange where
  tk : Nat
  region : Nat
  lo : Nat
  n : Nat
  writes : Bool
deriving DecidableEq, Repr

/-- Entries of a core's scoreboard in use. -/
def boardUse (s : State) (core : Nat) : Nat := ((teamsOn s core).map fun p => p.2.board.length).sum

/-- Every core has the free entries that the ranges need. -/
def boardRoom (s : State) (rs : List GRange) : Bool :=
  rs.all fun r => decide (boardUse s (coreOf s r.tk) + (rs.filter fun q => coreOf s q.tk == coreOf s r.tk).length ≤ 16)

/-- Take the entries of an operation. -/
def takeBoard (s : State) (op : Nat) : List GRange → State
  | [] => s
  | r :: t =>
    let e (tm : Team) : SbEntry := ⟨op, r.region, r.writes && (tm.region r.region).dual, r.writes, r.lo, r.lo + r.n⟩
    takeBoard { s.setTeam r.tk (fun tm => { tm with board := tm.board.put s.nextId (e tm) }) with nextId := s.nextId + 1 } op t

/-- A range lies in the plane of a region present in its team (R287, R340, R351). -/
def rangeOk (s : State) (r : GRange) : Bool :=
  let g := regionOf s r.tk r.region
  decide (0 < g.units) && decide (r.lo + r.n ≤ g.bytes)

/-! ### A trap from an engine (R116, R290) -/

/-- Stop a thread at its boundary with a record; of an exited thread only the record. none: it cannot be stopped yet. -/
def stopThread (s : State) (tk : Nat) (a : TrapArgs) : Option State :=
  match (s.thread (threadKey tk a.thread)).status with
  | .exited => some (recordOnly s tk a)
  | .grouped => match groupOf s tk a.thread with
    | some (k, g) => if g.status == .ready || g.status == .waiting then some (takeTrap s k { a with resume := .boundary }) else none
    | none => none
  | .filed => (freeSlot s (coreOf s tk)).map fun slot =>
      takeTrap ((unbin s tk a.thread).putGroup tk slot (binPc s tk a.thread) [a.thread] .ready) (groupKey tk slot) { a with resume := .boundary }

/-- The record of a command's abort (R290). -/
def abortArgs (s : State) (tk low : Nat) (info : Issued) (c : Cause) (obj off : Nat) : TrapArgs :=
  { cause := c, thread := low, pc := info.pc, word := info.word, object := obj, offset := off, deferredPrecise := true
    deferred := deferredSince s tk low info }

/-! ### Acceptance (R286, R287, R335) -/

/-- The waits of R286 for the threads of a subset. -/
def subQuiet (c : Ctx) (s : State) (w : Sub) : Waited :=
  let ts := w.lanes.map (·.t)
  match waitFor s c.tk (loadsOf s c.tk ts) with
  | .go => if storesPending s c.fn c.tk ts true then .wait else .go
  | x => x

/-- Check the commands of subsets in order; each sees what the earlier ones ask. -/
def prepAll {α : Type} (c : Ctx) (s : State) (prep : Ctx → State → List α → Sub → Except TrapArgs α) : List α → List Sub → Except TrapArgs (List α)
  | acc, [] => .ok acc
  | acc, w :: ws => match prep c s acc w with
    | .error e => .error e
    | .ok a => prepAll c s prep (acc ++ [a]) ws

/-- A subset has acted. -/
def subActed (c : Ctx) (w : Sub) (s : State) : State := s.setGroup c.gkey fun g => { g with acted := g.acted ++ [w.w] }

/-- A subset's engine command is accepted (R388 sel 10). -/
def subDone (c : Ctx) (w : Sub) (s : State) : State := (subActed c w s).setGang c.gk (·.count 10 1)

/-- Accept commands one subset after another; the group waits at the first that cannot be accepted yet. -/
def acceptAll {α : Type} (c : Ctx) (accept : Ctx → State → Sub → α → Option State) (fresh : Bool) : State → List (Sub × α) → Eff
  | s, [] => .done s
  | s, (w, a) :: t => match subQuiet c s w with
    | .go => match accept c s w a with
      | some s' => acceptAll c accept false (subDone c w s') t
      | none => if fresh then .wait else .waitAs s
    | .wait => if fresh then .wait else .waitAs s
    | .park x => if fresh then .park x else .waitAs s

/-- The shape of an engine command. A reduce kernel has no engines (R368). -/
def engineIss {α : Type} (l : Nat) (names dests : Ctx → List RegName) (prep : Ctx → State → List α → Sub → Except TrapArgs α)
    (accept : Ctx → State → Sub → α → Option State) : Iss where
  uniform := true
  forbid := true
  la := some l
  mem := true
  names := names
  dests := dests
  eff := fun c s =>
    if c.gang.reduceOf.isSome then .trap (c.trapArgs .illegalInstruction (lowLane c.lanes)) else
    match prepAll c s prep [] c.todo with
    | .error e => .trap e
    | .ok as => acceptAll c accept true s (c.todo.zip as)

/-- A trap of a subset's lowest-ranked active thread. -/
def subTrap (c : Ctx) (w : Sub) (cause : Cause) (obj off : Nat) : TrapArgs :=
  { c.trapArgs cause (lowLane w.lanes) with object := obj, offset := off }

end Sys2Proof.Machine
end

