-- ==== Sys2Proof/Machine/Matrix.lean ====
section
/-! DEFINITION. Matrix engine (14_matrix R332 to R353): command words, acceptance, the run of each command, MSTAT. -/
namespace Sys2Proof.Machine

/-! ### Macros -/

/-- Macro m of a team. -/
def Team.mac (t : Team) (m : Nat) : Macro := sget Macro.init t.macros m
/-- Change macro m. -/
def Team.setMac (t : Team) (m : Nat) (f : Macro → Macro) : Team := { t with macros := t.macros.put m (f (t.mac m)) }

/-- The team of a core that owns the macros (R332). -/
def macroTeam (s : State) (core : Nat) : Option (Nat × Team) := (teamsOn s core).find? fun p => p.2.ownsMacros
/-- Macro m of a core. -/
def coreMacro (s : State) (core m : Nat) : Macro := match macroTeam s core with
  | some p => p.2.mac m
  | none => Macro.init

/-! ### Command words (R334, R339, R342, R343, R349 to R351) -/

def cmdKind (w : Nat) : Nat := fld w 60 4
def cmdMacro (w : Nat) : Nat := fld w 59 1
def cmdBank (w : Nat) : Nat := fld w 57 2
/-- wfmt or afmt. -/
def cmdFmt (w : Nat) : Nat := fld w 53 4

/-- A 4-bit format (INT4, ZB4). -/
def fmt4 (f : Nat) : Bool := f == 1 || f == 4
/-- A block format (ZB8, ZB8E, ZB4). -/
def fmtBlock (f : Nat) : Bool := decide (2 ≤ f)
/-- Columns of a bank (R340). -/
def bankCols (f : Nat) : Nat := if fmt4 f then 256 else 128
/-- Element width of an MSTG format in bits. -/
def mstgBits : Nat → Nat
  | 0 => 32 | 1 => 16 | 2 => 16 | 5 => 4 | _ => 8
/-- Columns an MSTG writes. -/
def mstgCols (w : Nat) : Nat := if bit w 54 then 256 else 128

/-- The word is malformed (R334). kind: the instruction's own, 0 for a follow word; sparse: the bank as the core knows it. -/
def malformed (w kind : Nat) (sparse : Bool) : Bool :=
  let k := cmdKind w
  (if kind = 0 then !([1, 2, 3, 7].contains k) else k != kind) ||
  (match k with
  | 1 => fld w 0 20 != 0 || decide (4 < cmdFmt w) || (!fmtBlock (cmdFmt w) && (fld w 33 3 != 0 || fld w 20 13 != 0))
  | 2 =>
    let p := fld w 27 2
    fld w 0 26 != 0 || bit w 52 || decide (4 < cmdFmt w) ||
      (if !fmtBlock (cmdFmt w) then fld w 29 7 != 0 || p != 0
       else if cmdFmt w = 4 then (if sparse then p != 0 else p % 2 != 0)
       else sparse && p == 3)
  | 3 => fld w 16 43 != 0
  | 4 => fld w 0 41 != 0 || decide (9 < fld w 41 4)
  | 5 => fld w 16 6 != 0 || decide (7 < fld w 55 4) || (decide (fld w 55 4 < 5) && (fld w 35 3 != 0 || fld w 22 13 != 0))
  | 7 => fld w 0 41 != 0
  | _ => true)

/-- The lowest and highest selected row of a mask. -/
def rowSpan (m : Nat) : Option (Nat × Nat) :=
  match (List.range 16).filter fun r => bit m r with
  | [] => none
  | a :: t => some (a, t.getLastD a)

/-- The glade ranges a command reads or writes (R336). kindOf: 2 × wfmt + sparse of the bank as accepted. -/
def cmdRanges (tk w kind : Nat) : List GRange :=
  match cmdKind w with
  | 1 => ⟨tk, fld w 49 3, fld w 36 13 * 64, 16384, false⟩ ::
      (if fmtBlock (cmdFmt w) then [⟨tk, fld w 33 3, fld w 20 13 * 64, 2 * bankCols (cmdFmt w) * (if bit w 52 then 4 else 2), false⟩] else [])
  | 2 => [⟨tk, fld w 49 3, fld w 36 13 * 64, 16 * (if kind % 2 = 1 then 256 else 128) * (if fmt4 (cmdFmt w) then 4 else 8) / 8, false⟩]
  | 5 => match rowSpan (fld w 0 16) with
    | none => []
    | some (a, b) =>
      let f := fld w 55 4
      let row := mstgCols w * mstgBits f / 8
      let pair := 2 * (mstgCols w / 64)
      ⟨tk, fld w 51 3, fld w 38 13 * 64 + a * row, (b - a + 1) * row, true⟩ ::
        (if f ≥ 5 then [⟨tk, fld w 35 3, fld w 22 13 * 64 + a * pair, (b - a + 1) * pair, true⟩] else [])
  | 7 => [⟨tk, fld w 54 3, fld w 41 13 * 64, 64 * bankCols (kind / 2) / 2, false⟩]
  | _ => []

/-- A thread may give its scale byte: it is active in the issuing group or has exited (R344). -/
def scaleSource (s : State) (tk : Nat) (active : List Nat) (t : Nat) : Bool :=
  active.contains t || (s.thread (threadKey tk t)).status == .exited

/-- The checks of a command before acceptance (R332, R334, R335, R344): its glade ranges and its latched scale registers, or the cause. -/
def checkCmd (s : State) (tk wave w kind : Nat) (active : List Nat) : Except Cause (List GRange × List W32) :=
  match s.teams.find tk with
  | none => .error .illegalInstruction
  | some t =>
    let m := t.mac (cmdMacro w)
    let kd := sget 0 m.accKind (cmdBank w)
    if !t.ownsMacros || malformed w kind (kd % 2 == 1) || !(m.owner == none || m.owner == some wave) then .error .illegalInstruction
    else
      let sreg := fld w 29 7
      let scaled := cmdKind w == 2 && fmtBlock (cmdFmt w)
      let ts := (List.range 32).map (32 * wave + ·)
      if (scaled && (decide (t.regs ≤ sreg) || !ts.all (scaleSource s tk active))) || (cmdKind w == 4 && decide (t.regs ≤ fld w 52 7)) then
        .error .illegalInstruction
      else
        let rs := cmdRanges tk w kd
        if rs.all (rangeOk s) then
          .ok (rs, if scaled then ts.map fun u => ((s.thread (threadKey tk u)).getV sreg).f else [])
        else .error .gladeRegion

/-- The macro's queue has a place that no reservation holds (R333, R335). -/
def queueRoom (m : Macro) : Bool := decide (m.queue.length + m.reserved.length < 8)

/-- The command counts as a writeback (R352). -/
def countsWb (w : Nat) : Bool := cmdKind w == 5 || (cmdKind w == 4 && decide (5 ≤ fld w 41 4) && decide (fld w 41 4 ≤ 8))

/-- The kinds of a macro's banks after a command word is accepted (R344). -/
def accepted (ks : Tab Nat) (w : Nat) : Tab Nat := if cmdKind w = 1 then sset 0 ks (cmdBank w) (2 * cmdFmt w + (if bit w 52 then 1 else 0)) else ks

/-- Put an accepted command in its queue: binding, writeback count, scoreboard entries (R332, R336, R352). by: the copy whose reservation it fills. -/
def enqueueCmd (s : State) (tk : Nat) (cmd : MCmd) (rs : List GRange) (by_ : Option Nat) : State :=
  let w := cmd.word.toNat
  let wb := (s.thread (threadKey tk cmd.low)).wb
  let s := s.setTeam tk fun t => t.setMac (cmdMacro w) fun m =>
    { m with
      queue := m.queue ++ [{ cmd with wb := wb }]
      owner := some cmd.wave
      reserved := match by_ with | some i => m.reserved.filter (· != i) | none => m.reserved
      accKind := accepted m.accKind w }
  let s := if countsWb w then s.setThread (threadKey tk cmd.low) (fun t => { t with wb := t.wb + 1 }) else s
  takeBoard { s with nextId := s.nextId + 1 } cmd.id rs

/-! ### The six command instructions -/

/-- A chain of the wave-of-origin is unfinished (R335). -/
def chainOpen (g : Gang) (wave : Nat) : Bool := g.channels.vals.any fun ch => ch.queue.any fun q => q.kind == .cpyc && q.wave == wave

/-- A prepared command: word, ranges, scales. -/
structure MPrep where
  word : W64
  wave : Nat
  ranges : List GRange
  scales : List W32
deriving DecidableEq, Repr

/-- Check a subset's command; an earlier subset of the instruction may have asked for the macro first. -/
def mPrep (a kind : Nat) (c : Ctx) (s : State) (prev : List MPrep) (w : Sub) : Except TrapArgs MPrep :=
  let v := w.wv.getS a
  match checkCmd s c.tk w.w v.toNat kind (c.all.map (·.t)) with
  | .error e => .error (subTrap c w e 0 0)
  | .ok r =>
    if prev.any fun p => cmdMacro p.word.toNat == cmdMacro v.toNat && p.wave != w.w then .error (subTrap c w .illegalInstruction 0 0)
    else .ok ⟨v, w.w, r.1, r.2⟩

/-- The MRDs that earlier subsets of this instruction have had accepted take its present number, so that its window waits for them too (R110, R350).
A thread's count of issued instructions tells the instruction. -/
def retagMrd (c : Ctx) (s : State) : State :=
  let mine (q : MCmd) : Bool := cmdKind q.word.toNat == 4 && c.g.acted.contains q.wave && q.info.pc == c.g.pc &&
    ((q.info.marks.find? fun m => m.1 == q.low).map (·.2)) == some ((s.thread (threadKey c.tk q.low)).issued + 1)
  s.setTeam c.tk fun t => { t with macros := t.macros.mapVals fun _ m => { m with queue := m.queue.map fun q => if mine q then { q with id := c.xact } else q } }

/-- Accept a subset's command (R335). -/
def mAccept (c : Ctx) (s : State) (w : Sub) (p : MPrep) : Option State :=
  match s.teams.find c.tk, s.gangs.find c.gk with
  | some t, some g =>
    let m := t.mac (cmdMacro p.word.toNat)
    if queueRoom m && m.reserved.isEmpty && !chainOpen g w.wk && boardRoom s p.ranges then
      let id := if cmdKind p.word.toNat = 4 then c.xact else s.nextId
      let cmd : MCmd := ⟨id, p.word, w.w, lowLane w.lanes, w.lanes.map (·.t), w.wv.mode, 0, p.scales, c.issued [], false, 0, [], none, false⟩
      some (enqueueCmd (if cmdKind p.word.toNat = 4 then retagMrd c s else s) c.tk cmd p.ranges none)
    else none
  | _, _ => none

/-- A matrix command instruction. -/
def mIss (kind a l : Nat) (dests : Ctx → List RegName) : Iss :=
  engineIss l (fun c => sNames [a] c ++ dests c) dests (mPrep a kind) mAccept

/-- MWLD (R339). -/
def issMwld (a l : Nat) : Iss := mIss 1 a l fun _ => []
/-- Mwld, issued. -/
def execMwld (a l : Nat) (s : State) : Out := issue (issMwld a l) s
/-- MMUL (R343). -/
def issMmul (a l : Nat) : Iss := mIss 2 a l fun _ => []
/-- Mmul, issued. -/
def execMmul (a l : Nat) (s : State) : Out := issue (issMmul a l) s
/-- MCLR (R349). -/
def issMclr (a l : Nat) : Iss := mIss 3 a l fun _ => []
/-- Mclr, issued. -/
def execMclr (a l : Nat) (s : State) : Out := issue (issMclr a l) s
/-- MRD (R350): its destination is written when the macro runs it. -/
def issMrd (a l : Nat) : Iss := mIss 4 a l fun c => c.subs.flatMap fun w => w.lanes.map fun x => .v x.t (fld (w.wv.getS a).toNat 52 7)
/-- Mrd, issued. -/
def execMrd (a l : Nat) (s : State) : Out := issue (issMrd a l) s
/-- MSTG (R351). -/
def issMstg (a l : Nat) : Iss := mIss 5 a l fun _ => []
/-- Mstg, issued. -/
def execMstg (a l : Nat) (s : State) : Out := issue (issMstg a l) s
/-- MSPL (R342). -/
def issMspl (a l : Nat) : Iss := mIss 7 a l fun _ => []
/-- Mspl, issued. -/
def execMspl (a l : Nat) (s : State) : Out := issue (issMspl a l) s

/-! ### Elements and block partials (R340, R341, R344, R345) -/

/-- Entry alignment of a ZB8 or ZB8E block (R341). -/
def alignBlock (f : Fmt) (codes : List Nat) : List FVal :=
  let xs := codes.map (decodeF f)
  let es := xs.filterMap fun v => match v with
    | .fin _ m e => if m = 0 then none else some (max (e + log2n m) f.emin)
    | _ => none
  match es with
  | [] => xs
  | e0 :: t =>
    let q := t.foldl max e0 - 6
    xs.map fun v => match v with
      | .fin n m e => let c := cutAt m e q; .fin n (if c.rest ≠ 0 ∧ c.k % 2 = 0 then c.k + 1 else c.k) q
      | v => v

/-- The elements of a block with its scale applied, and whether its scale byte is 0xFF (R345, R348); such a scale is kept apart. -/
def blockVals (fmt : Nat) (codes : List Nat) (scale special : Nat) : Bool × List FVal :=
  let sc := if scale = 255 then 127 else scale
  match fmt with
  | 0 => (false, codes.map fun x => ofUnits (sextN 8 x) 0 false)
  | 1 => (false, codes.map fun x => ofUnits (sextN 4 x) 0 false)
  | 4 => (scale == 255, codes.map fun x => zb4Val x sc special)
  | f => (scale == 255, (alignBlock (if f = 2 then .e4m3 else .e5m2) codes).map fun v => v.scale (scaleExp sc))

/-- A block partial (R345, R348): the value, and whether it is an invalid operation. -/
def partialOf (a b : Bool × List FVal) : FVal × Bool :=
  let r := sumExact ((a.2.zip b.2).map fun p => p.1.mul p.2) false
  if r.2 then (.nan, true) else if a.1 || b.1 then (.nan, false) else r

/-- A 4-bit or 8-bit element at a place of a run of bytes (R61). -/
def elemAt (four : Bool) (bytes : Array Nat) (i : Nat) : Nat :=
  if four then bytes.getD (i / 2) 0 / 16 ^ (i % 2) % 16 else bytes.getD i 0

/-- Stored rows of a K-block. -/
def storedPer (b : Bank) : Nat := if b.sparse then 32 else 64
/-- K-blocks of a bank. -/
def kBlocks (b : Bank) : Nat := if b.sparse then 4 else 2

/-- The stored elements of column n in K-block kb, decoded. -/
def storedBlock (b : Bank) (cells scales : Array Nat) (kb n : Nat) : Bool × List FVal :=
  let codes := (List.range (storedPer b)).map fun i =>
    let j := kb * storedPer b + i
    if fmt4 b.fmt then elemAt true cells (j * 256 + n) else elemAt false cells (j * 128 + n)
  let p := 2 * (kb * bankCols b.fmt + n)
  blockVals b.fmt codes (scales.getD p 127) (scales.getD (p + 1) 0)

/-- The 64 logical elements of column n in K-block kb: a sparse bank's metadata places its stored elements (R342). -/
def logicalBlock (b : Bank) (nib : Array Nat) (kb n : Nat) (st : Bool × List FVal) : Bool × List FVal :=
  if b.sparse then
    let xs := st.2.toArray
    (st.1, (List.range 64).map fun k =>
      let m := nib.getD ((kb * 16 + k / 4) * bankCols b.fmt + n) 0
      if k % 4 = m % 4 then xs.getD (2 * (k / 4)) .zero else if k % 4 = m / 4 then xs.getD (2 * (k / 4) + 1) .zero else .zero)
  else st

/-- The checksum column (R340): for each stored row the exact sum over the columns. -/
def checkColumn (b : Bank) : List FVal :=
  let cells := b.cells.toArray
  let scales := b.scales.toArray
  (List.range (kBlocks b)).flatMap fun kb =>
    let cols := (List.range (bankCols b.fmt)).map fun n =>
      let r := storedBlock b cells scales kb n
      if r.1 then List.replicate (storedPer b) FVal.nan else r.2
    let cols := cols.map List.toArray
    (List.range (storedPer b)).map fun i => (sumExact (cols.map fun c => (c.getD i .zero, false)) false).1

/-- Two finite values are equal. -/
def eqVal (x y : FVal) : Bool := match (sumExact [(x, false), (y.neg, false)] false).1 with
  | .fin _ m _ => m == 0
  | _ => false

/-- The scale and special bytes of row r, K-block kb of A (R344). -/
def aScale (fmt p kb : Nat) (r : Nat) (scales : List W32) : Nat × Nat :=
  let v := (scales.getD (2 * r + kb % 2) 0).toNat
  let byte (i : Nat) := v / 256 ^ i % 256
  if fmt = 4 then (byte (p + 2 * (kb / 2)), byte (p + 2 * (kb / 2) + 1)) else (byte (p + kb / 2), 0)

/-! ### Runs -/

/-- What a run leaves. -/
structure MDone where
  mac : Macro
  team : Team
  flags : Flags5
  regs : List (Nat × Image)
deriving DecidableEq, Repr

/-- MWLD (R340). -/
def runMwld (t : Team) (m : Macro) (w : Nat) : MDone :=
  let f := cmdFmt w
  let cells := (t.region (fld w 49 3)).readBytes (fld w 36 13 * 64) 16384
  let sp := bit w 52
  let scales := if fmtBlock f then (t.region (fld w 33 3)).readBytes (fld w 20 13 * 64) (2 * bankCols f * (if sp then 4 else 2)) else []
  let b : Bank := ⟨f, sp, cells, scales, scales, [], none, none⟩
  ⟨{ m with banks := m.banks.put (cmdBank w) { b with check := checkColumn b } }, t, 0, []⟩

/-- The record offset of a fault found at run time (R337). -/
def runOff (w row kb : Nat) : Nat := cmdMacro w * 2 ^ 24 + cmdBank w * 2 ^ 20 + row * 256 + kb

/-- MSPL (R342). -/
def runMspl (t : Team) (m : Macro) (w : Nat) : Except (Cause × Nat) MDone :=
  match m.banks.find (cmdBank w) with
  | none => .error (.illegalInstruction, runOff w 0 0)
  | some b =>
    let n := bankCols b.fmt
    let bytes := ((t.region (fld w 54 3)).readBytes (fld w 41 13 * 64) (64 * n / 2)).toArray
    let nib := (List.range (64 * n)).map fun i => elemAt true bytes i
    if !b.sparse || nib.any fun x => decide (x / 4 ≤ x % 4) then .error (.illegalInstruction, runOff w 0 0)
    else .ok ⟨{ m with banks := m.banks.put (cmdBank w) { b with meta1 := some nib, meta2 := some nib } }, t, 0, []⟩

/-- The first place where two lists differ. -/
def firstDiff (a b : List Nat) : Option Nat := ((a.zip b).zipIdx.find? fun p => p.1.1 != p.1.2).map (·.2)

/-- The checks before an MMUL of R337 and of the duplicates of R347. -/
def mmulBad (m : Macro) (w : Nat) : Option (Cause × Nat) ⊕ Bank := match m.banks.find (cmdBank w) with
  | none => .inl (some (.illegalInstruction, runOff w 0 0))
  | some b =>
    if (b.sparse && b.meta1.isNone) || fmtBlock b.fmt != fmtBlock (cmdFmt w) || (fmt4 b.fmt && bit w 26) then
      .inl (some (.illegalInstruction, runOff w 0 0))
    else match firstDiff b.scales b.scales2, firstDiff (b.meta1.getD []) (b.meta2.getD []) with
      | some i, _ => .inl (some (.matrixCheck, runOff w 0 (i / 2 / bankCols b.fmt)))
      | none, some i => .inl (some (.matrixCheck, runOff w 0 (i / bankCols b.fmt / 16)))
      | none, none => .inr b

/-- One row of A in one K-block, with its partials against every column. -/
def rowPartials (w : Nat) (scales : List W32) (bytes : Array Nat) (rowLen : Nat) (cols : List (Bool × List FVal)) (kb r : Nat) :
    (Bool × List FVal) × List (FVal × Bool) :=
  let f := cmdFmt w
  let codes := (List.range 64).map fun k => elemAt (fmt4 f) bytes (r * rowLen + kb * 64 + k)
  let sc := aScale f (fld w 27 2) kb r scales
  let a := blockVals f codes sc.1 sc.2
  (a, cols.map fun b => partialOf a b)

/-- The value is an exact zero. -/
def isZero : FVal → Bool
  | .fin _ m _ => m == 0
  | _ => false

/-- A row of A has a nonzero element at a logical row that some column's metadata gives to stored row i of K-block kb (R342). -/
def rowUses (b : Bank) (nib : Array Nat) (kb i : Nat) (a : Array FVal) : Bool :=
  (List.range (bankCols b.fmt)).any fun n =>
    let m := nib.getD ((kb * 16 + i / 2) * bankCols b.fmt + n) 0
    !isZero (a.getD (4 * (i / 2) + (if i % 2 = 0 then m % 4 else m / 4)) .zero)

/-- The comparison of R347 for one row and K-block: the partials against the checksum column; partials that are not finite leave it out. A sparse
bank's checksum column, made before its metadata, is of stored rows, whose a differs from column to column: there the sums differ where the column as
latched and the sum of the present cells (cs) differ at a stored row that meets a nonzero element of A: DESIGN CHOICE, the spec's sum does not say how
(log 31). -/
def rowCheck (b : Bank) (nib : Array Nat) (cs : List FVal) (kb : Nat) (a : Bool × List FVal) (ps : List (FVal × Bool)) : Bool :=
  let part (xs : List FVal) : List FVal := (xs.drop (kb * storedPer b)).take (storedPer b)
  ps.any (fun p => p.1.special) ||
    (if b.sparse then ((part b.check).zip (part cs)).zipIdx.all fun p => eqVal p.1.1 p.1.2 || !rowUses b nib kb p.2 a.2.toArray
    else eqVal (sumExact (ps.map fun p => (p.1, false)) false).1
      (sumExact ((a.2.zip (part b.check)).map fun p => p.1.mul p.2) false).1)

/-- MMUL (R346 to R348). -/
def runMmul (t : Team) (m : Macro) (cmd : MCmd) : Except (Cause × Nat) MDone :=
  let w := cmd.word.toNat
  match mmulBad m w with
  | .inl e => .error (e.getD (.illegalInstruction, 0))
  | .inr b =>
    let nk := kBlocks b
    let rowLen := 64 * nk
    let bytes := ((t.region (fld w 49 3)).readBytes (fld w 36 13 * 64) (16 * rowLen * (if fmt4 (cmdFmt w) then 4 else 8) / 8)).toArray
    let cells := b.cells.toArray
    let bs := b.scales.toArray
    let nib := (b.meta1.getD []).toArray
    let blocks := (List.range nk).map fun kb => (List.range (bankCols b.fmt)).map fun n => logicalBlock b nib kb n (storedBlock b cells bs kb n)
    let rows := (List.range 16).map fun r => blocks.zipIdx.map fun p => rowPartials w cmd.scales bytes rowLen p.1 p.2 r
    let cs := if b.sparse then checkColumn b else []
    let bad := rows.zipIdx.findSome? fun r => r.1.zipIdx.findSome? fun p =>
      if rowCheck b nib cs p.2 p.1.1 p.1.2 then none else some (r.2, p.2)
    match bad with
    | some (r, kb) => .error (.matrixCheck, runOff w r kb)
    | none =>
      let c0 := if !fmt4 b.fmt && bit w 26 then 128 else 0
      let parts := (rows.map fun r => (r.map fun p => p.2.toArray)).toArray
      let old : Array Wide := ((List.range 4096).map fun i => sget ⟨.zero, false⟩ m.acc i).toArray
      let cell (i : Nat) : Wide × Bool :=
        let r := i / 256
        let c := i % 256
        let o := old.getD i ⟨.zero, false⟩
        if decide (c0 ≤ c) && decide (c < c0 + bankCols b.fmt) then
          (parts.getD r []).foldl (fun acc ps =>
            let p := ps.getD (c - c0) (.zero, false)
            let x := acc.1.add p.1
            (x.1, acc.2 || x.2 || p.2)) (o, false)
        else (o, false)
      let new := (List.range 4096).map fun i => (i, cell i)
      .ok ⟨{ m with acc := (new.map fun p => (p.1, p.2.1)).filter fun p => !decide (p.2 = ⟨.zero, false⟩) }, t,
        flagIf (new.any fun p => p.2.2) fInvalid, []⟩

/-- MCLR (R349). -/
def runMclr (t : Team) (m : Macro) (w : Nat) : MDone := ⟨{ m with acc := m.acc.filter fun p => !bit w (p.1 / 256) }, t, 0, []⟩

/-- The draw of a writeback's element (R352). -/
def mDraw (seed : W64) (gk tk : Nat) (cmd : MCmd) (e : Nat) : Nat :=
  sruDraw seed (macroDrawId gk tk cmd.low) ((cmd.wb * 65536 + e) % 2 ^ 32)

/-- The narrow formats of MRD and MSTG. -/
def mFmt : Nat → Fmt
  | 1 => .bf16 | 2 => .f16 | 3 => .e4m3 | _ => .e5m2

/-- One cell read by MRD (R350): the image and its flags. -/
def mrdCell (fmt : Nat) (x : Wide) (mode : W64) (u : Nat) : Image × Flags5 :=
  if fmt = 0 then let r := roundF32 x.v (armOf mode); (⟨r.f, x.s || r.s⟩, r.fl)
  else if fmt ≤ 4 then
    let c := carrier x.v (mFmt fmt) x.s
    let h := holdF32 c.1
    (⟨h.1, c.2 || h.2⟩, 0)
  else if fmt ≤ 8 then
    let f := mFmt (fmt - 4)
    let c := carrier x.v f x.s
    let y := roundFinal c.1 f (finMode mode f) c.2 u
    (⟨BitVec.ofNat 32 (encodeF .f32 y.1), false⟩, y.2)
  else let r := cvtVToI x.v (armOf mode) (-2147483648) 2147483647; (⟨r.f, r.s || x.s⟩, r.fl)

/-- MRD (R350): the registers written at its finish. -/
def runMrd (seed : W64) (gk tk : Nat) (t : Team) (m : Macro) (cmd : MCmd) : MDone :=
  let w := cmd.word.toNat
  let rs := cmd.threads.map fun th =>
    let x := sget ⟨.zero, false⟩ m.acc (fld w 48 4 * 256 + 32 * fld w 45 3 + th % 32)
    (th, mrdCell (fld w 41 4) x cmd.mode (mDraw seed gk tk cmd (th % 32)))
  ⟨m, t, rs.foldl (fun f r => f ||| r.2.2) 0, rs.map fun r => (r.1, r.2.1)⟩

/-- Bytes of codes of a width, low code first. -/
def packCodes (bits : Nat) (cs : List Nat) : List Nat :=
  if bits = 4 then
    (List.range (cs.length / 2)).map fun i => cs.toArray.getD (2 * i) 0 + 16 * cs.toArray.getD (2 * i + 1) 0
  else cs.flatMap fun c => (List.range (bits / 8)).map fun k => c / 256 ^ k % 256

/-- One row written by MSTG (R351): data bytes, scale bytes, flags. -/
def mstgRow (seed : W64) (gk tk : Nat) (acc : Array Wide) (cmd : MCmd) (r : Nat) : List Nat × List Nat × Flags5 :=
  let w := cmd.word.toNat
  let fmt := fld w 55 4
  let n := mstgCols w
  let cell (c : Nat) : Wide := acc.getD (r * 256 + c) ⟨.zero, false⟩
  if fmt ≥ 5 then
    let blocks := (List.range (n / 64)).map fun j =>
      let xs := (List.range 64).map fun i =>
        let x := cell (64 * j + i); (⟨x.v, x.s, mDraw seed gk tk cmd (r * n + 64 * j + i)⟩ : BlkIn)
      if fmt = 5 then encodeZb4 xs (sruOf cmd.mode)
      else encodeZb8 (if fmt = 6 then .e4m3 else .e5m2) xs (finOf cmd.mode) (sruOf cmd.mode)
    (packCodes (mstgBits fmt) (blocks.flatMap (·.codes)), blocks.flatMap fun b => [b.scale, b.special],
      blocks.foldl (fun f b => b.elemFl.foldl (· ||| ·) (f ||| b.blockFl)) 0)
  else
    let rs := (List.range n).map fun c =>
      let x := cell c
      if fmt = 0 then
        let y := roundFinal x.v .f32 ⟨finOf cmd.mode, false, false⟩ x.s 0
        (encodeF .f32 y.1, y.2)
      else
        let f := mFmt fmt
        let k := carrier x.v f x.s
        let y := roundFinal k.1 f (finMode cmd.mode f) k.2 (mDraw seed gk tk cmd (r * n + c))
        (encodeF f y.1, y.2)
    (packCodes (mstgBits fmt) (rs.map (·.1)), [], rs.foldl (fun f x => f ||| x.2) 0)

/-- MSTG (R351): rows in ascending order. -/
def runMstg (seed : W64) (gk tk : Nat) (t : Team) (m : Macro) (cmd : MCmd) : MDone :=
  let w := cmd.word.toNat
  let acc : Array Wide := ((List.range 4096).map fun i => sget ⟨.zero, false⟩ m.acc i).toArray
  let n := mstgCols w
  let rank := rankOf tk cmd.low
  let r := ((List.range 16).filter fun r => bit w r).foldl (fun (x : Team × Flags5) r =>
    let o := mstgRow seed gk tk acc cmd r
    let d := fld w 51 3
    let k := fld w 35 3
    let t1 := x.1.gladeRun d rank [] (fld w 38 13 * 64 + r * (n * mstgBits (fld w 55 4) / 8)) o.1
    let t2 := if o.2.1.isEmpty then t1 else t1.gladeRun k rank [] (fld w 22 13 * 64 + 2 * (r * (n / 64))) o.2.1
    (t2, x.2 ||| o.2.2)) (t, 0)
  ⟨m, r.1, r.2, []⟩

/-- Run a command on its macro. -/
def runCmd (seed : W64) (gk tk : Nat) (t : Team) (m : Macro) (cmd : MCmd) : Except (Cause × Nat) MDone :=
  match cmdKind cmd.word.toNat with
  | 1 => .ok (runMwld t m cmd.word.toNat)
  | 2 => runMmul t m cmd
  | 3 => .ok (runMclr t m cmd.word.toNat)
  | 4 => .ok (runMrd seed gk tk t m cmd)
  | 5 => .ok (runMstg seed gk tk t m cmd)
  | _ => runMspl t m cmd.word.toNat

/-- Change the head of a queue. -/
def Macro.setHead (m : Macro) (f : MCmd → MCmd) : Macro := match m.queue with
  | [] => m
  | q :: t => { m with queue := f q :: t }

/-- MACRO_COMMAND_START (R334, R336 to R338): the head command runs; its outcome is shown at its finish, its glade writes at once. While a gang
quiesces, the commands that stood at the heads when it stopped run, and those that a draining step waits for (R252). -/
def execMacroCommandStart (team mac : Nat) (s : State) : Out := match s.teams.find team, s.gangs.find (gangOfTeam team) with
  | some t, some g =>
    let m := t.mac mac
    match m.queue with
    | [] => notNow
    | q :: _ =>
      if q.started || !(g.mayStart s (gangOfTeam team) || (g.status == .quiescing && q.last)) then notNow
      else match runCmd (seedOf s (gangOfTeam team)) (gangOfTeam team) team t m q with
        | .error e => .next (s.setTeam team fun t => t.setMac mac fun m =>
            { m.setHead (fun q => { q with started := true, fails := some e }) with
              checks := if e.1 = .matrixCheck then min 255 (m.checks + 1) else m.checks })
        | .ok d => .next (s.setTeam team fun _ => d.team.setMac mac fun _ =>
            d.mac.setHead fun q => { q with started := true, flags := d.flags, regs := d.regs })
  | _, _ => notNow

/-- Write the registers an MRD gives. -/
def putRegs (s : State) (tk vd : Nat) (rs : List (Nat × Image)) : State :=
  { s with threads := s.threads.mapVals fun k t => match rs.find? fun r => threadKey tk r.1 == k with
      | some r => t.setV vd r.2
      | none => t }

/-- MACRO_COMMAND_FINISH (R336, R337): the command is signalled, its flags and registers land, or its issuer's thread stops. -/
def execMacroCommandFinish (team mac : Nat) (s : State) : Out := match s.teams.find team with
  | none => notNow
  | some t => match (t.mac mac).queue with
    | [] => notNow
    | q :: _ =>
      if !q.started then notNow
      else
        let s1 := s.setTeam team fun t => t.setMac mac fun m => { m with queue := m.queue.tail, done := m.done + 1 }
        match q.fails with
        | some e => match stopThread s1 team (abortArgs s1 team q.low q.info e.1 0 e.2) with
          | some s2 => .next s2.wake
          | none => notNow
        | none => .next ((putRegs s1 team (fld q.word.toNat 52 7) q.regs).raise (waveKey team q.wave) q.flags).wake

/-! ### MSTAT (R353) -/

/-- The status word of a macro. -/
def macroStatus (m : Macro) : Nat :=
  let b (k : Nat) : Option Bank := m.banks.find k
  let bits (p : Bank → Bool) : Nat := ((List.range 4).map fun k => if (b k).any p then 2 ^ k else 0).sum
  m.checks * 2 ^ 40 + m.owner.getD 255 * 2 ^ 32 + m.queue.length * 2 ^ 28 + bits (·.meta1.isSome) * 2 ^ 24 + bits (·.sparse) * 2 ^ 20
    + bits (fun _ => true) * 2 ^ 16 + ((List.range 4).map fun k => ((b k).map (·.fmt)).getD 15 * 16 ^ k).sum

/-- MSTAT (R353): a matrix instruction, so illegal in a team that does not own the macros (R332) and in a reduce kernel (R368). -/
def issMstat (d m : Nat) : Iss :=
  { uniform := true
    names := sNames [d]
    eff := fun c s =>
      if c.gang.reduceOf.isSome || !c.team.ownsMacros then .trap (c.trapArgs .illegalInstruction (lowLane c.lanes))
      else .done (eachSub c s fun w => w.wv.setS d (BitVec.ofNat 64 (macroStatus (c.team.mac m)))) }
/-- Mstat, issued. -/
def execMstat (d m : Nat) (s : State) : Out := issue (issMstat d m) s

end Sys2Proof.Machine
end

