-- ==== Sys2Proof/Machine/Copy.lean ====
section
/-! DEFINITION. Copy engines, batches and timelines (12_copy_engines R284 to R311). An operation reads its source at its start and
makes its writes from then to its finish; a start names the writes it makes at once (R289). -/
namespace Sys2Proof.Machine

/-! ### Channels -/

/-- A channel at first dispatch. -/
def Channel.init : Channel := ⟨[], none, 0, 0, []⟩
/-- Channel k of a gang. -/
def Gang.chan (g : Gang) (k : Nat) : Channel := sget Channel.init g.channels k
/-- Change channel k. -/
def Gang.setChan (g : Gang) (k : Nat) (f : Channel → Channel) : Gang := { g with channels := g.channels.put k (f (g.chan k)) }
/-- Change channel k of a gang of the state. -/
def State.setChan (s : State) (gk k : Nat) (f : Channel → Channel) : State := s.setGang gk (·.setChan k f)

/-! ### Parameters (R292, R295, R296, R301) -/

/-- Source and destination element bytes of a conversion; es: the size code of conv 0. A block side counts 0. -/
def convSizes (conv es : Nat) : Nat × Nat := match conv with
  | 0 => (2 ^ es, 2 ^ es)
  | 1 => (4, 2) | 2 => (4, 2) | 3 => (4, 1) | 4 => (4, 1)
  | 5 => (2, 4) | 6 => (2, 4) | 7 => (1, 4) | 8 => (1, 4)
  | 9 => (4, 0) | 10 => (4, 0) | 11 => (4, 0)
  | _ => (0, 4)

/-- The block bytes of conversions 9 to 14: 32 for ZB4, 64 for the others. -/
def blockBytes (conv : Nat) : Nat := if conv = 9 || conv = 12 then 32 else 64
/-- conv and es agree (R296). -/
def esOk (conv es : Nat) : Bool := if conv = 0 then decide (es ≤ 4) else es == 0

/-- The parameter block in eight registers: none when malformed (R295, R296). halo: HALO's own rules (R305). -/
def paramsOf (halo : Bool) (v : Nat → W64) : Option (Nat × Params) :=
  let c := (v 0).toNat
  let conv := fld c 20 4
  let es := fld c 16 3
  let dims := fld c 2 2
  let n (d : Nat) : Nat := fld (v 3).toNat (16 * d) 16
  let s32 (w : W64) (lo : Nat) : Int := sextN 32 (fld w.toNat lo 32)
  let ok := c / 2 ^ 24 == 0 && !bit c 19 && fld c 14 2 == 0 && decide (conv ≤ 8) && esOk conv es
    && ([1, 2, 3].all fun d => decide (d ≤ dims) || n d == 0)
    && (if halo then bit c 4 && bit c 5 && conv == 0 else fld c 12 2 == 0)
  if ok then
    let z := convSizes conv es
    let take {α : Type} (xs : List α) : List α := xs.take (dims + 1)
    some (fld c 0 2,
      ⟨conv, es, fld c 12 2, fld c 9 3, fld c 6 3, bit c 5, bit c 4, (v 1).toInt, (v 2).toInt, take [n 0 + 1, n 1 + 1, n 2 + 1, n 3 + 1],
        take [(z.1 : Int), s32 (v 4) 0, s32 (v 4) 32, s32 (v 5) 0], take [(z.2 : Int), s32 (v 5) 32, s32 (v 6) 0, s32 (v 6) 32], [], Cap.null, 0⟩)
  else none

/-! ### Offsets and spans (R287, R297, R303) -/

/-- Element offsets in iteration order, the first dimension fastest. -/
def offsetsOf (off : Int) : List (Nat × Int) → List Int
  | [] => [off]
  | (n, st) :: t => (offsetsOf off t).flatMap fun b => (List.range n).map fun (i : Nat) => b + (i : Int) * st

/-- The source offsets: dimension 0 by the gather list, where there is one. -/
def srcOffsets (p : Params) : List Int :=
  let z : Int := (convSizes p.conv p.es).1
  if p.gather.isEmpty then offsetsOf p.soff (p.counts.zip p.ss)
  else (offsetsOf p.soff ((p.counts.zip p.ss).drop 1)).flatMap fun b => p.gather.map fun (g : Nat) => b + (g : Int) * z
/-- The destination offsets. -/
def dstOffsets (p : Params) : List Int := offsetsOf p.doff (p.counts.zip p.ds)

/-- Lowest and highest offset of some dimensions, relative to element 0. -/
def extent : List (Nat × Int) → Int × Int
  | [] => (0, 0)
  | (n, st) :: t =>
    let r := extent t
    let e := ((n : Int) - 1) * st
    (r.1 + min 0 e, r.2 + max 0 e)

/-- The bytes [lo, hi) that the source side touches. -/
def srcSpan (p : Params) : Int × Int :=
  let z : Int := (convSizes p.conv p.es).1
  if z = 0 then (p.soff, p.soff + (p.counts.foldl (· * ·) 1 / 64 * blockBytes p.conv : Nat))
  else if p.gather.isEmpty then let e := extent (p.counts.zip p.ss); (p.soff + e.1, p.soff + e.2 + z)
  else
    let e := extent ((p.counts.zip p.ss).drop 1)
    let g := p.gather.map fun (g : Nat) => (g : Int) * z
    (p.soff + e.1 + g.foldl min (g.headD 0), p.soff + e.2 + g.foldl max (g.headD 0) + z)
/-- The bytes [lo, hi) that the destination side touches. -/
def dstSpan (p : Params) : Int × Int :=
  let z : Int := (convSizes p.conv p.es).2
  if z = 0 then (p.doff, p.doff + (p.counts.foldl (· * ·) 1 / 64 * blockBytes p.conv : Nat))
  else let e := extent (p.counts.zip p.ds); (p.doff + e.1, p.doff + e.2 + z)

/-! ### Checks (R287) -/

/-- The check of a global endpoint: cause and record place. strides: those of the dimensions that have more than one element. The multiple of the
element size is asked of the first element's place in the object, base and offset together, and of the strides: DESIGN CHOICE, R287 does not say from
where an element's offset is counted (log 31). -/
def globalBad (cap : Cap) (off : Int) (size : Nat) (strides : List Int) (sp : Int × Int) (r : Right) : Option (Cause × Nat × Nat) :=
  match checkCap cap off size r with
  | .error e => some e
  | .ok _ =>
    if strides.any fun st => st % (min size 16 : Nat) ≠ 0 then some (.alignment, 0, 0)
    else if sp.1 < 0 || sp.2 > cap.length then some (.capBounds, 0, 0)
    else none

/-- The check of a glade endpoint. -/
def gladeBad (s : State) (tk region : Nat) (sp : Int × Int) (shared : Bool) : Option (Cause × Nat × Nat) :=
  let r := regionOf s tk region
  if r.units = 0 || (shared && !r.shared) || sp.1 < 0 || sp.2 > (r.bytes : Nat) then some (.gladeRegion, 0, 0) else none

/-- Strides of the dimensions with more than one element. -/
def usedStrides (ns : List Nat) (st : List Int) : List Int := ((ns.zip st).filter fun p => decide (1 < p.1)).map (·.2)

/-- Source and destination overlap (R287). The data spans are compared; the scale stream through kcap is not: DESIGN CHOICE, R287 and R303 do not
say that it belongs to them (log 31). -/
def spansMeet (s : State) (tk stk : Nat) (p : Params) (sc dc : Cap) : Option (Cause × Nat × Nat) :=
  let a := srcSpan p
  let b := dstSpan p
  if p.sGlade && p.dGlade then
    let r := regionOf s tk p.dreg
    if stk == tk && p.sreg == p.dreg && !r.dual && a.1 < b.2 && b.1 < a.2 then some (.gladeRegion, 0, 0) else none
  else if !p.sGlade && !p.dGlade then
    if sc.object == dc.object && (sc.base : Int) + a.1 < dc.base + b.2 && (dc.base : Int) + b.1 < sc.base + a.2 then some (.capBounds, 0, 0) else none
  else none

/-- All checks of one operation (R287, R303, R305): the first failure. stk: the team of the glade source. The block side of conv 9 to 14 is checked
as one access of 32 or 64 bytes for each block, whose place is then a multiple of 16: DESIGN CHOICE, R303 states no alignment of it (log 31). -/
def opBad (s : State) (tk stk : Nat) (halo : Bool) (p : Params) (sc dc : Cap) : Option (Cause × Nat × Nat) :=
  let z := convSizes p.conv p.es
  let zs := if z.1 = 0 then blockBytes p.conv else z.1
  let zd := if z.2 = 0 then blockBytes p.conv else z.2
  let src := if p.sGlade then gladeBad s stk p.sreg (srcSpan p) halo
    else
      let first : Int := if p.gather.isEmpty then 0 else ((p.gather.headD 0 * z.1 : Nat) : Int)
      globalBad sc (p.soff + first) zs (if z.1 = 0 then [] else usedStrides (p.counts.drop 1) (p.ss.drop 1) ++
        (if p.gather.isEmpty then usedStrides (p.counts.take 1) (p.ss.take 1) else []))
        (srcSpan p) .r
  let dst := if p.dGlade then gladeBad s tk p.dreg (dstSpan p) false
    else globalBad dc p.doff zd (if z.2 = 0 then [] else usedStrides p.counts p.ds) (dstSpan p) .w
  let scl := if p.conv < 9 then none
    else globalBad p.kcap p.koff 2 [] (p.koff, p.koff + (2 * (p.counts.foldl (· * ·) 1 / 64) : Nat)) (if p.conv < 12 then .w else .r)
  (src.orElse fun _ => dst).orElse fun _ => scl.orElse fun _ => spansMeet s tk stk p sc dc

/-- The glade ranges of an operation (R288). -/
def opRanges (tk stk : Nat) (p : Params) : List GRange :=
  (if p.sGlade then let a := srcSpan p; [⟨stk, p.sreg, a.1.toNat, (a.2 - a.1).toNat, false⟩] else []) ++
  (if p.dGlade then let b := dstSpan p; [⟨tk, p.dreg, b.1.toNat, (b.2 - b.1).toNat, true⟩] else [])

/-! ### Reading and writing by an engine -/

/-- n bytes as a list, low byte first. -/
def bytesOf (v : Nat) : Nat → List Nat
  | 0 => []
  | n + 1 => v % 256 :: bytesOf (v / 256) n
/-- Bytes as a number, low byte first. -/
def numOf (bs : List Nat) : Nat := bs.foldr (fun b acc => b + 256 * acc) 0

/-- The pieces of n bytes from an offset that lie in one sector each. -/
def pieces (off n : Nat) : List (Nat × Nat) :=
  if n = 0 then [] else (List.range ((off + n - 1) / 32 - off / 32 + 1)).map fun i =>
    let lo := max off ((off / 32 + i) * 32)
    let hi := min (off + n) ((off / 32 + i + 1) * 32)
    (lo, hi - lo)

/-- The result of an engine's access. -/
inductive EAcc (α : Type) where
  | ok (v : α)
  | fault (c : Cause) (obj off : Nat)
  /-- Held until a snapshot copy is made (R225). -/
  | snap
  | bad
deriving DecidableEq, Repr

/-- How an engine reads: what it is bound to see, and the sectors it reads as memory stood after an earlier write (R322). -/
structure Reader where
  view : View
  old : Tab Nat
deriving DecidableEq, Repr

/-- The write as of which a reader of a die reads a sector: an older one only where the sector, which is read as one (R289), may be. -/
def Reader.time (r : Reader) (s : State) (die : Nat) (i : PageInfo) : Option Nat :=
  (r.old.find (i.phys / 32)).filter (s.mayRead [{ Agent.init with always := r.view }] (.engine die) { i with phys := i.phys / 32 * 32 } 32)

/-- Bytes of a sector as a reader of a die reads them. -/
def Reader.read (r : Reader) (s : State) (die : Nat) (i : PageInfo) (n : Nat) : Nat := s.readVal (r.time s die i) i.phys n

/-- An engine of a die reads n bytes of an object by sectors. -/
def engRead (s : State) (f : Fn) (die : Nat) (rd : Reader) (obj colour : Nat) : List (Nat × Nat) → EAcc (List Nat)
  | [] => .ok []
  | (o, n) :: t => match memCheck s f die obj o n colour .load with
    | .ok i => match engRead s f die rd obj colour t with
      | .ok bs => .ok (bytesOf (rd.read s die i n) n ++ bs)
      | e => e
    | .fail c _ => .fault c obj o
    | .snap => .snap
    | .bad => .bad

/-- An engine writes bytes of an object; each sector on its own. v: its writes so far; again: the first bytes belong to the access that made the latest
write. -/
def engWrite (s : State) (f : Fn) (die tk : Nat) (obj colour : Nat) (v : View) (again : Bool) : List (Nat × List Nat) → EAcc (State × View)
  | [] => .ok (s, v)
  | (o, bs) :: t => match memCheck s f die obj o bs.length colour .store with
    | .ok i =>
      let no := s.writeNo + (if again then 0 else 1)
      engWrite (noteWrite (s.writeAs ⟨.engine die, no, false, [], false⟩ i.phys bs.length (numOf bs)) tk obj i) f die tk obj colour
        (View.join v (View.ofWrite (i.kind == 2) no i.phys bs.length)) false t
    | .fail c _ => .fault c obj o
    | .snap => .snap
    | .bad => .bad

/-- The guest-physical address that the report of a parked engine access names (R213). -/
def guestOf (s : State) (f : Fn) (obj off : Nat) : Nat := match translate s.mem f obj off false with
  | .ok p => p.guest
  | .fail _ g => g
  | .bad => 0

/-- Read one element of a source. -/
def readSrc (s : State) (f : Fn) (die : Nat) (rd : Reader) (stk : Nat) (glade : Bool) (region : Nat) (cap : Cap) (off : Int) (n : Nat) : EAcc (List Nat) :=
  if glade then .ok ((regionOf s stk region).readBytes off.toNat n)
  else engRead s f die rd cap.object cap.colour (pieces ((cap.base : Int) + off).toNat n)

/-- Read elements in order. -/
def readAll (s : State) (f : Fn) (die : Nat) (rd : Reader) (stk : Nat) (glade : Bool) (region : Nat) (cap : Cap) (n : Nat) : List Int → EAcc (List (List Nat))
  | [] => .ok []
  | o :: t => match readSrc s f die rd stk glade region cap o n with
    | .ok bs => match readAll s f die rd stk glade region cap n t with
      | .ok r => .ok (bs :: r)
      | e => e
    | .fault c a b => .fault c a b
    | .snap => .snap
    | .bad => .bad

/-! ### Conversion (R292, R293) -/

/-- The narrow format of a conversion. -/
def convFmt : Nat → Fmt
  | 1 => .bf16 | 2 => .f16 | 3 => .e4m3 | 4 => .e5m2 | 5 => .bf16 | 6 => .f16 | 7 => .e4m3 | _ => .e5m2

/-- One element of conversions 0 to 8: its bytes and flags; u: its draw. -/
def convElem (conv : Nat) (mode : W64) (bs : List Nat) (u : Nat) : List Nat × Flags5 :=
  let f := convFmt conv
  if conv = 0 then (bs, 0)
  else if conv ≤ 4 then
    let c := carrier (decodeF .f32 (numOf bs)) f false
    let r := roundFinal c.1 f (finMode mode f) c.2 u
    (bytesOf (encodeF f r.1) (f.bits / 8), r.2)
  else (bytesOf (encodeF .f32 (decodeF f (numOf bs))) 4, 0)

/-- The elements of a block decoded (R62, R64): FP32 bytes and flags. -/
def decodeBlk (conv : Nat) (data pair : List Nat) : List (List Nat × Flags5) :=
  let a := data.toArray
  (List.range 64).map fun i =>
    let v := if conv = 12 then zb4Val (elemAt true a i) (pair.getD 0 0) (pair.getD 1 0)
      else zb8Val (if conv = 13 then .e4m3 else .e5m2) (a.getD i 0) (pair.getD 0 0)
    let r := holdBlock v
    (bytesOf r.f.toNat 4, r.fl)

/-- A block encoded (R65, R66): data bytes, scale pair, flags. -/
def encodeBlk (conv : Nat) (mode : W64) (xs : List (List Nat)) (u : Nat → Nat) : List Nat × List Nat × Flags5 :=
  let ins := xs.zipIdx.map fun p => (⟨decodeF .f32 (numOf p.1), false, u p.2⟩ : BlkIn)
  let b := if conv = 9 then encodeZb4 ins (sruOf mode) else encodeZb8 (if conv = 10 then .e4m3 else .e5m2) ins (finOf mode) (sruOf mode)
  (packCodes (if conv = 9 then 4 else 8) b.codes, [b.scale, b.special], b.elemFl.foldl (· ||| ·) b.blockFl)

/-- Cut a list into runs of 64. -/
def runs64 {α : Type} : Nat → List α → List (List α)
  | 0, _ => []
  | k + 1, xs => xs.take 64 :: runs64 k (xs.drop 64)

/-- A write at a place of a side. -/
def mkWrite (glade : Bool) (cap : Cap) (off : Int) (bs : List Nat) : CWrite :=
  ⟨glade, cap, if glade then off.toNat else ((cap.base : Int) + off).toNat, bs, false⟩

/-- Load an operation: its writes and flags, read from its source (R289, R297). -/
def loadOp (s : State) (f : Fn) (die : Nat) (rd : Reader) (gk tk stk : Nat) (mode : W64) (low q : Nat) (p : Params) (sc dc : Cap) : EAcc (List CWrite × Flags5) :=
  let z := convSizes p.conv p.es
  let draw (e : Nat) : Nat := sruDraw (seedOf s gk) (copyDrawId gk tk low) ((q * 65536 + e) % 2 ^ 32)
  if p.conv ≥ 12 then
    let nb := p.counts.foldl (· * ·) 1 / 64
    let bb := blockBytes p.conv
    match readAll s f die rd stk p.sGlade p.sreg sc bb ((List.range nb).map fun b => p.soff + (b * bb : Nat)),
        readAll s f die rd stk false 0 p.kcap 2 ((List.range nb).map fun b => (p.koff : Int) + (2 * b : Nat)) with
    | .ok ds, .ok ks =>
      let es := (ds.zip ks).flatMap fun b => decodeBlk p.conv b.1 b.2
      .ok (((dstOffsets p).zip es).map fun e => mkWrite p.dGlade dc e.1 e.2.1, es.foldl (fun fl e => fl ||| e.2) 0)
    | .ok _, .fault c a b => .fault c a b
    | .fault c a b, _ => .fault c a b
    | .bad, _ => .bad
    | _, .bad => .bad
    | _, _ => .snap
  else match readAll s f die rd stk p.sGlade p.sreg sc z.1 (srcOffsets p) with
    | .fault c a b => .fault c a b
    | .snap => .snap
    | .bad => .bad
    | .ok xs =>
      if p.conv ≥ 9 then
        let nb := xs.length / 64
        let bl := (runs64 nb xs).zipIdx.map fun b => encodeBlk p.conv mode b.1 fun i => draw (64 * b.2 + i)
        .ok (bl.zipIdx.flatMap fun b => [mkWrite p.dGlade dc (p.doff + (b.2 * blockBytes p.conv : Nat)) b.1.1,
            mkWrite false p.kcap ((p.koff : Int) + (2 * b.2 : Nat)) b.1.2.1],
          bl.foldl (fun fl b => fl ||| b.2.2) 0)
      else
        let es := xs.zipIdx.map fun x => convElem p.conv mode x.1 (draw x.2)
        .ok (((dstOffsets p).zip es).map fun e => mkWrite p.dGlade dc e.1 e.2.1, es.foldl (fun fl e => fl ||| e.2) 0)

/-- Make one write of an operation; done: the glade runs already made; again: it belongs to the sector just written. -/
def makeWrite (s : State) (f : Fn) (die tk low dreg : Nat) (v : View) (done : List (Nat × List Nat)) (again : Bool) (w : CWrite) : EAcc (State × View) :=
  if w.glade then .ok (s.setTeam tk fun t => t.gladeRun dreg (rankOf tk low) done w.off w.bytes, v)
  else engWrite s f die tk w.cap.object w.cap.colour v again ((pieces w.off w.bytes.length).map fun p => (p.1, (w.bytes.drop (p.1 - w.off)).take p.2))

/-- The outcome of making several writes: the state, the writes with their marks, the global writes made, and what stopped it. -/
structure WDone where
  s : State
  ws : List CWrite
  wrote : View
  stop : Option (Cause × Nat × Nat)
  snap : Bool
  bad : Bool

/-- The glade runs that writes have made. -/
def madeRuns (ws : List CWrite) : List (Nat × List Nat) := (ws.filter fun x => x.glade && x.made).map fun x => (x.off, x.bytes)

/-- The destination sector of a write. -/
def CWrite.sector (w : CWrite) : Bool × Nat × Nat := (w.glade, w.cap.object, w.off / 32)

/-- Make the unmade writes that sel picks, in order, until one fails; last: the sector of the global write just made, whose access goes on with it
(R289). -/
def makeWrites (f : Fn) (die tk low dreg : Nat) (sel : CWrite → Bool) (s : State) (v : View) (last : Option (Bool × Nat × Nat)) (acc : List CWrite) :
    List CWrite → WDone
  | [] => ⟨s, acc, v, none, false, false⟩
  | w :: t =>
    if w.made || !sel w then makeWrites f die tk low dreg sel s v last (acc ++ [w]) t
    else match makeWrite s f die tk low dreg v (madeRuns (acc ++ t)) (last == some w.sector) w with
      | .ok r => makeWrites f die tk low dreg sel r.1 r.2 (if w.glade then last else some w.sector) (acc ++ [{ w with made := true }]) t
      | .fault c a b => ⟨s, acc ++ w :: t, v, some (c, a, b), false, false⟩
      | .snap => ⟨s, acc ++ w :: t, v, none, true, false⟩
      | .bad => ⟨s, acc ++ w :: t, v, none, false, true⟩

/-- The destination sectors of an operation, in the order of its first writes to them. -/
def sectorList (ws : List CWrite) : List (Bool × Nat × Nat) := (ws.map CWrite.sector).eraseDups

/-- The writes cut at sectors; those to one sector of memory stand together, since each destination sector is one access (R289).
Where elements overlap in a sector, the last in iteration order wins: DESIGN CHOICE, R297 fixes no order of the writes (log 31). -/
def bySector (ws : List CWrite) : List CWrite :=
  let cut := ws.flatMap fun w => (pieces w.off w.bytes.length).map fun p => { w with off := p.1, bytes := (w.bytes.drop (p.1 - w.off)).take p.2 }
  let far := cut.filter fun w => !w.glade
  cut.filter (·.glade) ++ (sectorList far).flatMap fun x => far.filter fun w => w.sector == x

/-- The write lies in one of the numbered sectors. -/
def inSectors (ws : List CWrite) (early : List Nat) (w : CWrite) : Bool :=
  (early.filterMap fun i => (sectorList ws)[i]?).contains w.sector

/-! ### CPY, CPYM, HALO (R298, R304, R305) -/

/-- A prepared copy command of a subset. -/
structure CPrep where
  chan : Nat
  par : Params
  scap : Cap
  dcap : Cap
  stk : Nat
  follow : Option W64
  followBad : Bool
  scales : List W32
deriving DecidableEq, Repr

/-- The team of an operation's glade source. -/
def sourceTeam (gk tk : Nat) (halo : Bool) (p : Params) : Nat := if halo then teamKey gk p.member else tk

/-- Check a subset's CPY, CPYM or HALO. -/
def copyPrep (kind : CKind) (a b i : Nat) (c : Ctx) (s : State) (prev : List CPrep) (w : Sub) : Except TrapArgs CPrep :=
  let halo := kind == .halo
  match paramsOf halo fun k => w.wv.getS (a + k) with
  | none => .error (subTrap c w .illegalInstruction 0 0)
  | some (ch, p) =>
    let stk := sourceTeam c.gk c.tk halo p
    let sc := w.wv.getC b
    let dc := w.wv.getC i
    let z := convSizes p.conv p.es
    let src := if p.sGlade then gladeBad s stk p.sreg (srcSpan p) halo
      else globalBad sc p.soff z.1 (usedStrides p.counts p.ss) (srcSpan p) .r
    match src with
    | some e => .error (subTrap c w e.1 e.2.1 e.2.2)
    | none =>
      if kind == .cpym && !p.dGlade then .error (subTrap c w .gladeRegion 0 0)
      else match opBad s c.tk stk halo p sc dc with
        | some e => .error (subTrap c w e.1 e.2.1 e.2.2)
        | none =>
          if kind != .cpym then .ok ⟨ch, p, sc, dc, stk, none, false, []⟩
          else
            let v := w.wv.getS (a + 7)
            let sparse := match s.teams.find c.tk with
              | some t => sget 0 (t.mac (cmdMacro v.toNat)).accKind (cmdBank v.toNat) % 2 == 1
              | none => false
            if malformed v.toNat 0 sparse then .ok ⟨ch, p, sc, dc, stk, some v, true, []⟩
            else match checkCmd s c.tk w.w v.toNat 0 (c.all.map (·.t)) with
              | .error e => .error (subTrap c w e 0 0)
              | .ok r =>
                if prev.any fun q => q.follow.any fun u => !q.followBad && cmdMacro u.toNat == cmdMacro v.toNat then
                  .error (subTrap c w .illegalInstruction 0 0)
                else .ok ⟨ch, p, sc, dc, stk, some v, false, r.2⟩

/-- What an engine command's issuers have seen and are bound to see: its operation's reads are too (R286). -/
def issuerView (w : Sub) : View := w.lanes.foldl (fun v l => View.join v (View.join l.th.agent.seen (View.join l.th.agent.acq l.th.agent.always))) []

/-- Accept a subset's copy command (R284, R286, R293, R294, R335, R344). -/
def copyAccept (kind : CKind) (c : Ctx) (s : State) (w : Sub) (p : CPrep) : Option State :=
  match s.gangs.find c.gk, s.teams.find c.tk with
  | some g, some t =>
    let rs := opRanges c.tk p.stk p.par
    let fires := p.follow.isSome && !p.followBad
    let m := cmdMacro ((p.follow.getD 0).toNat)
    let room := !fires || (queueRoom (t.mac m) && (t.mac m).reserved.isEmpty)
    if decide ((g.chan p.chan).queue.length < 16) && boardRoom s rs && room then
      let id := s.nextId
      let low := lowLane w.lanes
      let wv := s.wave w.wk
      let q := (s.thread (threadKey c.tk low)).conv
      let cmd : CCmd := ⟨id, kind, w.wk, low, wv.batch, p.scap, p.dcap, p.par, w.wv.mode, q, c.issued [], 0, p.follow, p.followBad, p.scales, issuerView w⟩
      let s := { s with nextId := id + 1 }.setChan c.gk p.chan fun ch => { ch with queue := ch.queue ++ [cmd] }
      let s := if p.par.conv = 0 then s else s.setThread (threadKey c.tk low) fun t => { t with conv := t.conv + 1 }
      let s := if fires then s.setTeam c.tk fun t => t.setMac m fun x =>
          { x with reserved := x.reserved ++ [id], owner := some w.w, accKind := accepted x.accKind ((p.follow.getD 0).toNat) } else s
      some (takeBoard s id rs)
    else none
  | _, _ => none

/-- Names a copy reads. -/
def copyNames (a : Nat) (caps : List Nat) (c : Ctx) : List RegName := sNames ((List.range 8).map (a + ·)) c ++ cNames caps c

/-- CPY (R298). -/
def issCpy (a b i l : Nat) : Iss := engineIss l (copyNames a [b, i]) (fun _ => []) (copyPrep .cpy a b i) (copyAccept .cpy)
/-- Cpy, issued. -/
def execCpy (a b i l : Nat) (s : State) : Out := issue (issCpy a b i l) s
/-- CPYM (R304). -/
def issCpym (a b i l : Nat) : Iss := engineIss l (copyNames a [b, i]) (fun _ => []) (copyPrep .cpym a b i) (copyAccept .cpym)
/-- Cpym, issued. -/
def execCpym (a b i l : Nat) (s : State) : Out := issue (issCpym a b i l) s
/-- HALO (R305). -/
def issHalo (a l : Nat) : Iss := engineIss l (copyNames a []) (fun _ => []) (copyPrep .halo a 0 0) (copyAccept .halo)
/-- Halo, issued. -/
def execHalo (a l : Nat) (s : State) : Out := issue (issHalo a l) s

/-! ### CPYC (R299) -/

/-- An empty parameter set, for a chain whose parameters stand in its records. -/
def Params.none_ : Params := ⟨0, 0, 0, 0, 0, false, false, 0, 0, [], [], [], [], Cap.null, 0⟩

/-- Check a subset's CPYC (R299): the chain capability and the first record's offset. The check is that of one access of 128 bytes, so that base and
offset together must be a multiple of 16; it comes before LC, and the offset's own alignment last: DESIGN CHOICE, R299 names neither (log 31). -/
def chainPrep (a b : Nat) (c : Ctx) (_s : State) (_prev : List (Cap × Nat)) (w : Sub) : Except TrapArgs (Cap × Nat) :=
  let k := w.wv.getC a
  let off := (w.wv.getS b).toInt
  match checkCap k off 128 .r, checkCap k off 128 .w with
  | .error e, _ => .error (subTrap c w e.1 e.2.1 e.2.2)
  | _, .error e => .error (subTrap c w e.1 e.2.1 e.2.2)
  | .ok _, .ok _ =>
    if !k.has .lc then .error (subTrap c w .capRights 0 0)
    else if off % 128 ≠ 0 then .error (subTrap c w .alignment 0 0)
    else .ok (k, off.toNat)

/-- Accept a CPYC. -/
def chainAccept (ch : Nat) (c : Ctx) (s : State) (w : Sub) (p : Cap × Nat) : Option State :=
  match s.gangs.find c.gk with
  | some g =>
    if (g.chan ch).queue.length < 16 then
      let cmd : CCmd := ⟨s.nextId, .cpyc, w.wk, lowLane w.lanes, (s.wave w.wk).batch, p.1, Cap.null, Params.none_,
        w.wv.mode, 0, c.issued [], p.2, none, false, [], issuerView w⟩
      some ({ s with nextId := s.nextId + 1 }.setChan c.gk ch fun x => { x with queue := x.queue ++ [cmd] })
    else none
  | none => none

/-- CPYC (R299). -/
def issCpyc (a b i l : Nat) : Iss := engineIss l (fun c => cNames [a] c ++ sNames [b] c) (fun _ => []) (chainPrep a b) (chainAccept i)
/-- Cpyc, issued. -/
def execCpyc (a b i l : Nat) (s : State) : Out := issue (issCpyc a b i l) s

/-! ### Running operations -/

/-- Everything an event on a channel needs. -/
structure ChCtx where
  g : Gang
  ch : Channel
  q : CCmd
  tk : Nat
  fn : Fn
  die : Nat

/-- The head command of a channel of a gang in service. -/
def chCtx (s : State) (gk k : Nat) : Option ChCtx := match s.gangs.find gk, s.fnFor (launchOfGang gk) with
  | some g, some f => match (g.chan k).queue with
    | q :: _ => some ⟨g, g.chan k, q, q.wave / 64, f, dieOfQuad g.quad⟩
    | [] => none
  | _, _ => none

/-- The operation of a direct command, before it is loaded. -/
def opOf (q : CCmd) : CopyOp := ⟨q.id, q.scap, q.dcap, q.par, q.conv, false, [], 0, none, none, q.follow, none, 0, 0, 0, []⟩

/-- Park an operation at an access, or mark that it ends by an abort (R290). -/
def CopyOp.meets (o : CopyOp) (s : State) (f : Fn) (e : Cause × Nat × Nat) : CopyOp :=
  if parks e.1 then { o with parked := some e, fails := none, guest := guestOf s f e.2.1 e.2.2 } else { o with parked := none, fails := some e }

/-- Load an operation, whose source sectors read memory as the start says, and make the writes of the destination sectors it numbers. All source
sectors are read in this one event, before its writes can be seen: DESIGN CHOICE, R289 gives no time for the reads (log 31). -/
def startOp (s : State) (x : ChCtx) (gk k : Nat) (o : CopyOp) (start : CopyStart) : Out :=
  let stk := sourceTeam gk x.tk (x.q.kind == .halo) o.par
  let put (s : State) (o : CopyOp) : State := s.setChan gk k fun ch => { ch with op := some o }
  match loadOp s x.fn x.die ⟨x.q.view, start.old⟩ gk x.tk stk x.q.mode x.q.low o.conv o.par o.src o.dst with
  | .bad => .fault .noMemory
  | .snap => notNow
  | .fault c a b => .next (put s (o.meets s x.fn (c, a, b)))
  | .ok r =>
    let ws := bySector r.1
    let d := makeWrites x.fn x.die x.tk x.q.low o.par.dreg (inSectors ws start.early) s [] none [] ws
    if d.bad then .fault .noMemory
    else .next (put d.s { o with loaded := true, parked := none, writes := d.ws, flags := r.2, wrote := d.wrote }).wake

/-- COPY_OPERATION_START (R285, R289, R291): the next command starts, or one whose source was parked starts again. -/
def execCopyOperationStart (gang chan : Nat) (start : CopyStart) (s : State) : Out := match chCtx s gang chan with
  | none => notNow
  | some x =>
    if !x.g.mayStart s gang || x.q.kind == .cpyc then notNow
    else match x.ch.op with
      | none => startOp s x gang chan (opOf x.q) start
      | some o => if o.loaded || o.fails.isSome then notNow else startOp s x gang chan o start

/-! Chains (R300 to R303) -/

/-- Read n bytes at an offset of the chain capability, as items of a size: each is an access of its own. -/
def chainRead (s : State) (x : ChCtx) (rd : Reader) (off n size : Nat) : EAcc (List Nat) :=
  match checkCap x.q.scap off size .r, checkCap x.q.scap (off + (n - size) : Nat) size .r with
  | .error e, _ => .fault e.1 e.2.1 e.2.2
  | _, .error e => .fault e.1 e.2.1 e.2.2
  | .ok p, .ok _ => engRead s x.fn x.die rd p.1 x.q.scap.colour (pieces p.2 n)

/-- The validity bit of the half at an offset of the chain capability, read with the half (R143). -/
def chainValid (s : State) (x : ChCtx) (rd : Reader) (off : Nat) : Bool :=
  match translate s.mem x.fn x.q.scap.object (x.q.scap.base + off) false with
  | .ok p => s.validBit (rd.time s x.die p) p.phys
  | _ => false

/-- A record read: its operation with the view it has acquired, or why not. -/
inductive Rec where
  | op (o : CopyOp) (v : View)
  | ends
  | fault (c : Cause) (obj off : Nat)
  | bad
  | hold

/-- The fields of a record's 128 bytes are well-formed by themselves (R300, R301). -/
def recordOk (bs : List Nat) : Bool :=
  let n (i k : Nat) : Nat := numOf ((bs.drop i).take k)
  let c := n 8 8
  c / 2 ^ 24 == 0 && !bit c 19 && decide (fld c 20 4 ≤ 14) && esOk (fld c 20 4) (fld c 16 3) && n 112 16 == 0 && n 0 8 % 128 == 0
    && n 64 8 % 16 == 0 && n 72 8 % 4 == 0

/-- The operation of a record whose 128 bytes have been read; dims and gath: its tables. none: malformed. A gather of a block source (conv 12 to 14)
is taken as malformed: DESIGN CHOICE, R303 does not give its elements (log 31). -/
def recordOp (s : State) (x : ChCtx) (rd : Reader) (h : Nat) (bs : List Nat) (dims : List (List Nat)) (gath : List Nat) : Option CopyOp :=
  let n (i k : Nat) : Nat := numOf ((bs.drop i).take k)
  let c := n 8 8
  let conv := fld c 20 4
  let es := fld c 16 3
  let z := convSizes conv es
  let counts := dims.map fun d => numOf (d.take 4) + 1
  let ss := dims.map fun d => sextN 32 (numOf ((d.drop 8).take 4))
  let ds := dims.map fun d => sextN 32 (numOf ((d.drop 12).take 4))
  let cap (i : Nat) : Cap := ⟨BitVec.ofNat 128 (n i 16), chainValid s x rd (h + i)⟩
  let p : Params := ⟨conv, es, 0, fld c 13 3, fld c 10 3, bit c 9, bit c 8, sextN 64 (n 48 8), sextN 64 (n 56 8), counts, ss, ds, gath, cap 80, n 96 8⟩
  let ok := recordOk bs && (dims.all fun d => numOf ((d.drop 4).take 4) == 0) && (conv < 9 || (counts.headD 1 % 64 == 0 && n 96 8 % 2 == 0))
    && (z.1 != 0 || !bit c 2)
  if ok then some ⟨s.nextId, cap 16, cap 32, p, 0, false, [], 0, none, none, if bit c 3 then some (BitVec.ofNat 64 (n 104 8)) else none,
      some h, BitVec.ofNat 64 c, n 0 8, 0, []⟩
  else none

/-- What an engine acquires, at the object's scope, from bytes that it reads (R302, R361). -/
def engAcquired (s : State) (f : Fn) (die : Nat) (rd : Reader) (obj : Nat) (ps : List (Nat × Nat)) : View := ps.foldl (fun v p =>
  match translate s.mem f obj p.1 false with
  | .ok i => (inScope s (.engine die) (releasesOf (s.seenAt ((rd.time s die i).getD s.writeNo) i.phys p.2))).foldl
      (fun v r => if r.1 ≤ i.scope then View.join v r.2 else v) v
  | _ => v) []
/-- What an engine has seen of bytes that it reads (R312). -/
def engSeen (s : State) (f : Fn) (die : Nat) (rd : Reader) (obj : Nat) (ps : List (Nat × Nat)) : View := ps.foldl (fun v p =>
  match translate s.mem f obj p.1 false with
  | .ok i => View.join v (seenView i.phys (s.seenAt ((rd.time s die i).getD s.writeNo) i.phys p.2))
  | _ => v) []

/-- What the chain acquires from the control word at h (R302). -/
def chainAcquired (s : State) (x : ChCtx) (rd : Reader) (h : Nat) : View :=
  engAcquired s x.fn x.die rd x.q.scap.object [(x.q.scap.base + h + 8, 8)]

/-- Read the record at h (R302): control first, as an acquire; then, where the engine owns it, the rest and its tables. -/
def readRecord (s : State) (x : ChCtx) (old : Tab Nat) (h : Nat) : Rec :=
  let base : Nat × Nat := (x.q.scap.object, x.q.scap.base + h)
  let rd : Reader := ⟨x.q.view, old⟩
  let on {α : Type} (r : EAcc α) (f : α → Rec) : Rec := match r with
    | .ok v => f v
    | .fault c a b => .fault c a b
    | .bad => .bad
    | .snap => .hold
  if h % 128 ≠ 0 then .fault .illegalInstruction base.1 base.2
  else on (chainRead s x rd (h + 8) 8 8) fun cs =>
    if numOf cs % 2 = 0 then .ends
    else
      let v := View.join x.q.view (chainAcquired s x rd h)
      let rd : Reader := ⟨v, old⟩
      on (chainRead s x rd h 8 8) fun b0 => on (chainRead s x rd (h + 16) 112 16) fun b2 =>
        let bs := b0 ++ cs ++ b2
        let c := numOf cs
        if !recordOk bs then .fault .illegalInstruction base.1 base.2
        else
          let nd := fld c 4 4 + 1
          on (chainRead s x rd (numOf ((bs.drop 64).take 8)) (16 * nd) 16) fun ds =>
            let dims := (List.range nd).map fun i => (ds.drop (16 * i)).take 16
            let n0 := numOf ((dims.headD []).take 4) + 1
            on (if bit c 2 then chainRead s x rd (numOf ((bs.drop 72).take 8)) (4 * n0) 4 else .ok []) fun gs =>
              let gl := if bit c 2 then (List.range n0).map fun i => numOf ((gs.drop (4 * i)).take 4) else []
              match recordOp s x rd h bs dims gl with
              | some o => .op o v
              | none => .fault .illegalInstruction base.1 base.2

/-- A record that cannot be performed: an operation that is parked or aborts. -/
def failedOp (s : State) (f : Fn) (h : Nat) (e : Cause × Nat × Nat) : CopyOp :=
  CopyOp.meets ⟨s.nextId, Cap.null, Cap.null, Params.none_, 0, false, [], 0, none, none, none, some h, 2, 0, 0, []⟩ s f e

/-- Drop the head command of a channel. -/
def popCmd (s : State) (gk k : Nat) : State := s.setChan gk k fun ch => { ch with queue := ch.queue.tail, op := none }

/-- CHAIN_RECORD_WALK (R302, R303): the engine reads the chain's next record and performs it as one operation, or ends the chain.
A converting record takes and raises its thread's conversion count here (R293), and one that fails its check takes none: DESIGN CHOICE, the rule gives no
time for it (log 31). -/
def execChainRecordWalk (gang : Nat) (walk : ChainWalk) (s : State) : Out := match chCtx s gang walk.chan with
  | none => notNow
  | some x =>
    if !x.g.mayStart s gang || x.q.kind != .cpyc then notNow
    else
      let h := x.q.chain
      let put (s : State) (o : CopyOp) : State := { s with nextId := s.nextId + 1 }.setChan gang walk.chan fun ch => { ch with op := some o }
      let fresh : Out := match readRecord s x walk.start.old h with
        | .bad => .fault .noMemory
        | .hold => notNow
        | .ends => .next (popCmd s gang walk.chan).wake
        | .fault c a b => .next (put s (failedOp s x.fn h (c, a, b)))
        | .op o v =>
          let x := { x with q := { x.q with view := v } }
          let s := s.setChan gang walk.chan fun ch => { ch with queue := match ch.queue with | q :: t => { q with view := v } :: t | [] => [] }
          match opBad s x.tk x.tk false o.par o.src o.dst with
          | some e => .next (put s { o with fails := some e })
          | none =>
            let rs := opRanges x.tk x.tk o.par
            if boardRoom s rs then
              let low := threadKey x.tk x.q.low
              let q := (s.thread low).conv
              let s1 := if o.par.conv = 0 then s else s.setThread low fun t => { t with conv := t.conv + 1 }
              startOp (takeBoard { s1 with nextId := s1.nextId + 1 } o.id rs) x gang walk.chan { o with conv := q } walk.start
            else notNow
      match x.ch.op with
      | none => fresh
      | some o =>
        if o.loaded || o.fails.isSome then notNow
        else if o.par.counts.isEmpty then fresh
        else startOp s x gang walk.chan o walk.start

/-! ### Finish, follow, abort -/

/-- The control word of a record with own cleared, as a write (R302). -/
def ownWrite (x : ChCtx) (h : Nat) (c : W64) : CWrite :=
  ⟨false, x.q.scap, x.q.scap.base + h + 8, bytesOf (c.toNat / 2 * 2) 8, false⟩

/-- The operation is signalled (R285, R289): the timeline rises, and releases its writes; a chain goes on to its next record. -/
def signalOp (s : State) (x : ChCtx) (gk k : Nat) (o : CopyOp) : State :=
  let s1 := s.setChan gk k fun ch =>
    let ch := { ch with op := none, done := ch.done + 1, signals := ch.signals ++ [(⟨ch.done + 1, x.q.wave, x.q.batch, o.wrote⟩ : Signal)] }
    if o.record.isSome ∧ !bit o.control.toNat 1 then { ch with queue := match ch.queue with | q :: t => { q with chain := o.next } :: t | [] => [] }
    else { ch with queue := ch.queue.tail }
  (s1.raise x.q.wave o.flags).wake

/-- COPY_OPERATION_FINISH (R289): the remaining writes are made; unless a follow command must first be accepted, the operation is signalled. -/
def execCopyOperationFinish (gang chan : Nat) (s : State) : Out := match chCtx s gang chan with
  | none => notNow
  | some x => match x.ch.op with
    | none => notNow
    | some o =>
      if !o.loaded || o.fails.isSome || !standing s x.tk then notNow
      else
        let d := makeWrites x.fn x.die x.tk x.q.low o.par.dreg (fun _ => true) s o.wrote none [] o.writes
        let o1 := { o with writes := d.ws, wrote := d.wrote, parked := none }
        let put (o : CopyOp) : Out := .next (d.s.setChan gang chan fun ch => { ch with op := some o }).wake
        if d.bad then .fault .noMemory
        else if d.snap then (if d.ws = o.writes then notNow else put o1)
        else match d.stop with
          | some e => put (o1.meets d.s x.fn e)
          | none =>
            if o.follow.isSome then (if d.ws = o.writes then notNow else put o1)
            else match o.record with
              | none => .next (signalOp d.s x gang chan o1)
              | some h => match makeWrite d.s x.fn x.die x.tk x.q.low 0 d.wrote [] false (ownWrite x h o.control) with
                | .ok r => .next (signalOp r.1 x gang chan { o1 with wrote := r.2 })
                | .fault c a b => put (o1.meets d.s x.fn (c, a, b))
                | .snap => notNow
                | .bad => .fault .noMemory

/-- CPYM_FOLLOW_ISSUE (R304, R332, R335): the latched command enters its macro's queue, or the operation aborts; that of a chain's record waits for a
place that no CPYM has reserved, also of one accepted after its CPYC: DESIGN CHOICE, R335 does not order the two (log 31).
The command of a record with a global destination, which has no glade byte to wait for, may enter once the record is loaded, before its global writes
are made: DESIGN CHOICE, R304 does not say when (log 31). -/
def execCpymFollowIssue (gang chan : Nat) (s : State) : Out := match chCtx s gang chan with
  | none => notNow
  | some x => match x.ch.op, s.teams.find x.tk with
    | some o, some t => match o.follow with
      | none => notNow
      | some v =>
        if !o.loaded || o.fails.isSome || !standing s x.tk || !(o.writes.all fun w => w.made || !w.glade) then notNow
        else
          let fails (c : Cause) : Out := .next (s.setChan gang chan fun ch => { ch with op := some { o with fails := some (c, 0, 0), follow := none } })
          if x.q.followBad then fails .illegalInstruction
          else match checkCmd s x.tk (x.q.wave % 64) v.toNat 0 (x.q.info.lanes) with
            | .error c => fails c
            | .ok r =>
              let m := t.mac (cmdMacro v.toNat)
              let chain := x.q.kind == .cpyc
              if (chain && !(queueRoom m && m.reserved.isEmpty)) || !boardRoom s r.1 then notNow
              else
                let cmd : MCmd := ⟨s.nextId, v, x.q.wave % 64, x.q.low, [], x.q.mode, 0, if chain then r.2 else x.q.scales, x.q.info, false, 0, [], none, false⟩
                let s1 := enqueueCmd s x.tk cmd r.1 (some x.q.id)
                .next (s1.setChan gang chan fun ch => { ch with op := some { o with follow := none } }).wake
    | _, _ => notNow

/-- Give back the macro place a CPYM reserved and did not fill (R335). -/
def dropReservation (s : State) (tk id : Nat) : State :=
  s.setTeam tk fun t => { t with macros := t.macros.mapVals fun _ m => { m with reserved := m.reserved.filter (· != id) } }

/-- The aborted operation is signalled (R290), with the flags of the elements it has converted (R292). A record keeps its own bit only where its
control word cannot be written; then the chain ends. -/
def abortSignal (s : State) (x : ChCtx) (gang chan : Nat) (o : CopyOp) : State :=
  let s2 := dropReservation s x.tk x.q.id
  match o.record with
  | none => signalOp s2 x gang chan o
  | some h =>
    let ends := { o with control := 2#64 }
    if o.par.counts.isEmpty then signalOp s2 x gang chan ends
    else match makeWrite s2 x.fn x.die x.tk x.q.low 0 o.wrote [] false (ownWrite x h o.control) with
      | .ok r => signalOp r.1 x gang chan { o with wrote := r.2 }
      | _ => signalOp s2 x gang chan ends

/-- An engine's access to uncorrectable data in a replayable launch: the launch is replayed, and the operation neither traps nor ends (R391, R423). -/
def engineReplays (s : State) (gk : Nat) (c : Cause) : Bool := c == .uncorrectable && replays s (launchOfGang gk)

/-- The aborted record's control word lies in a page that waits for a snapshot copy (R225). -/
def ownHeld (s : State) (x : ChCtx) (o : CopyOp) : Bool := o.record.any fun h =>
  !o.par.counts.isEmpty && memCheck s x.fn x.die x.q.scap.object (x.q.scap.base + h + 8) 8 x.q.scap.colour .store == .snap

/-- COPY_OPERATION_ABORT (R290): of an operation that has met an unresolvable fault, or whose parked fault was declared fatal. -/
def execCopyOperationAbort (gang chan : Nat) (s : State) : Out := match chCtx s gang chan with
  | none => notNow
  | some x => match x.ch.op with
    | none => notNow
    | some o => match o.fails with
      | none => notNow
      | some e => if engineReplays s gang e.1 then .next (s.consume (launchOfGang gang))
        else if ownHeld s x o then notNow
        else match stopThread s x.tk (abortArgs s x.tk x.q.low x.q.info e.1 e.2.1 e.2.2) with
        | none => notNow
        | some s1 => .next (abortSignal s1 x gang chan o)

/-- The command or operation of a scoreboard entry still has glade bytes to read or write (R243). A source counts as read once the operation's global
writes are made too, before which a stop may have it read again (R291): DESIGN CHOICE, R289 gives the reads no time (log 31). -/
def entryBusy (s : State) (e : SbEntry) : Bool :=
  (s.gangs.any fun g => g.2.channels.vals.any fun ch =>
    match ch.op with
    | some o => if o.id = e.op then (!o.loaded || o.writes.any fun w => w.glade == e.writes && !w.made) && o.fails.isNone
        else ch.queue.tail.any (·.id == e.op)
    | none => ch.queue.any (·.id == e.op)) ||
  (s.teams.any fun t => t.2.macros.vals.any fun m => m.queue.any fun q => q.id == e.op && !q.started)

/-- SCOREBOARD_ENTRY_RETIRE (R243, R336). -/
def execScoreboardEntryRetire (team entry : Nat) (s : State) : Out := match s.teams.find team with
  | none => notNow
  | some t => match t.board.find entry with
    | none => notNow
    | some e => if entryBusy s e then notNow
      else .next (s.setTeam team fun t => { t with board := t.board.del entry }).wake

/-! ### Batches (R294, R306, R307) -/

/-- The batches of a wave-of-origin that have unfinished commands. -/
def openBatches (g : Gang) (wk : Nat) : List Nat :=
  ((g.channels.vals.flatMap (·.queue)).filter fun q => q.wave == wk).map (·.batch) |>.eraseDups
/-- Sealed batches that have not finished. -/
def unfinished (g : Gang) (w : Sub) : Nat := ((openBatches g w.wk).filter fun b => decide (b < w.wv.batch)).length

/-- CBSEAL (R306): waits where a 17th unfinished sealed batch would stand. -/
def issCbseal (d : Nat) : Iss :=
  { uniform := true
    names := sNames [d]
    eff := fun c s =>
      if c.subs.all fun w => decide (unfinished c.gang w < 16) || !(openBatches c.gang w.wk).contains w.wv.batch then
        .done (eachSub c s fun w => { (w.wv.setS d (BitVec.ofNat 64 w.wv.batch)) with batch := w.wv.batch + 1 })
      else .wait }
/-- Cbseal, issued. -/
def execCbseal (d : Nat) (s : State) : Out := issue (issCbseal d) s

/-- What the finished sealed batches of a subset's wave-of-origin release (R289). -/
def batchesGiven (g : Gang) (w : Sub) : View :=
  ((g.channels.vals.flatMap (·.signals)).filter fun x => x.wave == w.wk && decide (x.batch < w.wv.batch) && !(openBatches g w.wk).contains x.batch).foldl
    (fun v x => View.join v x.view) []

/-- The threads of each subset acquire a view for accesses of every kind (R317). -/
def acquireSubs (c : Ctx) (s : State) (v : Sub → View) : State :=
  c.subs.foldl (fun s w => s.onAgents (w.lanes.map (·.key)) (·.acquire true (v w))) s

/-- CBWAIT (R307): acquires every finished sealed batch. -/
def issCbwait (n : Nat) : Iss :=
  { uniform := true
    eff := fun c s => if c.subs.all fun w => decide (unfinished c.gang w ≤ n) then .done (acquireSubs c s (batchesGiven c.gang)) else .wait }
/-- Cbwait, issued. -/
def execCbwait (n : Nat) (s : State) : Out := issue (issCbwait n) s

/-! ### Timelines (R308 to R311) -/

/-- The value of a timeline of a gang, as seen on a core (R285, R308, R336, R360). -/
def timelineOf (s : State) (g : Gang) (l : Launch) (core k : Nat) : Nat :=
  if k < 4 then (g.chan k).done
  else if k < 6 then (coreMacro s core (k - 4)).done
  else if k < 8 then g.relay.done
  else (sget 0#64 l.timelines k).toNat
/-- The value of a timeline as a group sees it. -/
def timeline (c : Ctx) (s : State) (k : Nat) : Nat := timelineOf s c.gang c.launch c.team.core k

/-- What a subset's threads release to every kind (R316). -/
def Sub.released (s : State) (c : Ctx) (w : Sub) : View := w.lanes.foldl (fun v l => View.join v (s.thread (threadKey c.tk l.t)).agent.all) []

/-- Signal a program timeline for one subset after another; each first waits as FENCE.full does. -/
def signalSubs (c : Ctx) (a b : Nat) (fresh : Bool) : State → List Sub → Eff
  | s, [] => .done s
  | s, w :: t => match subQuiet c s w with
    | .go =>
      let v := w.wv.getS b
      let s1 := s.setLaunch c.lk fun l =>
        let o := sget 0#64 l.timelines a
        let n := if o.toNat < v.toNat then v else o
        { l with timelines := sset 0#64 l.timelines a n, signals := l.signals.put a (((l.signals.find a).getD []) ++ [(⟨n.toNat, 0, 0, w.released s c⟩ : Signal)]) }
      signalSubs c a b false (subActed c w s1).wake t
    | .wait => if fresh then .wait else .waitAs s
    | .park x => if fresh then .park x else .waitAs s

/-- TLSIG (R309). -/
def issTlsig (a b : Nat) : Iss :=
  { uniform := true
    names := sNames [b]
    eff := fun c s => signalSubs c a b true s c.todo }
/-- Tlsig, issued. -/
def execTlsig (a b : Nat) (s : State) : Out := issue (issTlsig a b) s

/-- What a wait on a timeline for n acquires (R310, R319): the operations numbered n or below; of a program timeline the signal that first brought
it to n, and every signal before it (none brought it to 0). -/
def timelineGiven (g : Gang) (l : Launch) (a n : Nat) : View :=
  let xs := if a < 4 then (g.chan a).signals else if a < 6 then [] else if a < 8 then g.relay.signals else ((l.signals.find a).getD [])
  let ys := if a < 8 then xs.filter fun x => decide (x.value ≤ n)
    else let below := xs.takeWhile fun x => decide (x.value < n); below ++ (xs.drop below.length).take (min n 1)
  ys.foldl (fun v x => View.join v x.view) []

/-- TLWAIT (R310). -/
def issTlwait (a b : Nat) : Iss :=
  { uniform := true
    names := sNames [b]
    eff := fun c s => if c.subs.all fun w => decide ((w.wv.getS b).toNat ≤ timeline c s a) then
        .done (acquireSubs c s fun w => timelineGiven c.gang c.launch a (w.wv.getS b).toNat) else .wait }
/-- Tlwait, issued. -/
def execTlwait (a b : Nat) (s : State) : Out := issue (issTlwait a b) s

/-- TLRD (R311). -/
def issTlrd (a b : Nat) : Iss :=
  { uniform := true
    names := sNames [a]
    eff := fun c s => .done (eachSub c s fun w => w.wv.setS a (BitVec.ofNat 64 (timeline c s b))) }
/-- Tlrd, issued. -/
def execTlrd (a b : Nat) (s : State) : Out := issue (issTlrd a b) s

end Sys2Proof.Machine
end

