-- ==== Sys2Proof/Machine/Gmem.lean ====
section
/-! DEFINITION. Lane global loads and stores at issue (09_global_memory R227 to R235). What the memory side does with them stands in MemSide. -/
namespace Sys2Proof.Machine

/-! ### Shapes -/

/-- The byte offset of a lane's access (R214). -/
def Ctx.laneOff (c : Ctx) (l : Lane) (x n : Nat) (disp : Int) : Int := laneOffset (c.src l x) n disp

/-- A load of n bytes a lane into k registers from vt (R229, R231, R235). lits: literal words; disp: the displacement. -/
def laneLoad (n k : Nat) (conv : Conv) (lits : Nat) (disp : Int) (t x b l : Nat) : Iss where
  lits := lits
  la := some l
  load := true
  mem := true
  names := fun c => vNames (x :: (List.range k).map (t + ·)) c ++ cNames [b] c
  dests := vNames ((List.range k).map (t + ·))
  eff := fun c s =>
    match checkWants c (c.lanes.map fun l => ([l.t], l.wk, ⟨l.wv.getC b, c.laneOff l x n disp, n, [.r]⟩)) with
    | .error e => .trap e
    | .ok qs => .done (sendLoads c s (c.issued [x])
        ((qs.zip c.lanes).map fun q => (q.1, ⟨[q.2.t], q.2.wk, q.1.off, n, c.span q.2 t k, conv, 0, none, q.1.cap⟩)))

/-- A store of n bytes a lane (R230, R232, R235): data gives the bytes, the flags raised and the draws consumed at issue. -/
def laneStore (n k : Nat) (data : Ctx → Lane → Nat × Flags5 × Nat) (lits : Nat) (disp : Int) (t x b l : Nat) : Iss where
  lits := lits
  la := some l
  mem := true
  names := fun c => vNames (x :: (List.range k).map (t + ·)) c ++ cNames [b] c
  eff := fun c s =>
    match checkWants c (c.lanes.map fun l => ([l.t], l.wk, ⟨l.wv.getC b, c.laneOff l x n disp, n, [.w]⟩)) with
    | .error e => .trap e
    | .ok qs =>
      if windowFits c s qs then
        .done (sendStores c (atIssue c s fun l => let r := data c l; ⟨l.th.drew r.2.2, r.2.1⟩)
          (c.issued (x :: (List.range k).map (t + ·)))
          ((qs.zip c.lanes).map fun q => (q.1, .store (data c q.2).1 none)))
      else .wait

/-- The bytes of a plain store (R230): the fields, low word first; a dropped S raises inexact. -/
def plainData (n k t : Nat) (c : Ctx) (l : Lane) : Nat × Flags5 × Nat :=
  let xs := (List.range k).map fun i => c.src l (t + i)
  (xs.foldr (fun x acc => x.f.toNat + 4294967296 * acc) 0 % 256 ^ n, flagIf (xs.any (·.s)) fInexact, 0)

/-- The bytes of a format store (R232): the final rounding, one draw. -/
def fmtData (f : Fmt) (t : Nat) (c : Ctx) (l : Lane) : Nat × Flags5 × Nat :=
  let r := finalOf c l f (c.src l t) 0
  (encodeF f r.1, r.2, 1)

/-- The bytes of VSPILL (R235): the field and S in bit 32. -/
def spillData (t : Nat) (c : Ctx) (l : Lane) : Nat × Flags5 × Nat :=
  let x := c.src l t
  (x.f.toNat + (if x.s then 4294967296 else 0), 0, 0)

/-! ### Blocks (R233, R234) -/

/-- A block access's place in one lane: pair within the block, data offset, scale offset. -/
def blockAddr (x : Image) (n : Nat) (disp : Int) : Nat × Int × Int :=
  let p := sextN 32 x.f.toNat
  ((p % 32).toNat, p * n + disp, 2 * (p / 32) + 2 * disp / (32 * n))

/-- LD.zb4 and LD.zb8: two accesses a lane, data then scales (R233). -/
def blockLoad (n : Nat) (conv : Conv) (lits : Nat) (disp : Int) (t x b l : Nat) : Iss where
  lits := lits
  la := some l
  load := true
  mem := true
  names := fun c => vNames [x, t, t + 1] c ++ cNames [b, b + 1] c
  dests := vNames [t, t + 1]
  eff := fun c s =>
    match checkWants c (c.lanes.flatMap fun l =>
        let a := blockAddr (c.src l x) n disp
        [([l.t], l.wk, ⟨l.wv.getC b, a.2.1, n, [.r]⟩), ([l.t], l.wk, ⟨l.wv.getC (b + 1), a.2.2, 2, [.r]⟩)]) with
    | .error e => .trap e
    | .ok qs => .done (sendLoads c s (c.issued [x])
        ((qs.zip ((c.lanes.flatMap fun l => [l, l]).zipIdx)).map fun q =>
          (q.1, ⟨[q.2.1.t], q.2.1.wk, q.1.off, q.1.size, c.span q.2.1 t 2, conv, 1 + q.2.2 % 2, none, q.1.cap⟩)))

/-- The block that a lane's pair index names (R234). -/
def blockIndex (x : Image) : Int := sextN 32 x.f.toNat / 32

/-- A lane's pair of a block store: block, place in it, and its requests for data and for scales. -/
structure Pair where
  lane : Lane
  b : Int
  j : Nat
  data : Req
  scale : Req
deriving DecidableEq, Repr

/-- Group pairs by block, in order of the lowest-ranked lane. -/
def blocksOf : List (List Pair) → List Pair → List (List Pair)
  | acc, [] => acc
  | acc, p :: t =>
    let rec ins : List (List Pair) → List (List Pair)
      | [] => [[p]]
      | b :: bs => (match b with
        | q :: _ => if q.b == p.b then (b ++ [p]) :: bs else b :: ins bs
        | [] => b :: ins bs)
    blocksOf (ins acc) t

/-- The input elements of a block (R234): for each pair the lowest-ranked lane that names it, else +0. -/
def blockInputs (c : Ctx) (t : Nat) (ps : List Pair) : List (BlkIn × Option Lane) :=
  (List.range 32).flatMap fun j => match ps.find? fun p => p.j == j with
    | some p => [0, 1].map fun k =>
        let x := c.src p.lane (t + k)
        (⟨val32 x.f, x.s, laneDraw c p.lane k⟩, some p.lane)
    | none => [(⟨.zero, false, 0⟩, none), (⟨.zero, false, 0⟩, none)]

/-- Data byte i of an encoded block (R61). -/
def Block.byte (zb4 : Bool) (b : Block) (i : Nat) : Nat :=
  if zb4 then b.codes.getD (2 * i) 0 + 16 * b.codes.getD (2 * i + 1) 0 else b.codes.getD i 0

/-- The two scale-stream bytes of an encoded block. -/
def Block.pair (b : Block) : Nat := b.scale + 256 * b.special

/-- One block of a block store, encoded under the mode of its lowest-ranked lane's wave-of-origin (R234). -/
def encodeBlock (zb4 : Bool) (mode : W64) (xs : List BlkIn) : Block :=
  if zb4 then encodeZb4 xs (sruOf mode) else encodeZb8 .e4m3 xs (finOf mode) (sruOf mode)

/-- What a block store makes of one block: its accesses, and the flags of each wave. -/
def blockStores (c : Ctx) (zb4 : Bool) (n t : Nat) (ps : List Pair) : List (Req × AKind) × List (Nat × Flags5) :=
  match ps with
  | [] => ([], [])
  | low :: _ =>
    let ins := blockInputs c t ps
    let b := encodeBlock zb4 low.lane.wv.mode (ins.map (·.1))
    let fl := (ins.zip b.elemFl).filterMap fun p => p.1.2.map fun l => (l.wk, p.2)
    let data := ps.map fun p => (p.data, AKind.store (if zb4 then b.byte true p.j else b.byte false (2 * p.j) + 256 * b.byte false (2 * p.j + 1)) none)
    (data ++ [(low.scale, AKind.store b.pair none)], fl ++ ps.map fun p => (p.lane.wk, b.blockFl))

/-- The accesses of the encoded blocks in the rank order of the lanes that make them (R218). -/
def inRankOrder (c : Ctx) (bs : List (List (Req × AKind) × List (Nat × Flags5))) : List (Req × AKind) :=
  c.lanes.flatMap fun l => (bs.flatMap (·.1)).filter fun q => q.1.threads == [l.t]

/-- Raise flags in several waves. -/
def State.raiseAll (s : State) : List (Nat × Flags5) → State
  | [] => s
  | (w, f) :: t => (s.raise w f).raiseAll t

/-- The requests of a block store, two a lane, paired up. -/
def pairUp (n : Nat) (disp : Int) (c : Ctx) (x : Nat) : List Lane → List Req → List Pair
  | l :: ls, d :: sc :: qs => ⟨l, blockIndex (c.src l x), (blockAddr (c.src l x) n disp).1, d, sc⟩ :: pairUp n disp c x ls qs
  | _, _ => []

/-- ST.zb4 and ST.zb8 (R234): every active lane stores its data bytes and consumes two draws. Both accesses are checked for every active lane, that
at ds too, which only the lowest-ranked supplying lane of a block stores: DESIGN CHOICE, R215 and R234 do not say (log 31). -/
def blockStore (zb4 : Bool) (n : Nat) (lits : Nat) (disp : Int) (t x b l : Nat) : Iss where
  lits := lits
  la := some l
  mem := true
  names := fun c => vNames [x, t, t + 1] c ++ cNames [b, b + 1] c
  eff := fun c s =>
    match checkWants c (c.lanes.flatMap fun l =>
        let a := blockAddr (c.src l x) n disp
        [([l.t], l.wk, ⟨l.wv.getC b, a.2.1, n, [.w]⟩), ([l.t], l.wk, ⟨l.wv.getC (b + 1), a.2.2, 2, [.w]⟩)]) with
    | .error e => .trap e
    | .ok qs =>
      let bs := (blocksOf [] (pairUp n disp c x c.lanes qs)).map (blockStores c zb4 n t)
      let sts := inRankOrder c bs
      if windowFits c s (sts.map (·.1)) then
        .done (sendStores c ((atIssue c s fun l => ⟨l.th.drew 2, 0⟩).raiseAll (bs.flatMap (·.2))) (c.issued [x, t, t + 1]) sts)
      else .wait

/-! ### Meanings -/

/-- LD.n8 (R229). -/
def issLdN8 (t x b l : Nat) : Iss := laneLoad 1 1 (.zext 1) 0 0 t x b l
/-- LdN8, issued. -/
def execLdN8 (t x b l : Nat) (s : State) : Out := issue (issLdN8 t x b l) s
/-- LD.n8 (R229), with a literal displacement (R214). -/
def issLdN8Twin (t x b l w : Nat) : Iss := laneLoad 1 1 (.zext 1) 1 (disp32 w) t x b l
/-- LdN8Twin, issued. -/
def execLdN8Twin (t x b l w : Nat) (s : State) : Out := issue (issLdN8Twin t x b l w) s
/-- LD.i8 (R229). -/
def issLdI8 (t x b l : Nat) : Iss := laneLoad 1 1 (.sext 1) 0 0 t x b l
/-- LdI8, issued. -/
def execLdI8 (t x b l : Nat) (s : State) : Out := issue (issLdI8 t x b l) s
/-- LD.i8 (R229), with a literal displacement (R214). -/
def issLdI8Twin (t x b l w : Nat) : Iss := laneLoad 1 1 (.sext 1) 1 (disp32 w) t x b l
/-- LdI8Twin, issued. -/
def execLdI8Twin (t x b l w : Nat) (s : State) : Out := issue (issLdI8Twin t x b l w) s
/-- LD.n16 (R229). -/
def issLdN16 (t x b l : Nat) : Iss := laneLoad 2 1 (.zext 2) 0 0 t x b l
/-- LdN16, issued. -/
def execLdN16 (t x b l : Nat) (s : State) : Out := issue (issLdN16 t x b l) s
/-- LD.n16 (R229), with a literal displacement (R214). -/
def issLdN16Twin (t x b l w : Nat) : Iss := laneLoad 2 1 (.zext 2) 1 (disp32 w) t x b l
/-- LdN16Twin, issued. -/
def execLdN16Twin (t x b l w : Nat) (s : State) : Out := issue (issLdN16Twin t x b l w) s
/-- LD.i16 (R229). -/
def issLdI16 (t x b l : Nat) : Iss := laneLoad 2 1 (.sext 2) 0 0 t x b l
/-- LdI16, issued. -/
def execLdI16 (t x b l : Nat) (s : State) : Out := issue (issLdI16 t x b l) s
/-- LD.i16 (R229), with a literal displacement (R214). -/
def issLdI16Twin (t x b l w : Nat) : Iss := laneLoad 2 1 (.sext 2) 1 (disp32 w) t x b l
/-- LdI16Twin, issued. -/
def execLdI16Twin (t x b l w : Nat) (s : State) : Out := issue (issLdI16Twin t x b l w) s
/-- LD.b32 (R229). -/
def issLdB32 (t x b l : Nat) : Iss := laneLoad 4 1 (.words 1) 0 0 t x b l
/-- LdB32, issued. -/
def execLdB32 (t x b l : Nat) (s : State) : Out := issue (issLdB32 t x b l) s
/-- LD.b32 (R229), with a literal displacement (R214). -/
def issLdB32Twin (t x b l w : Nat) : Iss := laneLoad 4 1 (.words 1) 1 (disp32 w) t x b l
/-- LdB32Twin, issued. -/
def execLdB32Twin (t x b l w : Nat) (s : State) : Out := issue (issLdB32Twin t x b l w) s
/-- LD.b64 (R229). -/
def issLdB64 (t x b l : Nat) : Iss := laneLoad 8 2 (.words 2) 0 0 t x b l
/-- LdB64, issued. -/
def execLdB64 (t x b l : Nat) (s : State) : Out := issue (issLdB64 t x b l) s
/-- LD.b64 (R229), with a literal displacement (R214). -/
def issLdB64Twin (t x b l w : Nat) : Iss := laneLoad 8 2 (.words 2) 1 (disp32 w) t x b l
/-- LdB64Twin, issued. -/
def execLdB64Twin (t x b l w : Nat) (s : State) : Out := issue (issLdB64Twin t x b l w) s
/-- LD.b128 (R229). -/
def issLdB128 (t x b l : Nat) : Iss := laneLoad 16 4 (.words 4) 0 0 t x b l
/-- LdB128, issued. -/
def execLdB128 (t x b l : Nat) (s : State) : Out := issue (issLdB128 t x b l) s
/-- LD.b128 (R229), with a literal displacement (R214). -/
def issLdB128Twin (t x b l w : Nat) : Iss := laneLoad 16 4 (.words 4) 1 (disp32 w) t x b l
/-- LdB128Twin, issued. -/
def execLdB128Twin (t x b l w : Nat) (s : State) : Out := issue (issLdB128Twin t x b l w) s
/-- ST.b8 (R230). -/
def issStB8 (t x b l : Nat) : Iss := laneStore 1 1 (plainData 1 1 t) 0 0 t x b l
/-- StB8, issued. -/
def execStB8 (t x b l : Nat) (s : State) : Out := issue (issStB8 t x b l) s
/-- ST.b8 (R230), with a literal displacement (R214). -/
def issStB8Twin (t x b l w : Nat) : Iss := laneStore 1 1 (plainData 1 1 t) 1 (disp32 w) t x b l
/-- StB8Twin, issued. -/
def execStB8Twin (t x b l w : Nat) (s : State) : Out := issue (issStB8Twin t x b l w) s
/-- ST.b16 (R230). -/
def issStB16 (t x b l : Nat) : Iss := laneStore 2 1 (plainData 2 1 t) 0 0 t x b l
/-- StB16, issued. -/
def execStB16 (t x b l : Nat) (s : State) : Out := issue (issStB16 t x b l) s
/-- ST.b16 (R230), with a literal displacement (R214). -/
def issStB16Twin (t x b l w : Nat) : Iss := laneStore 2 1 (plainData 2 1 t) 1 (disp32 w) t x b l
/-- StB16Twin, issued. -/
def execStB16Twin (t x b l w : Nat) (s : State) : Out := issue (issStB16Twin t x b l w) s
/-- ST.b32 (R230). -/
def issStB32 (t x b l : Nat) : Iss := laneStore 4 1 (plainData 4 1 t) 0 0 t x b l
/-- StB32, issued. -/
def execStB32 (t x b l : Nat) (s : State) : Out := issue (issStB32 t x b l) s
/-- ST.b32 (R230), with a literal displacement (R214). -/
def issStB32Twin (t x b l w : Nat) : Iss := laneStore 4 1 (plainData 4 1 t) 1 (disp32 w) t x b l
/-- StB32Twin, issued. -/
def execStB32Twin (t x b l w : Nat) (s : State) : Out := issue (issStB32Twin t x b l w) s
/-- ST.b64 (R230). -/
def issStB64 (t x b l : Nat) : Iss := laneStore 8 2 (plainData 8 2 t) 0 0 t x b l
/-- StB64, issued. -/
def execStB64 (t x b l : Nat) (s : State) : Out := issue (issStB64 t x b l) s
/-- ST.b64 (R230), with a literal displacement (R214). -/
def issStB64Twin (t x b l w : Nat) : Iss := laneStore 8 2 (plainData 8 2 t) 1 (disp32 w) t x b l
/-- StB64Twin, issued. -/
def execStB64Twin (t x b l w : Nat) (s : State) : Out := issue (issStB64Twin t x b l w) s
/-- ST.b128 (R230). -/
def issStB128 (t x b l : Nat) : Iss := laneStore 16 4 (plainData 16 4 t) 0 0 t x b l
/-- StB128, issued. -/
def execStB128 (t x b l : Nat) (s : State) : Out := issue (issStB128 t x b l) s
/-- ST.b128 (R230), with a literal displacement (R214). -/
def issStB128Twin (t x b l w : Nat) : Iss := laneStore 16 4 (plainData 16 4 t) 1 (disp32 w) t x b l
/-- StB128Twin, issued. -/
def execStB128Twin (t x b l w : Nat) (s : State) : Out := issue (issStB128Twin t x b l w) s
/-- LD.bf16 (R231). -/
def issLdBf16 (t x b l : Nat) : Iss := laneLoad 2 1 (.fmt .bf16) 0 0 t x b l
/-- LdBf16, issued. -/
def execLdBf16 (t x b l : Nat) (s : State) : Out := issue (issLdBf16 t x b l) s
/-- LD.bf16 (R231), with a literal displacement (R214). -/
def issLdBf16Twin (t x b l w : Nat) : Iss := laneLoad 2 1 (.fmt .bf16) 1 (disp32 w) t x b l
/-- LdBf16Twin, issued. -/
def execLdBf16Twin (t x b l w : Nat) (s : State) : Out := issue (issLdBf16Twin t x b l w) s
/-- LD.f16 (R231). -/
def issLdF16 (t x b l : Nat) : Iss := laneLoad 2 1 (.fmt .f16) 0 0 t x b l
/-- LdF16, issued. -/
def execLdF16 (t x b l : Nat) (s : State) : Out := issue (issLdF16 t x b l) s
/-- LD.f16 (R231), with a literal displacement (R214). -/
def issLdF16Twin (t x b l w : Nat) : Iss := laneLoad 2 1 (.fmt .f16) 1 (disp32 w) t x b l
/-- LdF16Twin, issued. -/
def execLdF16Twin (t x b l w : Nat) (s : State) : Out := issue (issLdF16Twin t x b l w) s
/-- LD.e4m3 (R231). -/
def issLdE4m3 (t x b l : Nat) : Iss := laneLoad 1 1 (.fmt .e4m3) 0 0 t x b l
/-- LdE4m3, issued. -/
def execLdE4m3 (t x b l : Nat) (s : State) : Out := issue (issLdE4m3 t x b l) s
/-- LD.e4m3 (R231), with a literal displacement (R214). -/
def issLdE4m3Twin (t x b l w : Nat) : Iss := laneLoad 1 1 (.fmt .e4m3) 1 (disp32 w) t x b l
/-- LdE4m3Twin, issued. -/
def execLdE4m3Twin (t x b l w : Nat) (s : State) : Out := issue (issLdE4m3Twin t x b l w) s
/-- LD.e5m2 (R231). -/
def issLdE5m2 (t x b l : Nat) : Iss := laneLoad 1 1 (.fmt .e5m2) 0 0 t x b l
/-- LdE5m2, issued. -/
def execLdE5m2 (t x b l : Nat) (s : State) : Out := issue (issLdE5m2 t x b l) s
/-- LD.e5m2 (R231), with a literal displacement (R214). -/
def issLdE5m2Twin (t x b l w : Nat) : Iss := laneLoad 1 1 (.fmt .e5m2) 1 (disp32 w) t x b l
/-- LdE5m2Twin, issued. -/
def execLdE5m2Twin (t x b l w : Nat) (s : State) : Out := issue (issLdE5m2Twin t x b l w) s
/-- LD.zb4 (R233). -/
def issLdZb4 (t x b l : Nat) : Iss := blockLoad 1 .zb4 0 0 t x b l
/-- LdZb4, issued. -/
def execLdZb4 (t x b l : Nat) (s : State) : Out := issue (issLdZb4 t x b l) s
/-- LD.zb4 (R233), with a literal displacement (R214). -/
def issLdZb4Twin (t x b l w : Nat) : Iss := blockLoad 1 .zb4 1 (disp32 w) t x b l
/-- LdZb4Twin, issued. -/
def execLdZb4Twin (t x b l w : Nat) (s : State) : Out := issue (issLdZb4Twin t x b l w) s
/-- LD.zb8 (R233). -/
def issLdZb8 (t x b l : Nat) : Iss := blockLoad 2 .zb8 0 0 t x b l
/-- LdZb8, issued. -/
def execLdZb8 (t x b l : Nat) (s : State) : Out := issue (issLdZb8 t x b l) s
/-- LD.zb8 (R233), with a literal displacement (R214). -/
def issLdZb8Twin (t x b l w : Nat) : Iss := blockLoad 2 .zb8 1 (disp32 w) t x b l
/-- LdZb8Twin, issued. -/
def execLdZb8Twin (t x b l w : Nat) (s : State) : Out := issue (issLdZb8Twin t x b l w) s
/-- ST.bf16 (R232). -/
def issStBf16 (t x b l : Nat) : Iss := laneStore 2 1 (fmtData .bf16 t) 0 0 t x b l
/-- StBf16, issued. -/
def execStBf16 (t x b l : Nat) (s : State) : Out := issue (issStBf16 t x b l) s
/-- ST.bf16 (R232), with a literal displacement (R214). -/
def issStBf16Twin (t x b l w : Nat) : Iss := laneStore 2 1 (fmtData .bf16 t) 1 (disp32 w) t x b l
/-- StBf16Twin, issued. -/
def execStBf16Twin (t x b l w : Nat) (s : State) : Out := issue (issStBf16Twin t x b l w) s
/-- ST.f16 (R232). -/
def issStF16 (t x b l : Nat) : Iss := laneStore 2 1 (fmtData .f16 t) 0 0 t x b l
/-- StF16, issued. -/
def execStF16 (t x b l : Nat) (s : State) : Out := issue (issStF16 t x b l) s
/-- ST.f16 (R232), with a literal displacement (R214). -/
def issStF16Twin (t x b l w : Nat) : Iss := laneStore 2 1 (fmtData .f16 t) 1 (disp32 w) t x b l
/-- StF16Twin, issued. -/
def execStF16Twin (t x b l w : Nat) (s : State) : Out := issue (issStF16Twin t x b l w) s
/-- ST.e4m3 (R232). -/
def issStE4m3 (t x b l : Nat) : Iss := laneStore 1 1 (fmtData .e4m3 t) 0 0 t x b l
/-- StE4m3, issued. -/
def execStE4m3 (t x b l : Nat) (s : State) : Out := issue (issStE4m3 t x b l) s
/-- ST.e4m3 (R232), with a literal displacement (R214). -/
def issStE4m3Twin (t x b l w : Nat) : Iss := laneStore 1 1 (fmtData .e4m3 t) 1 (disp32 w) t x b l
/-- StE4m3Twin, issued. -/
def execStE4m3Twin (t x b l w : Nat) (s : State) : Out := issue (issStE4m3Twin t x b l w) s
/-- ST.e5m2 (R232). -/
def issStE5m2 (t x b l : Nat) : Iss := laneStore 1 1 (fmtData .e5m2 t) 0 0 t x b l
/-- StE5m2, issued. -/
def execStE5m2 (t x b l : Nat) (s : State) : Out := issue (issStE5m2 t x b l) s
/-- ST.e5m2 (R232), with a literal displacement (R214). -/
def issStE5m2Twin (t x b l w : Nat) : Iss := laneStore 1 1 (fmtData .e5m2 t) 1 (disp32 w) t x b l
/-- StE5m2Twin, issued. -/
def execStE5m2Twin (t x b l w : Nat) (s : State) : Out := issue (issStE5m2Twin t x b l w) s
/-- ST.zb4 (R234). -/
def issStZb4 (t x b l : Nat) : Iss := blockStore true 1 0 0 t x b l
/-- StZb4, issued. -/
def execStZb4 (t x b l : Nat) (s : State) : Out := issue (issStZb4 t x b l) s
/-- ST.zb4 (R234), with a literal displacement (R214). -/
def issStZb4Twin (t x b l w : Nat) : Iss := blockStore true 1 1 (disp32 w) t x b l
/-- StZb4Twin, issued. -/
def execStZb4Twin (t x b l w : Nat) (s : State) : Out := issue (issStZb4Twin t x b l w) s
/-- ST.zb8 (R234). -/
def issStZb8 (t x b l : Nat) : Iss := blockStore false 2 0 0 t x b l
/-- StZb8, issued. -/
def execStZb8 (t x b l : Nat) (s : State) : Out := issue (issStZb8 t x b l) s
/-- ST.zb8 (R234), with a literal displacement (R214). -/
def issStZb8Twin (t x b l w : Nat) : Iss := blockStore false 2 1 (disp32 w) t x b l
/-- StZb8Twin, issued. -/
def execStZb8Twin (t x b l w : Nat) (s : State) : Out := issue (issStZb8Twin t x b l w) s
/-- VSPILL (R235). -/
def issVspill (t x b l : Nat) : Iss := laneStore 8 1 (spillData t) 0 0 t x b l
/-- Vspill, issued. -/
def execVspill (t x b l : Nat) (s : State) : Out := issue (issVspill t x b l) s
/-- VSPILL (R235), with a literal displacement (R214). -/
def issVspillTwin (t x b l w : Nat) : Iss := laneStore 8 1 (spillData t) 1 (disp32 w) t x b l
/-- VspillTwin, issued. -/
def execVspillTwin (t x b l w : Nat) (s : State) : Out := issue (issVspillTwin t x b l w) s
/-- VFILL (R235). -/
def issVfill (t x b l : Nat) : Iss := laneLoad 8 1 .fill 0 0 t x b l
/-- Vfill, issued. -/
def execVfill (t x b l : Nat) (s : State) : Out := issue (issVfill t x b l) s
/-- VFILL (R235), with a literal displacement (R214). -/
def issVfillTwin (t x b l w : Nat) : Iss := laneLoad 8 1 .fill 1 (disp32 w) t x b l
/-- VfillTwin, issued. -/
def execVfillTwin (t x b l w : Nat) (s : State) : Out := issue (issVfillTwin t x b l w) s

end Sys2Proof.Machine
end

