-- ==== Sys2Proof/Machine/Place.lean ====
section
/-! DEFINITION. A gang as it stands at its first instruction (02_conventions R29; 05_control R99; 10_glade R236, R237; 17_launch R409): the
files of its waves, its threads, its regions, its groups, and the room that placement needs. -/
namespace Sys2Proof.Machine

/-- The configuration word the loader builds from a `.region` directive (R237): the fields it does not set have their reset values. -/
def RegionDecl.word (d : RegionDecl) : W64 :=
  BitVec.ofNat 64 (d.units % 256 + (if d.planes = 2 then 256 else 0) + (if d.shared then 512 else 0) + d.rule % 8 * 1024
    + (if d.tagged then 8192 else 0) + 1048576)

/-- A team's allotment (R236). -/
def NativeImage.allot (i : NativeImage) : Nat := (i.regions.map fun d => d.units * 4096 * d.planes).sum

/-- The code capability of an image (R29). -/
def NativeImage.codeCap (i : NativeImage) : Cap := Cap.mk' i.codeObj 0 i.codeBytes 5 0 true
/-- The capability of a section (R29, R36). -/
def SectionDecl.cap (d : SectionDecl) : Cap := Cap.mk' d.obj 0 d.size (if d.const then 1 else 3) 0 true

/-- Put values into registers from a number on. -/
def putFrom {α : Type} (put : Wave → Nat → α → Wave) : Wave → Nat → List α → Wave
  | w, _, [] => w
  | w, r, x :: t => putFrom put (put w r x) (r + 1) t

/-- A wave-of-origin of a launch at its first instruction (R29). -/
def startWave (l : Launch) : Wave :=
  let w := putFrom Wave.setS Wave.init 1 (l.scalars.take 6)
  let w := putFrom Wave.setC w 1 (l.caps.take 6)
  l.shape.sections.foldl (fun w d => w.setC d.reg d.cap) ((w.setC 30 l.arg).setC 31 l.shape.codeCap)

/-- A team of a launch on a core, before its first instruction. -/
def startTeam (l : Launch) (core : Nat) : Team where
  core := core
  count := l.waves * 32
  regs := l.shape.regs
  regions := l.shape.regions.map (fun d => (d.idx, (⟨d.word, [], [], [], 0⟩ : Region))) |>.foldl (fun t p => t.put p.1 p.2) []
  allot := l.shape.allot
  ownsTags := l.shape.regions.any (·.tagged)
  tags := []
  ownsMacros := l.shape.matrix
  macros := []
  board := []
  boardLeft := []
  locks := []
  orphaned := 0
  buffer := []
  shadow := l.shape.ordered
  partials := []
  bins := []
  coreBar := 0
  teamSteps := 0
  cfgs := []
  draining := none
  cfgDraining := []
  ended := false
  gladePast := []
  meet := Meet.init
  stepMeet := Meet.init

/-- No relay run (R360). -/
def Relay.init : Relay := ⟨[], none, 0, 0, [], [], []⟩

/-- Channel contexts of an engine of a die in use: of each gang that stands there, but a reduce kernel's none (R284, R368). -/
def contextsUsed (s : State) (die engine : Nat) : Nat :=
  ((s.gangs.filter fun p => dieOfQuad p.2.quad == die && p.2.occupies && p.2.reduceOf.isNone).map fun p =>
    (p.2.channels.vals.filter fun ch => ch.engine == engine).length).sum

/-- The engines of a die that have a free context. -/
def freeEngines (s : State) (die : Nat) : List Nat :=
  (List.range Config.enginesPerDie).filter fun e => decide (contextsUsed s die e < Config.contextsPerEngine)

/-- Insert into a list in descending order of a measure, after its equals. -/
def insertBy (w : Nat → Nat) (x : Nat) : List Nat → List Nat
  | [] => [x]
  | y :: t => if w x ≤ w y then y :: insertBy w x t else x :: y :: t

/-- Descending order of a measure, equals in the order given. -/
def sortBy (w : Nat → Nat) (l : List Nat) : List Nat := l.foldl (fun t x => insertBy w x t) []

/-- Bind a gang's four channels to contexts of four distinct engines of a die: those with the most free, so that as many gangs as can be find four (R284;
which four is the model's choice, log 31). -/
def bindChannels (s : State) (die : Nat) (g : Gang) : Gang :=
  ((sortBy (fun e => Config.contextsPerEngine - contextsUsed s die e) (freeEngines s die)).take 4).zipIdx.foldl (fun g p => g.setChan p.2 fun ch => { ch with engine := p.1 }) g

/-- A gang at its first dispatch on a quad; its channels are still to bind. -/
def startGang (quad teams order : Nat) : Gang where
  quad := quad
  teams := teams
  status := .resident
  vt := 0
  timers := []
  inbox := []
  counters := []
  cycles := 0
  throttled := 0
  channels := []
  relay := Relay.init
  quadBar := 0
  gangSteps := 0
  draining := none
  stopAt := 0
  stopWhy := .preemption
  holdUntil := none
  kept := false
  halted := false
  order := order
  reduceOf := none
  bufObj := none
  slice := 0
  heir := none
  owed := 0
  meet := Meet.init
  stepMeet := Meet.init

/-- Give each wave of a team its group in the lowest free slot (R99); placement has seen to it that there is one. -/
def startGroups (s : State) (tk core pc : Nat) : List Nat → State
  | [] => s
  | w :: t => match freeSlot s core with
    | some slot => startGroups (s.putGroup tk slot pc ((List.range 32).map (32 * w + ·)) .ready) tk core pc t
    | none => s

/-- Put entries of consecutive keys into a table. -/
def putRange {α : Type} (t : Tab α) (k : Nat) (v : α) : Nat → Tab α
  | 0 => t
  | n + 1 => (putRange t k v n).put (k + n) v

/-- A thread at its gang's first instruction: it is bound to see what happens before its launch (R328, R402). -/
def startThread (given : View) : Thread := { Thread.init with agent := { Agent.init with acq := given, always := given } }

/-- Put a team onto its core with its waves, threads and groups. -/
def placeTeam (s : State) (tk : Nat) (t : Team) (wv : Wave) (waves pc : Nat) (given : View) : State :=
  let s1 := { s with
    teams := s.teams.put tk t
    waves := putRange s.waves (waveKey tk 0) wv waves
    threads := putRange s.threads (threadKey tk 0) (startThread given) (waves * 32) }
  startGroups s1 tk t.core pc (List.range waves)

/-- Put the teams of a gang onto cores, from team t on. -/
def placeTeams (s : State) (l : Launch) (gk : Nat) : Nat → List Nat → State
  | _, [] => s
  | t, c :: cs => placeTeams (placeTeam s (teamKey gk t) (startTeam l c) (startWave l) l.waves 0 l.given) l gk (t + 1) cs

/-- Place a gang of a launch: its identity is fixed, its channels are bound, its state is that of R29. A kernel's entry is offset 0 of its code object. -/
def placeGang (s : State) (l : Launch) (gk quad : Nat) (cores : List Nat) : State :=
  let g := bindChannels s (dieOfQuad quad) (startGang quad cores.length s.nextId)
  placeTeams { s with gangs := s.gangs.put gk g, nextId := s.nextId + 1 } l gk 0 cores

/-! ### Room (R13, R409) -/

/-- What a team needs of a core: thread slots, register bytes, glade, group slots, bins, scoreboard entries, ordered-buffer and operand-log entries, macros,
tag table, and the lock bits its threads hold. -/
structure Need where
  slots : Nat
  regBytes : Nat
  glade : Nat
  groups : Nat
  bins : Nat
  board : Nat
  buffer : Nat
  log : Nat
  macros : Bool
  tags : Bool
  locks : List Nat
deriving DecidableEq, Repr

/-- The need of a launch's team at its first dispatch: a group slot for each wave (R99, R13; R409 does not name group slots: log 15). -/
def Launch.need (l : Launch) : Need :=
  ⟨l.waves * 32, l.waves * 32 * l.shape.regs * 4, l.shape.allot, l.waves, 0, 0, 0, 0, l.shape.matrix, l.shape.regions.any (·.tagged), []⟩

/-- The need of each team of a gang at its first dispatch. -/
def Launch.needs (l : Launch) : List Need := List.replicate l.shape.teams l.need

/-- The need of a saved team: what it was placed with, and what it has kept (R135, R413; a lock bit is held by one thread of a core, R274). A core
takes the team back only where its ordered buffer and its operand log hold what the team brings (R12, R269; R271 does not say what happens where they
do not: DESIGN CHOICE, log 31). -/
def savedNeed (s : State) (l : Launch) (tk : Nat) : Need := match s.teams.find tk with
  | some t => { l.need with
      groups := (s.groups.filter fun p => teamOfGroup p.1 == tk).length, bins := t.bins.length, board := t.board.length + t.boardLeft.length
      buffer := t.unspilled, log := (logUsersOf s [tk]).length, locks := t.locks.keys }
  | none => l.need

/-- The needs of a saved gang's teams. -/
def savedNeeds (s : State) (l : Launch) (gk : Nat) : List Need := (List.range l.shape.teams).map fun t => savedNeed s l (teamKey gk t)

/-- The need fits an empty core (R409). -/
def Need.fitsEmpty (n : Need) : Bool := decide (n.slots ≤ 2048) && decide (n.regBytes ≤ 524288) && decide (n.glade ≤ 524288)

/-- How often an amount goes into what is left of a supply. -/
def timesIn (supply used need : Nat) : Nat := if need = 0 then 2048 else (supply - used) / need

/-- How many teams of a need a core has room for. -/
def coreHolds (s : State) (core : Nat) (n : Need) : Nat :=
  let ts := (teamsOn s core).map (·.2)
  [timesIn 2048 (ts.map (·.count)).sum n.slots, timesIn 524288 (ts.map fun t => t.count * t.regs * 4).sum n.regBytes,
   timesIn 524288 (ts.map (·.allot)).sum n.glade, timesIn 64 (groupsOn s core).length n.groups, timesIn 64 (binsOn s core).length n.bins,
   timesIn 16 (ts.map (·.board.length)).sum n.board, timesIn 2048 (bufferUse s core) n.buffer, timesIn 64 (logUsers s core).length n.log,
   if n.macros then (if ts.any (·.ownsMacros) then 0 else 1) else 2048, if n.tags then (if ts.any (·.ownsTags) then 0 else 1) else 2048].foldl min 2048

/-- A core has room for a team. A saved team's unspilled contributions and unfinished log entries are counted with those of the core, so it is taken
back only where the buffer and the log have room for them: DESIGN CHOICE, R271 does not say what a resume does where there is none (log 31). -/
def coreRoom (s : State) (core : Nat) (n : Need) : Bool :=
  decide (0 < coreHolds s core n) && !((teamsOn s core).any fun p => p.2.locks.keys.any n.locks.contains)

/-- The gangs that stand on a quad, or for which it is kept (R432). -/
def gangsOn (s : State) (quad : Nat) : List (Nat × Gang) := s.gangs.filter fun p => p.2.quad == quad && p.2.occupies

/-- A list has no repeats. -/
def noRepeats : List Nat → Bool
  | [] => true
  | x :: t => !t.contains x && noRepeats t

/-- The quad is kept free of other gangs by a HOLD (R432) or a single-step (R412). -/
def quadHeld (s : State) (quad : Nat) : Bool := s.gangs.any fun p => p.2.quad == quad && p.2.kept

/-- The core of a quad that holds logical core t of a deterministic launch (R417). -/
def detCore (quad t : Nat) : Nat := quad * Config.coresPerQuad + t

/-- A deterministic launch has each logical quad on a quad of its own, its logical cores in order (R417). -/
def detPlace (s : State) (lk : Nat) (l : Launch) (quad : Nat) (cores : List Nat) : Bool :=
  !l.det || (cores == (List.range cores.length).map (detCore quad) && !((gangsOn s quad).any fun p => launchOfGang p.1 == lk && p.2.reduceOf.isNone))

/-- Teams of these needs can stand on these distinct cores of a quad of the function. -/
def roomOn (s : State) (f : Fn) (lk : Nat) (l : Launch) (quad : Nat) (cores : List Nat) (ns : List Need) : Bool :=
  f.quads.contains quad && decide (cores.length = ns.length) && noRepeats cores
    && ((cores.zip ns).all fun c => c.1 / Config.coresPerQuad == quad && coreRoom s c.1 c.2)
    && decide (4 ≤ (freeEngines s (dieOfQuad quad)).length) && !quadHeld s quad && detPlace s lk l quad cores

/-- For each team in turn, of the cores of a quad that have room and that no earlier one takes, the one with room for most: so a quad takes as many
gangs of one shape as it can hold. -/
def pickCores (s : State) (quad : Nat) : List Need → List Nat → List Nat
  | [], _ => []
  | n :: t, taken =>
    let cs := ((List.range Config.coresPerQuad).map (quad * Config.coresPerQuad + ·)).filter fun c => !taken.contains c && coreRoom s c n
    match sortBy (fun c => coreHolds s c n) cs with
    | c :: _ => c :: pickCores s quad t (c :: taken)
    | [] => []

/-- The quads a span reaches from a die: its own, or the module's (R403). -/
def spanQuads (f : Fn) (span die : Nat) : List Nat := f.quads.filter fun q => span != 0 || dieOfQuad q == die

/-- The first quad, of some, with room for a gang, and its cores. -/
def findRoom (s : State) (f : Fn) (lk : Nat) (l : Launch) (ns : List Need) (qs : List Nat) : Option (Nat × List Nat) :=
  qs.findSome? fun q =>
    let cs := if l.det then (List.range ns.length).map (detCore q) else pickCores s q ns []
    if roomOn s f lk l q cs ns then some (q, cs) else none

end Sys2Proof.Machine
end

