-- ==== Sys2Proof/Machine/Relay.lean ====
section
/-! DEFINITION. The relay engine (15_relay R360 to R374): runs, their steps, chunks between ranks, reduce kernels, notices and ends. -/
namespace Sys2Proof.Machine

/-! ### Step records and expressions (R363, R364) -/

/-- Bits lo to lo + n - 1 of a step record. -/
def stepFld (w : W128) (lo n : Nat) : Nat := w.toNat / 2 ^ lo % 2 ^ n
def stepOp (w : W128) : Nat := stepFld w 0 8
def stepCtr (w : W128) : Nat := stepFld w 8 2
def stepSbuf (w : W128) : Nat := stepFld w 10 2
def stepDbuf (w : W128) : Nat := stepFld w 12 2
def stepPeer (w : W128) : Nat := stepFld w 16 16
def stepSch (w : W128) : Nat := stepFld w 32 16
def stepDch (w : W128) : Nat := stepFld w 48 16
def stepLen (w : W128) : Nat := stepFld w 64 32
def stepAux (w : W128) : Nat := stepFld w 96 32
def stepValue (w : W128) : Nat := stepFld w 64 64

/-- A step record at index i is well formed (R363): fields its op does not use are zero. -/
def relayStepOk (i : Nat) (w : W128) : Bool :=
  let ln := decide (1 ≤ stepLen w) && decide (stepLen w ≤ 4194304) && stepAux w == 0
  stepFld w 14 2 == 0 && match stepOp w with
    | 1 => ln && stepDbuf w == 0 && stepDch w == 0
    | 2 => ln && stepSbuf w == 0 && stepSch w == 0
    | 3 => ln && stepDbuf w == 0 && stepDch w == 0
    | 4 => ln
    | 5 => ln && stepPeer w == 0
    | 6 => stepFld w 8 8 == 0 && decide (stepPeer w < 16) && stepPeer w != 7 && stepSch w == 0 && stepDch w == 0
    | 7 => stepFld w 10 6 == 0 && stepPeer w == 0 && stepSch w == 0 && stepDch w == 0 && decide (1 ≤ stepLen w)
        && decide (stepLen w ≤ 65536) && decide (stepAux w < i)
    | 8 => w == 8#128
    | _ => false

/-- The value of an expression (R364); swap: modes 1 and 2 change places (the mirror peer, R365). -/
def exprVal (r : Run) (w : W128) (e : Nat) (swap : Bool) : Nat :=
  let k := e % 8192 + (if bit e 13 then sget 0 r.loops (stepCtr w) else 0)
  let plus := (r.rank + k) % r.n
  let minus := (((r.rank : Int) - k) % r.n).toNat
  match e / 16384 with
  | 0 => k % r.n
  | 1 => if swap then minus else plus
  | 2 => if swap then plus else minus
  | _ => (r.rank ^^^ k) % r.n

/-- Type and element size of a signature (R361). -/
def sigType (g : W64) : Nat := fld g.toNat 40 4
def sigOp (g : W64) : Nat := fld g.toNat 44 4
def elemSize (g : W64) : Nat := if sigType g = 2 then 2 else 4

/-! ### Ranks -/

/-- A rank-list entry: module, die, gang index (R362). -/
def rankModule (e : W64) : Nat := fld e.toNat 0 8
def rankDie (e : W64) : Nat := fld e.toNat 8 2
def rankGang (e : W64) : Nat := fld e.toNat 32 32
def rankOk (e : W64) : Bool := fld e.toNat 10 22 == 0

/-- The entry of rank p of a run. -/
def Run.entry (r : Run) (p : Nat) : W64 := r.ranks.getD p 0
/-- The rank runs on another module. -/
def Run.away (r : Run) (p : Nat) : Bool := rankModule (r.entry p) != Config.moduleId

/-- The gang has a run of this collective: active, or waiting with its header read. -/
def Gang.hasRun (g : Gang) (coll : Nat) : Bool := g.relay.active.any (·.coll == coll) || g.relay.queue.any (·.coll == coll)

/-- The gangs of a function that a rank-list entry of this module names, in a collective of a run of launch lk: of its index, those on its die; where
none stands there (the rank has migrated, R371), all of its index. Of these, those that have a run of the collective (R362); before any has, those of the
run's own launch, or of any (DEDUCED, log 20). -/
def rankGangs (s : State) (fn lk coll : Nat) (e : W64) : List (Nat × Gang) :=
  let all := s.gangs.filter fun p => p.2.reduceOf.isNone && p.1 % 65536 == rankGang e && s.fnOf (launchOfGang p.1) == fn
  let here := all.filter fun p => dieOfQuad p.2.quad == rankDie e
  let gs := if here.isEmpty then all else here
  let runs := gs.filter fun p => p.2.hasRun coll
  let mine := gs.filter fun p => launchOfGang p.1 == lk
  if !runs.isEmpty then runs else if !mine.isEmpty then mine else gs

/-- A rank-list entry names gang k, for a run of a collective in launch lk, or did before it retired. -/
def rankIs (s : State) (fn lk coll : Nat) (e : W64) (k : Nat) : Bool := rankModule e == Config.moduleId && rankGang e == k % 65536
  && ((s.gangs.find k).isNone || (rankGangs s fn lk coll e).any fun p => p.1 == k)

/-- The gang whose active run belongs to (fn, coll), under a rank-list entry (R362). -/
def peerOf (s : State) (fn coll : Nat) (e : W64) : Option (Nat × Gang × Run) :=
  (rankGangs s fn 0 coll e).findSome? fun p => match p.2.relay.active with
    | some r => if r.coll = coll then some (p.1, p.2, r) else none
    | none => none

/-! ### The context of an event -/

/-- Everything an event on a run needs. -/
structure RCtx where
  gk : Nat
  g : Gang
  r : Run
  f : Fn
  fnId : Nat
  tk : Nat
  die : Nat

/-- The active run of a gang. -/
def rctx (s : State) (gk : Nat) : Option RCtx := match s.gangs.find gk, s.fnFor (launchOfGang gk) with
  | some g, some f => g.relay.active.map fun r => ⟨gk, g, r, f, s.fnOf (launchOfGang gk), r.wave / 64, dieOfQuad g.quad⟩
  | _, _ => none

/-- Change a gang's relay. -/
def State.setRelay (s : State) (gk : Nat) (f : Relay → Relay) : State := s.setGang gk fun g => { g with relay := f g.relay }
/-- Replace a gang's active run. -/
def State.putRun (s : State) (gk : Nat) (r : Run) : State := s.setRelay gk fun x => { x with active := some r }

/-- The rank of an entry stands halted (R371, R386). -/
def halted (s : State) (fn lk coll : Nat) (e : W64) : Bool := let gs := rankGangs s fn lk coll e; !gs.isEmpty && gs.all fun p => !p.2.inService

/-- The peer a run waits on: a sending step's target once its chunk is sent, or the sender a receiving step has no chunk of (R370). -/
def Run.waitsOn (r : Run) : Option Nat :=
  let w := r.steps.getD r.idx 8
  match r.phase with
  | .sending _ => some (exprVal r w (stepPeer w) (stepOp w == 3))
  | .step =>
    if decide (2 ≤ stepOp w) && decide (stepOp w ≤ 4) then
      let p := exprVal r w (stepPeer w) false
      if r.accepted.any fun c => c.sender == p then none else some p
    else none
  | _ => none

/-- The rank-list entry of the peer it waits on. -/
def Run.waitsFor (r : Run) : Option W64 := r.waitsOn.map r.entry

/-- HOLD from the peer it waits on. -/
def Run.hold (r : Run) (from_ : W64 → Bool) : Run := match r.waitsFor with
  | some e => if from_ e && !r.holds.contains e.toNat then { r with holds := r.holds ++ [e.toNat] } else r
  | none => r
/-- RESUME from a peer. -/
def Run.unhold (r : Run) (from_ : W64 → Bool) : Run := { r with holds := r.holds.filter fun h => !from_ (BitVec.ofNat 64 h) }

/-- A run that comes to wait on a peer that is already stopped waits under HOLD from then on, as a timer does (R379, R386). -/
def enterWait (s : State) (fn lk : Nat) (r : Run) : Run := r.hold fun e => rankModule e == Config.moduleId && halted s fn lk r.coll e

/-- The run goes on at another step; where its gang is stopping, after the restart (R371). -/
def goStep (s : State) (x : RCtx) (r : Run) (i : Nat) : State :=
  (s.putRun x.gk (enterWait s x.fnId (launchOfGang x.gk) { r with idx := i, phase := .step, parked := none, resting := !x.g.inService })).wake

/-- The run stays in its step, in another phase. -/
def goPhase (s : State) (x : RCtx) (r : Run) (p : RPhase) : State :=
  (s.putRun x.gk (enterWait s x.fnId (launchOfGang x.gk) { r with phase := p, parked := none })).wake

/-! ### Ends (R370) -/

/-- What a team's threads release (R316). -/
def teamWrote (s : State) (tk : Nat) : View := (s.threads.filter fun p => p.1 / 2048 == tk).foldl (fun v p => View.join v p.2.agent.all) []

/-- The run with what a reduce kernel of it has raised and written (R360, R367). -/
def Run.taking (r : Run) (s : State) (rk : Nat) : Run :=
  { r with flags := r.flags ||| (s.wave (waveKey (teamKey rk 0) 0)).flags.setWidth 5, wrote := View.join r.wrote (teamWrote s (teamKey rk 0)) }

/-- The run with what its reduce kernel has raised and written so far, if one runs. -/
def Run.withKernel (r : Run) (s : State) : Run := match r.phase with
  | .kernel rk => r.taking s rk
  | _ => r

/-- The run ends and is signalled on t6, which releases its writes; its kernels' flags reach the latched wave (R360, R367). A chunk
that it has accepted and not consumed is for the next run of the collective here (R366). -/
def endRun (s : State) (gk : Nat) (r : Run) (status : Nat) : State :=
  let r := r.withKernel s
  ((s.setRelay gk fun x => { x with
    active := none, done := x.done + 1, status := status, left := if status = 1 then x.left ++ r.accepted else x.left
    signals := x.signals ++ [(⟨x.done + 1, r.wave, 0, r.wrote⟩ : Signal)] }).raise r.wave r.flags).wake

/-- Send an abort notice to the other gangs of the rank list on this module. -/
def sendAborts (s : State) (fn gk : Nat) (r : Run) : State :=
  { s with gangs := s.gangs.mapVals fun k g =>
      if k ≠ gk ∧ g.reduceOf.isNone ∧ s.fnOf (launchOfGang k) = fn ∧ r.ranks.any (rankIs s fn (launchOfGang gk) r.coll · k) then
        { g with relay := { g.relay with aborts := g.relay.aborts ++ [r.coll] } }
      else g }

/-- A chunk of the run that still waits at its sender is gone with it. -/
def dropChunks (s : State) (gk : Nat) : State := { s with chunks := s.chunks.filter fun c => c.source != gk }

/-- The run ends by a fault in a step: the trap, the notices, status 3. It waits while the named thread cannot be stopped. In a replayable launch
uncorrectable data is no fault: the run stands, and the launch is replayed (R423). -/
def faultRun (s : State) (x : RCtx) (e : Cause × Nat × Nat) : Out :=
  if engineReplays s x.gk e.1 then .next ((s.putRun x.gk { x.r with fails := some e }).consume (launchOfGang x.gk))
  else match stopThread s x.tk (abortArgs s x.tk x.r.low x.r.info e.1 e.2.1 e.2.2) with
  | none => notNow
  | some s1 => .next (endRun (sendAborts (dropChunks s1 x.gk) x.fnId x.gk x.r) x.gk x.r 3)

/-- A fault of an access: parked, or the end. -/
def hitFault (s : State) (x : RCtx) (c : Cause) (o a : Nat) : Out :=
  if parks c then (if x.r.parked = some (c, o, a) then notNow
    else .next (s.putRun x.gk { x.r with parked := some (c, o, a), guest := guestOf s x.f o a }))
  else faultRun s x (c, o, a)

/-- The collective ends with COLL_MISMATCH: every run of it, active or started later (R369). -/
def mismatch (s : State) (fn coll : Nat) : State :=
  (s.setFn fn fun f => { f with mismatched := if f.mismatched.contains coll then f.mismatched else f.mismatched ++ [coll] }).wake

/-! ### Buffers (R364, R365) -/

/-- The place of chunk c of a buffer: object and offset, checked for a right over its bytes. -/
def chunkAt (cap : Cap) (c len es : Nat) (right : Right) : Except (Cause × Nat × Nat) (Nat × Nat) :=
  let off := c * len * es
  match checkCap cap off es right with
  | .error e => .error e
  | .ok p => if off + len * es > cap.length then .error (.capBounds, p.1, p.2) else .ok p

/-- The capability of a chunk with given rights. -/
def chunkCap (cap : Cap) (off bytes rights : Nat) : Cap := Cap.mk' cap.object (cap.base + off) bytes rights cap.colour true

/-- How a run's engine reads: it is bound to see what the run is (R286), what it has written and what it has read (R312), and reads sectors as the
event says (R322). -/
def RCtx.reader (x : RCtx) (old : Tab Nat) : Reader := ⟨View.join x.r.view (View.join x.r.wrote x.r.seen), old⟩

/-- Read a chunk of a buffer. -/
def readChunk (s : State) (x : RCtx) (old : Tab Nat) (cap : Cap) (c len es : Nat) : EAcc (List Nat) :=
  match chunkAt cap c len es .r with
  | .error e => .fault e.1 e.2.1 e.2.2
  | .ok p => engRead s x.f x.die (x.reader old) p.1 cap.colour (pieces p.2 (len * es))

/-- The run has read a chunk of a buffer. -/
def Run.sees (r : Run) (s : State) (x : RCtx) (old : Tab Nat) (cap : Cap) (c len es : Nat) : Run := match chunkAt cap c len es .r with
  | .ok p => { r with seen := View.join r.seen (engSeen s x.f x.die (x.reader old) p.1 (pieces p.2 (len * es))) }
  | .error _ => r

/-- Write a chunk of a buffer. -/
def writeChunk (s : State) (x : RCtx) (cap : Cap) (c len es : Nat) (bs : List Nat) : EAcc (State × View) :=
  match chunkAt cap c len es .w with
  | .error e => .fault e.1 e.2.1 e.2.2
  | .ok p => engWrite s x.f x.die x.tk p.1 cap.colour x.r.wrote false ((pieces p.2 (len * es)).map fun q => (q.1, (bs.drop (q.1 - p.2)).take q.2))

/-- Go on with what an engine access gives; a write to a page with snapcopy set waits for the copy (R225, R365). -/
def onAcc {α : Type} (s : State) (x : RCtx) (k : α → Out) : EAcc α → Out
  | .ok v => k v
  | .fault c o a => hitFault s x c o a
  | .snap => notNow
  | .bad => .fault .noMemory

/-- Buffer B_i of a run. -/
def Run.buf (r : Run) (i : Nat) : Cap := r.bufs.getD i Cap.null

/-! ### RELAY_RUN_START (R361, R362) -/

/-- Cut a list of bytes into pieces of n. -/
def cutBytes (n : Nat) : Nat → List Nat → List (List Nat)
  | 0, _ => []
  | k + 1, bs => bs.take n :: cutBytes n k (bs.drop n)

/-- The place of n bytes at an offset of the program capability. -/
def progAt (x : RCtx) (off n al : Nat) : Except (Cause × Nat × Nat) (Nat × Nat) := match checkCap x.r.prog off al .r with
  | .error e => .error e
  | .ok p => if off + n > x.r.prog.length then .error (.capBounds, p.1, p.2) else .ok p

/-- Read n bytes at an offset of the program capability. -/
def progRead (s : State) (x : RCtx) (old : Tab Nat) (off n al : Nat) : EAcc (List Nat) := match progAt x off n al with
  | .error e => .fault e.1 e.2.1 e.2.2
  | .ok p => engRead s x.f x.die (x.reader old) p.1 x.r.prog.colour (pieces p.2 n)

/-- What reading them acquires (R361). -/
def progAcquired (s : State) (x : RCtx) (old : Tab Nat) (off n : Nat) : View := engAcquired s x.f x.die (x.reader old) x.r.prog.object (pieces (x.r.prog.base + off) n)

/-- What reading them has shown (R312). -/
def progSeen (s : State) (x : RCtx) (old : Tab Nat) (off n : Nat) : View := engSeen s x.f x.die (x.reader old) x.r.prog.object (pieces (x.r.prog.base + off) n)

/-- The header's fields in a run; none: malformed. The last two: the list's offset and the step count. -/
def parseHeader (r : Run) (bs : List Nat) : Option (Run × Nat × Nat) :=
  let n (i k : Nat) : Nat := numOf ((bs.drop i).take k)
  let g := BitVec.ofNat 64 (n 0 8)
  let ok := n 6 2 == 0 && decide (sigType g ≤ 2) && decide (sigOp g ≤ 2) && decide (1 ≤ n 12 4) && decide (n 12 4 ≤ 4096)
    && decide (n 8 4 < n 12 4) && n 16 8 % 8 == 0 && n 24 4 != 0 && decide (1 ≤ n 28 4) && decide (n 28 4 ≤ 1024) && n 40 8 == 0 && n 52 12 == 0
  if ok then some ({ r with signature := g, rank := n 8 4, n := n 12 4, coll := n 24 4, reduce := n 32 8, patience := n 48 4 }, n 16 8, n 28 4) else none

/-- The cached rank list of a key, where it holds n entries. -/
def cachedList (f : Fn) (die obj off n : Nat) : Option (List W64) :=
  (f.rankCache.find? fun c => c.1 == die && c.2.1 == obj && c.2.2.1 == off && decide (n ≤ c.2.2.2.length)).map fun c => c.2.2.2.take n

/-- The active runs of the gangs that stand on a die (R360). -/
def runsOnDie (s : State) (die : Nat) : Nat := (s.gangs.filter fun p =>
  dieOfQuad p.2.quad == die && p.2.occupies && p.2.relay.active.isSome).length

/-- The rank list at an offset of the program: from the die's cache, or from memory (R361, R362). It must lie within the program either way. -/
def rankList (s : State) (x : RCtx) (old : Tab Nat) (off n : Nat) : EAcc (List W64) := match progAt x off (8 * n) 8 with
  | .error e => .fault e.1 e.2.1 e.2.2
  | .ok p => match cachedList x.f x.die p.1 p.2 n with
    | some es => .ok es
    | none => match progRead s x old off (8 * n) 8 with
      | .ok lb => .ok ((cutBytes 8 n lb).map fun b => BitVec.ofNat 64 (numOf b))
      | .fault c o a => .fault c o a
      | .snap => .snap
      | .bad => .bad

/-- Keep a rank list in the die's cache under its object and offset, unless it is there. -/
def cacheList (c : List (Nat × Nat × Nat × List W64)) (die obj off : Nat) (es : List W64) : List (Nat × Nat × Nat × List W64) :=
  if c.any fun e => e.1 == die && e.2.1 == obj && e.2.2.1 == off && decide (es.length ≤ e.2.2.2.length) then c
  else (die, obj, off, es) :: c.filter fun e => !(e.1 == die && e.2.1 == obj && e.2.2.1 == off)

/-- The first malformed step. -/
def badStep : Nat → List W128 → Option Nat
  | _, [] => none
  | i, w :: t => if relayStepOk i w then badStep (i + 1) t else some i

/-- What the start of a run comes to. -/
inductive Started where
  /-- The run, and the offset of its rank list. -/
  | run (r : Run) (list : Nat)
  | fault (r : Run) (c : Cause) (obj off : Nat)
  | bad
  | hold

/-- Read a run's header, rank list and steps (R361, R362). A fault after a good header names the ranks that its notice goes to, where the list can
be read (R370). -/
def startRun (s : State) (x : RCtx) (old : Tab Nat) : Started :=
  let q := x.r
  let ill (r : Run) (off : Nat) : Started := .fault r .illegalInstruction q.prog.object (q.prog.base + off)
  let on {α : Type} (r : Run) (a : EAcc α) (k : α → Started) : Started := match a with
    | .ok v => k v
    | .fault c o a => .fault r c o a
    | .snap => .hold
    | .bad => .bad
  on q (progRead s x old q.header 64 16) fun hb => match parseHeader q hb with
  | none => ill q q.header
  | some (r, list, k) =>
    let rl := rankList s x old list r.n
    let r := { r with ranks := match rl with | .ok es => es | _ => [] }
    on r (progRead s x old (q.header + 64) (16 * k) 16) fun sb =>
      let ws := (cutBytes 16 k sb).map fun b => BitVec.ofNat 128 (numOf b)
      match badStep 0 ws with
      | some i => ill r (q.header + 64 + 16 * i)
      | none => on r rl fun es =>
        if es.all rankOk then
          .run { r with steps := ws, idx := 0, phase := .step, parked := none
                        view := View.join r.view (View.join (progAcquired s x old q.header (64 + 16 * k)) (progAcquired s x old list (8 * r.n)))
                        seen := View.join r.seen (View.join (progSeen s x old q.header (64 + 16 * k)) (progSeen s x old list (8 * r.n))) } list
        else ill { r with ranks := [] } q.header

/-- A run that starts takes the chunks of its collective that an earlier run here has left (R366); one of another signature or size ends the collective
(R369). -/
def startTakes (s : State) (fn gang : Nat) (r : Run) : State := match s.gangs.find gang with
  | none => s
  | some g =>
    let mine := g.relay.left.filter fun c => c.coll == r.coll
    let s1 := s.setRelay gang fun x => { x with
      left := x.left.filter fun c => c.coll != r.coll
      active := x.active.map fun a => { a with accepted := a.accepted ++ mine.filter fun c => c.signature == r.signature && c.n == r.n } }
    if mine.all fun c => c.signature == r.signature && c.n == r.n then s1 else mismatch s1 fn r.coll

/-- RELAY_RUN_START (R360, R361, R362): the next run reads its header, its steps and its rank list. A run that parks here keeps what it has read, so that
its notice, if it ends, reaches its ranks (R370). -/
def execRelayRunStart (read : RelayRead) (s : State) : Out :=
  let gang := read.gang
  match s.gangs.find gang, s.fnFor (launchOfGang gang) with
  | some g, some f => match g.relay.active, g.relay.queue with
    | none, q :: rest =>
      let x : RCtx := ⟨gang, g, q, f, s.fnOf (launchOfGang gang), q.wave / 64, dieOfQuad g.quad⟩
      if !g.inService || decide (64 ≤ runsOnDie s x.die) then notNow
      else
        let s1 := s.setRelay gang fun r => { r with queue := rest }
        match q.fails with
        | some e => if engineReplays s gang e.1 then notNow else faultRun s1 x e
        | none => match startRun s x read.old with
          | .run r list =>
            .next ((startTakes ((s1.setFn x.fnId fun f => { f with rankCache := cacheList f.rankCache x.die q.prog.object (q.prog.base + list) r.ranks }).putRun gang
              (enterWait s x.fnId (launchOfGang gang) r)) x.fnId gang r).wake)
          | .fault r0 c o a =>
            if parks c then (if q.parked = some (c, o, a) then notNow
              else .next (s.setRelay gang fun r => { r with queue := { r0 with parked := some (c, o, a), guest := guestOf s f o a } :: rest }))
            else if engineReplays s gang c then
              .next ((s.setRelay gang fun r => { r with queue := { r0 with fails := some (c, o, a) } :: rest }).consume (launchOfGang gang))
            else faultRun s1 { x with r := r0 } (c, o, a)
          | .hold => notNow
          | .bad => .fault .noMemory
    | _, _ => notNow
  | _, _ => notNow

/-! ### Steps (R365) -/

/-- The run may act in its step: its gang is in service, or it stops and the step does not wait on a peer (R371). -/
def Run.mayStep (r : Run) (g : Gang) : Bool := g.inService || (g.status == .quiescing && !r.resting && r.waitsOn.isNone)

/-- Run the current step of a gang's run, when it is a step of this op. A run of a mismatched collective takes no step more (R369). -/
def onStep (op gang : Nat) (s : State) (k : RCtx → W128 → Out) : Out := match rctx s gang with
  | none => notNow
  | some x =>
    let w := x.r.steps.getD x.r.idx 8
    if stepOp w ≠ op || !x.r.mayStep x.g || x.f.mismatched.contains x.r.coll then notNow
    else match x.r.fails with
      | some e => faultRun s x e
      | none => k x w

/-- The way between a die and another module has failed (R8, R426): messages between modules pass the link die. -/
def wayCut (s : State) (die : Nat) (module_ : Nat) : Bool := linkDown s.failed die (2 ^ 64 + module_ * 2 ^ 56)

/-- The link to a rank has failed (R8, R426). -/
def rankCut (s : State) (x : RCtx) (p : Nat) : Bool :=
  let e := x.r.entry p
  if x.r.away p then wayCut s x.die (rankModule e)
  else
    let d := match rankGangs s x.fnId (launchOfGang x.gk) x.r.coll e with | q :: _ => dieOfQuad q.2.quad | [] => rankDie e
    d != x.die && dieLinkDown s.failed x.die d

/-- Send bytes to a rank: the chunk waits at its sender until the peer's engine accepts it (R366). -/
def sendChunk (s : State) (x : RCtx) (p len : Nat) (bs : List Nat) : State :=
  let e := x.r.entry p
  let c : Chunk := ⟨s.nextId, x.fnId, x.r.coll, x.r.signature, x.r.n, x.r.rank, x.gk, rankModule e, e.toNat, len, bs⟩
  let s1 := { s with nextId := s.nextId + 1, chunks := s.chunks ++ [c] }
  let s2 := if x.r.away p then loseReplay s1 (launchOfGang x.gk) else s1
  goPhase s2 x x.r (.sending s.nextId)

/-- RELAY_SEND (R365). -/
def execRelaySend (read : RelayRead) (s : State) : Out := onStep 1 read.gang s fun x w =>
  let p := exprVal x.r w (stepPeer w) false
  if rankCut s x p then faultRun s x (.linkPoison, 0, 0)
  else match x.r.phase with
    | .step =>
      let b := x.r.buf (stepSbuf w)
      let c := exprVal x.r w (stepSch w) false
      let es := elemSize x.r.signature
      onAcc s x (fun bs => .next (sendChunk s { x with r := x.r.sees s x read.old b c (stepLen w) es } p (stepLen w) bs))
        (readChunk s x read.old b c (stepLen w) es)
    | _ => notNow

/-- The chunk a receiving step takes: the one accepted from its peer, of its length (R366, R369). -/
def takeChunk (s : State) (x : RCtx) (w : W128) (k : Chunk → Run → Out) : Out :=
  let p := exprVal x.r w (stepPeer w) false
  match x.r.accepted.find? fun c => c.sender == p with
  | none => if rankCut s x p then faultRun s x (.linkPoison, 0, 0) else notNow
  | some c =>
    let r := { x.r with accepted := x.r.accepted.filter fun d => d.sender != p }
    if c.len = stepLen w then k c r
    else .next (mismatch (s.putRun x.gk r) x.fnId x.r.coll)

/-- RELAY_RECV (R365). -/
def execRelayRecv (gang : Nat) (s : State) : Out := onStep 2 gang s fun x w => takeChunk s x w fun c r =>
  onAcc s x (fun d => .next (goStep d.1 x { r with wrote := d.2 } (r.idx + 1)))
    (writeChunk s x (r.buf (stepDbuf w)) (exprVal r w (stepDch w) false) (stepLen w) (elemSize r.signature) c.bytes)

/-- The 64-byte flits of n bytes (R367). -/
def flits (n : Nat) : Nat := (n + 63) / 64

/-- Receive into the staging buffer; the reduction's other chunks must be reachable (R365, R367). -/
def stageChunk (s : State) (x : RCtx) (w : W128) (dst : Except (Cause × Nat × Nat) (Nat × Nat)) : Out := takeChunk s x w fun c r =>
  let es := elemSize r.signature
  match chunkAt (r.buf 3) 0 (stepLen w) es .r, chunkAt (r.buf (stepSbuf w)) (exprVal r w (stepSch w) false) (stepLen w) es .r, dst with
  | .error e, _, _ => faultRun s x e
  | _, .error e, _ => faultRun s x e
  | _, _, .error e => faultRun s x e
  | _, _, _ => onAcc s x (fun d => .next (goPhase d.1 x { r with wrote := d.2 } (.reducing (flits (stepLen w * es))))) (writeChunk s x (r.buf 3) 0 (stepLen w) es c.bytes)

/-- RELAY_RRS (R365): receives and reduces; the result goes to the mirror peer. -/
def execRelayRrs (gang : Nat) (s : State) : Out := onStep 3 gang s fun x w =>
  match x.r.phase with
  | .step => stageChunk s x w (.ok (0, 0))
  | .reduced =>
    let p := exprVal x.r w (stepPeer w) true
    if rankCut s x p then faultRun s x (.linkPoison, 0, 0) else .next (sendChunk s x p (stepLen w) x.r.buffer)
  | .sending _ => if rankCut s x (exprVal x.r w (stepPeer w) true) then faultRun s x (.linkPoison, 0, 0) else notNow
  | _ => notNow

/-- RELAY_RRD (R365): receives and reduces into a destination chunk. -/
def execRelayRrd (gang : Nat) (s : State) : Out := onStep 4 gang s fun x w =>
  match x.r.phase with
  | .step => stageChunk s x w (chunkAt (x.r.buf (stepDbuf w)) (exprVal x.r w (stepDch w) false) (stepLen w) (elemSize x.r.signature) .w)
  | .reduced => .next (goStep s x x.r (x.r.idx + 1))
  | _ => notNow

/-- RELAY_COPY (R365). -/
def execRelayCopy (read : RelayRead) (s : State) : Out := onStep 5 read.gang s fun x w =>
  let b := x.r.buf (stepSbuf w)
  let c := exprVal x.r w (stepSch w) false
  let es := elemSize x.r.signature
  onAcc s x (fun bs => onAcc s x (fun d => .next (goStep d.1 x { x.r.sees s x read.old b c (stepLen w) es with wrote := d.2 } (x.r.idx + 1)))
      (writeChunk s x (x.r.buf (stepDbuf w)) (exprVal x.r w (stepDch w) false) (stepLen w) es bs))
    (readChunk s x read.old b c (stepLen w) es)

/-- The timeline that the run's WAIT step names holds its value. -/
def RCtx.waitReached (x : RCtx) (s : State) : Bool := (s.launches.find (launchOfGang x.gk)).any fun l =>
  let w := x.r.steps.getD x.r.idx 8
  decide (stepValue w ≤ timelineOf s x.g l (coreOf s x.tk) (stepPeer w))

/-- RELAY_WAIT (R365): acquires as TLWAIT does. -/
def execRelayWait (gang : Nat) (s : State) : Out := onStep 6 gang s fun x w => match s.launches.find (launchOfGang gang) with
  | none => notNow
  | some l =>
    if x.waitReached s then
      .next (goStep s x { x.r with view := View.join x.r.view (timelineGiven x.g l (stepPeer w) (stepValue w)) } (x.r.idx + 1))
    else notNow

/-- RELAY_LOOP (R365). -/
def execRelayLoop (gang : Nat) (s : State) : Out := onStep 7 gang s fun x w =>
  let k := stepCtr w
  let l := sget 0 x.r.loops k + 1
  if l < stepLen w then .next (goStep s x { x.r with loops := sset 0 x.r.loops k l } (stepAux w))
  else .next (goStep s x { x.r with loops := sset 0 x.r.loops k 0 } (x.r.idx + 1))

/-- RELAY_END (R365): at END, or past the last step. -/
def execRelayEnd (gang : Nat) (s : State) : Out := onStep 8 gang s fun x _ => .next (endRun s gang x.r 1)

/-! ### Chunks (R366, R369) -/

/-- The sender of an accepted chunk goes on with its next step. -/
def senderGoes (s : State) (c : Chunk) : State := match rctx s c.source with
  | some x => if x.r.phase = .sending c.id then goStep s x x.r (x.r.idx + 1) else s
  | none => s

/-- A chunk reaches the engine of the run it is for: accepted, or a mismatch (R369). none: it waits at its sender. -/
def acceptChunk (s : State) (c : Chunk) : Option State := match peerOf s c.fn c.coll (BitVec.ofNat 64 c.target) with
  | none => none
  | some (gk, g, r) =>
    if !g.inService || (r.accepted.any fun d => d.sender == c.sender) then none
    else if r.signature ≠ c.signature ∨ r.n ≠ c.n then
      some (mismatch s c.fn c.coll)
    else some (senderGoes (s.putRun gk { r with accepted := r.accepted ++ [c] }).wake c)

/-- RELAY_CHUNK_ARRIVAL (R366, R369): a chunk of this module (chunk names it) reaches its peer's engine, here or on another module; or
one from another module (chunk 0, its fields given) arrives here. None comes over a link that has failed. -/
def execRelayChunkArrival (chunk fn coll signature n sender target len : Nat) (bytes : List Nat) (s : State) : Out :=
  if chunk = 0 then
    match peerOf s fn coll (BitVec.ofNat 64 target) with
    | some (_, g, r) =>
      if !wayCut s (dieOfQuad g.quad) (rankModule (r.entry sender)) && r.away sender && decide (len * elemSize (BitVec.ofNat 64 signature) = bytes.length) then
        match acceptChunk { s with nextId := s.nextId + 1 }
          ⟨s.nextId, fn, coll, BitVec.ofNat 64 signature, n, sender, 0, Config.moduleId, target, len, bytes.map (· % 256)⟩ with
        | some s2 => .next s2
        | none => notNow
      else notNow
    | none => notNow
  else match s.chunks.find? fun c => c.id == chunk with
    | none => notNow
    | some c =>
      let cut (g : Gang) : Bool := if c.module ≠ Config.moduleId then wayCut s (dieOfQuad g.quad) c.module
        else (peerOf s c.fn c.coll (BitVec.ofNat 64 c.target)).any fun p =>
          dieOfQuad p.2.1.quad != dieOfQuad g.quad && dieLinkDown s.failed (dieOfQuad g.quad) (dieOfQuad p.2.1.quad)
      if ((s.gangs.find c.source).any fun g => g.inService && !cut g) then
        let s1 := { s with chunks := s.chunks.filter fun d => d.id != chunk }
        if c.module ≠ Config.moduleId then .next (senderGoes s1 c)
        else match acceptChunk s1 c with
          | some s2 => .next s2
          | none => notNow
      else notNow

/-! ### Reduce kernels (R367, R368) -/

/-- FLIT_LANDED (R367). -/
def execFlitLanded (gang : Nat) (s : State) : Out := match rctx s gang with
  | some x => match x.r.phase with
    | .reducing (k + 1) => .next (s.putRun gang { x.r with phase := .reducing k })
    | _ => notNow
  | none => notNow

/-- Bytes the engine buffer holds before the kernel writes them: nothing gives them (free values). -/
def freeBytes (from_ : Nat) : Nat → List Nat
  | 0 => []
  | n + 1 => (Config.freeValue from_).toNat % 256 :: freeBytes (from_ + 1) n

/-- The wave of a reduce kernel (R367): R29 with the latched mode and code, its scalars, and its three chunks. -/
def reduceWave (l : Launch) (r : Run) (w : W128) (c1 c2 c3 : Cap) : Wave :=
  let v := { startWave l with mode := r.mode }
  let v := ((v.setS 1 (BitVec.ofNat 64 (stepLen w))).setS 2 (BitVec.ofNat 64 (sigOp r.signature))).setS 3 (BitVec.ofNat 64 (sigType r.signature))
  (((v.setC 31 r.code).setC 1 c1).setC 2 c2).setC 3 c3

/-- The team of a reduce kernel on a core (R368). -/
def reduceTeam (l : Launch) (core : Nat) : Team :=
  { startTeam l core with count := 32, regions := [], allot := 0, ownsTags := false, ownsMacros := false, shadow := 0 }

/-- REDUCE_KERNEL_DISPATCH (R367, R368): every flit has landed and a core of the die is idle. -/
def execReduceKernelDispatch (gang core : Nat) (s : State) : Out := match rctx s gang, s.launches.find (launchOfGang gang) with
  | some x, some l =>
    let quad := core / Config.coresPerQuad
    let w := x.r.steps.getD x.r.idx 8
    let es := elemSize x.r.signature
    let n := stepLen w * es
    let rk := gang + 65536
    match x.r.phase with
    | .reducing 0 =>
      if dieOfCore core != x.die || !x.f.quads.contains quad || quadHeld s quad || !(teamsOn s core).isEmpty || (s.gangs.find rk).isSome then notNow
      else
        let sc := exprVal x.r w (stepSch w) false * n
        let dc := exprVal x.r w (stepDch w) false * n
        let rrs := stepOp w == 3
        let obj := 1 + (Config.freeValue s.free).toNat % (2 ^ 32 - 1)
        let c3 := if rrs then Cap.mk' obj 0 n 2 0 true else chunkCap (x.r.buf (stepDbuf w)) dc n 2
        let s1 := if rrs then { s with free := s.free + 1 + n } else s
        let buf := if rrs then freeBytes (s.free + 1) n else []
        let g : Gang := { startGang quad 1 s1.nextId with reduceOf := some gang, bufObj := if rrs then some obj else none }
        let s2 := { s1 with nextId := s1.nextId + 1, gangs := s1.gangs.put rk g }
        let s3 := placeTeam s2 (teamKey rk 0) (reduceTeam l core)
          (reduceWave l x.r w (chunkCap (x.r.buf 3) 0 n 1) (chunkCap (x.r.buf (stepSbuf w)) sc n 1) c3) 1 x.r.reduce
          (View.join l.given (View.join x.r.view x.r.wrote))
        .next (s3.putRun gang { x.r with phase := .kernel rk, buffer := buf })
    | _ => notNow
  | _, _ => notNow

/-- A reduce kernel has retired: its flags and its writes go to the run, whose step goes on (R360, R367). -/
def reduceRetired (s : State) (rk : Nat) : State := match (s.gangs.find rk).bind (·.reduceOf) with
  | none => s
  | some gk => match rctx s gk with
    | some x => if x.r.phase = .kernel rk then
        (s.putRun gk { x.r.taking s rk with phase := .reduced }).wake else s
    | none => s

/-- A fatal trap of a reduce kernel ends its run with status 3, before its launch ends (R368, R370). -/
def reduceFatal (s : State) (rk : Nat) : State := match (s.gangs.find rk).bind (·.reduceOf) with
  | none => s
  | some gk => match rctx s gk with
    | some x => if x.r.phase = .kernel rk then endRun (sendAborts (dropChunks s gk) x.fnId gk x.r) gk x.r 3 else s
    | none => s

/-! ### Notices and patience (R369, R370) -/

/-- RELAY_ABORT_NOTICE (R369, R370): a notice reaches a gang's engine; status 3 or 4. One from another module needs a rank there, and a way
that has not failed (R8). A notice of an
abort that finds another run waits while runs are queued, and is dropped where there is none (log 31). -/
def execRelayAbortNotice (gang coll status : Nat) (s : State) : Out := match rctx s gang with
  | none => match s.gangs.find gang with
    | some g => if status = 3 ∧ g.relay.aborts.contains coll ∧ g.relay.queue.isEmpty then .next (s.setRelay gang fun r => { r with aborts := r.aborts.erase coll })
      else notNow
    | none => notNow
  | some x =>
    let here := if status = 3 then x.g.relay.aborts.contains coll else x.f.mismatched.contains coll
    let away := x.r.coll == coll && x.r.ranks.any fun e => rankModule e != Config.moduleId && !wayCut s x.die (rankModule e)
    if !(here || away) || !(status == 3 || status == 4) then notNow
    else
      let s1 := if status = 3 then s.setRelay gang fun r => { r with aborts := r.aborts.erase coll } else mismatch s x.fnId coll
      if x.r.coll ≠ coll then (if status = 3 ∧ x.g.relay.queue.isEmpty then .next s1 else notNow)
      else if status = 3 then .next (endRun (dropChunks s1 gang) gang x.r 3)
      else match stopThread s1 x.tk (abortArgs s1 x.tk x.r.low x.r.info .collMismatch 0 0) with
        | some s2 => .next (endRun (dropChunks s2 gang) gang x.r 4)
        | none => notNow

/-- The patience of a run has expired: counted in real ticks while it waits on a peer (R361, R370). -/
def Run.expired (r : Run) : Bool := r.patience != 0 && decide (r.patience * 5 ≤ r.waited) && r.waitsOn.isSome

/-- RELAY_PATIENCE_EXPIRED (R370). -/
def execRelayPatienceExpired (gang : Nat) (s : State) : Out := match rctx s gang with
  | some x =>
    if x.r.expired && x.g.inService && !x.f.mismatched.contains x.r.coll then .next (endRun (sendAborts (dropChunks s gang) x.fnId gang x.r) gang x.r 2) else notNow
  | none => notNow

/-- The run counts patience now: it waits on a peer whose HOLD is not in force (R370). -/
def Run.counts (r : Run) : Bool := match r.waitsFor with
  | some e => !r.holds.contains e.toNat
  | none => false

/-- A peer's flow closed by a function reset (R370, R422): runs of the function with a rank on that module end with PEER_RESET. A run whose
thread cannot be stopped yet stays; none: some run had to stay and nothing else was done. -/
def closeFlow (s : State) (module fn : Nat) : List Nat → Option State
  | [] => some s
  | gk :: t => match rctx s gk with
    | some x =>
      if x.fnId = fn ∧ (x.r.ranks.any fun e => rankModule e == module) then
        match stopThread s x.tk (abortArgs s x.tk x.r.low x.r.info .peerReset 0 0) with
        | some s1 => closeFlow (endRun (dropChunks s1 gk) gk x.r 5) module fn t
        | none => none
      else closeFlow s module fn t
    | none => closeFlow s module fn t

/-! ### RLRUN, RLINV, RLSTAT (R372 to R374) -/

/-- The checks of RLRUN at issue (R372). -/
def rlrunPrep (a b d : Nat) (c : Ctx) (_s : State) (_prev : List Run) (w : Sub) : Except TrapArgs Run :=
  let k := w.wv.getC a
  let off := (w.wv.getS b).toInt
  if d > 28 then .error (subTrap c w .illegalInstruction 0 0)
  else match checkCap k off 64 .r with
    | .error e => .error (subTrap c w e.1 e.2.1 e.2.2)
    | .ok _ =>
      if off % 16 ≠ 0 then .error (subTrap c w .alignment 0 0)
      else .ok { id := 0, prog := k, header := off.toNat, bufs := (List.range 4).map fun i => w.wv.getC (d + i), code := w.wv.getC 31, mode := w.wv.mode
                 wave := w.wk, low := lowLane w.lanes, info := c.issued [], signature := 0, rank := 0, n := 1, coll := 0, reduce := 0, patience := 0
                 ranks := [], steps := [], idx := 0, loops := [], accepted := [], phase := .step, buffer := [], waited := 0, holds := []
                 parked := none, fails := none, flags := 0, guest := 0, wrote := [], view := issuerView w, seen := [], resting := false }

/-- Accept a run: the queue holds at most four runs that have not finished (R360, R374). -/
def rlrunAccept (c : Ctx) (s : State) (_w : Sub) (r : Run) : Option State := match s.gangs.find c.gk with
  | some g =>
    if g.relay.queue.length + (if g.relay.active.isSome then 1 else 0) < 4 then
      some ({ s with nextId := s.nextId + 1 }.setRelay c.gk fun x => { x with queue := x.queue ++ [{ r with id := s.nextId }] })
    else none
  | none => none

/-- RLRUN (R372). -/
def issRlrun (a b d l : Nat) : Iss := engineIss l (fun c => cNames (a :: 31 :: (List.range 4).map (d + ·)) c ++ sNames [b] c) (fun _ => []) (rlrunPrep a b d) rlrunAccept
/-- Rlrun, issued. -/
def execRlrun (a b d l : Nat) (s : State) : Out := issue (issRlrun a b d l) s

/-- RLINV (R373): the die drops the function's cached rank lists. -/
def issRlinv (l : Nat) : Iss :=
  engineIss l (fun _ => []) (fun _ => []) (fun _ _ _ _ => .ok ()) (fun c s _ _ =>
    some (s.setFn c.launch.fn fun f => { f with rankCache := f.rankCache.filter fun e => e.1 != dieOfQuad c.gang.quad }))
/-- Rlinv, issued. -/
def execRlinv (l : Nat) (s : State) : Out := issue (issRlinv l) s

/-- The relay status of a gang (R374). -/
def relayStatus (r : Relay) : Nat :=
  ((r.active.map (·.idx)).getD 0) % 1024 * 2 ^ 38 + (r.queue.length + (if r.active.isSome then 1 else 0)) * 2 ^ 32 + r.status * 2 ^ 24
    + ((r.active.map (·.holds.length)).getD 0) % 256 * 2 ^ 16

/-- RLSTAT (R374). -/
def issRlstat (d : Nat) : Iss :=
  { uniform := true
    names := sNames [d]
    eff := fun c s => .done (eachSub c s fun w => w.wv.setS d (BitVec.ofNat 64 (relayStatus c.gang.relay))) }
/-- Rlstat, issued. -/
def execRlstat (d : Nat) (s : State) : Out := issue (issRlstat d) s

end Sys2Proof.Machine
end

