-- ==== Sys2Proof/Machine/Cancel.lean ====
section
/-! DEFINITION. What a service core does to parked accesses, of threads and of engines (09_global_memory R222, R223; 12_copy_engines R290;
15_relay R370): declares them fatal, or cancels them with their launches. -/
namespace Sys2Proof.Machine

/-! ### FAULT_DECLARED_FATAL -/

/-- A parked operation whose fault is declared fatal ends by an abort. -/
def CopyOp.give (o : CopyOp) (id : Nat) : CopyOp := if o.id = id ∧ o.parked.isSome then { o with fails := o.parked, parked := none } else o
/-- A parked run whose fault is declared fatal ends. -/
def Run.give (r : Run) (id : Nat) : Run := if r.id = id ∧ r.parked.isSome then { r with fails := r.parked, parked := none } else r

/-- Change the run a relay engine is at: the active one, or the one that starts next. -/
def Relay.onCurrent (r : Relay) (f : Run → Run) : Relay := match r.active, r.queue with
  | some a, _ => { r with active := some (f a) }
  | none, q :: t => { r with queue := f q :: t }
  | none, [] => r

/-- The run a relay engine is at. -/
def Relay.current (r : Relay) : Option Run := r.active.orElse fun _ => r.queue.head?

/-- Some engine's work is parked under this number. -/
def engineParked (s : State) (id : Nat) : Bool := s.gangs.vals.any fun g =>
  (g.channels.vals.any fun ch => ch.op.any fun o => o.id == id && o.parked.isSome) || g.relay.current.any fun r => r.id == id && r.parked.isSome

/-- Declare it fatal. -/
def engineFatal (s : State) (id : Nat) : State := { s with gangs := s.gangs.mapVals fun _ g =>
  { g with channels := g.channels.mapVals (fun _ ch => { ch with op := ch.op.map (·.give id) }), relay := g.relay.onCurrent (·.give id) } }

/-- What is parked under this number waits for an evicted page: that fault is resolved, and never declared fatal (R437). -/
def waitsEvicted (s : State) (id : Nat) : Bool :=
  ((s.accesses.find id).any fun a => a.st == .resolving .pageNotPresent && evictedPage s (launchOfGang (gangOfTeam a.team)) a.obj (a.off / 65536)) ||
  s.gangs.any fun p =>
    let at_ (x : Option (Cause × Nat × Nat)) : Bool := x.any fun e => e.1 == .pageNotPresent && evictedPage s (launchOfGang p.1) e.2.1 (e.2.2 / 65536)
    (p.2.channels.vals.any fun ch => ch.op.any fun o => o.id == id && at_ o.parked) || p.2.relay.current.any fun r => r.id == id && at_ r.parked

/-- FAULT_DECLARED_FATAL (R222, R225, R226, R290, R370): a load traps at its park point, a held store is refused, an engine's operation aborts. -/
def execFaultDeclaredFatal (id : Nat) (s : State) : Out := if waitsEvicted s id then notNow else match accFatal s id with
  | some s1 => .next s1
  | none => if engineParked s id then .next (engineFatal s id).wake else notNow

/-! ### CANCEL -/

/-- The cause with which an access is held at its memory port: parked, resolving, or faulted before its park point; a store that waits for a snapshot
copy has none of its own, and PAGE_PERMISSION is the model's choice (log 31). -/
def heldCause (s : State) (f : Fn) (a : Access) : Option Cause := match a.st with
  | .queued c _ => some c
  | .resolving c => some c
  | .faulted c _ => some c
  | .issued => if checkAccess s f a == .snap then some .pagePermission else none
  | .refused .. => none

/-- The number of the memory port, over the dies, that an object's offset is reached by (R11). -/
def portOf (die obj off : Nat) : Nat := die * 8 + Config.memoryPort obj (off / 32) % 8

/-- The accesses that CANCEL names on a port, by group slot and PC, with their causes (R223). -/
def cancelled (s : State) (port slot pc : Nat) : List (Nat × Access × Cause) := s.accesses.filterMap fun p =>
  let a := p.2
  if a.info.slot = slot ∧ a.info.pc = pc ∧ portOf (dieOfTeam s a.team) a.obj a.off = port then
    (fnOfTeam s a.team).bind fun f => (heldCause s f a).map fun c => (p.1, a, c)
  else none

/-- A fatal record, which ends its launch. -/
def fatalTrap (s : State) (tk : Nat) (args : TrapArgs) : State :=
  let r := trapRecord s tk none { args with fatal := true, resume := .nothing }
  setFatal { s with traps := s.traps.put s.nextId r, nextId := s.nextId + 1 } r.launch r

/-- CANCEL an access: a fatal record, and it is gone. -/
def cancelAccess (s : State) (x : Nat × Access × Cause) : State :=
  let a := x.2.1
  let t := a.threads.headD 0
  (fatalTrap s a.team { cause := x.2.2, thread := t, pc := a.info.pc, word := a.info.word, object := a.obj, offset := a.off
                        deferredPrecise := a.kind.ty != .fetch, deferred := if a.kind.ty = .fetch then 0 else deferredSince s a.team t a.info
                        heat := a.info.heat, heatPos := a.info.heatPos, pathB := a.info.pathB.contains t }).dropAcc x.1

/-- The access at which an operation is held: parked, or before a snapshot copy. -/
def CopyOp.heldAccess (o : CopyOp) (s : State) (f : Fn) (die : Nat) : Option (Cause × Nat × Nat) := o.parked.orElse fun _ =>
  ((o.writes.find? fun w => !w.made && !w.glade).filter fun w => memCheck s f die w.cap.object w.off 1 w.cap.colour .store == .snap).map fun w =>
    (.pagePermission, w.cap.object, w.off)

/-- CANCEL the operation of a channel, where it is held at that port: it aborts and is signalled, and its launch ends (R290). -/
def cancelOp (port slot pc : Nat) (s : State) (p : Nat × Nat) : State := match chCtx s p.1 p.2 with
  | none => s
  | some x => match x.ch.op with
    | none => s
    | some o => match o.heldAccess s x.fn x.die with
      | none => s
      | some e =>
        if x.q.info.slot = slot ∧ x.q.info.pc = pc ∧ portOf x.die e.2.1 e.2.2 = port then
          abortSignal (fatalTrap s x.tk (abortArgs s x.tk x.q.low x.q.info e.1 e.2.1 e.2.2)) x p.1 p.2 { o with parked := none }
        else s

/-- CANCEL the run of a gang, where it is parked at that port: it ends with status 3, and its launch ends (R370). -/
def cancelRun (port slot pc : Nat) (s : State) (gk : Nat) : State :=
  match s.gangs.find gk with
  | none => s
  | some g => match g.relay.current with
    | none => s
    | some r => match r.parked with
      | none => s
      | some e =>
        if r.info.slot = slot ∧ r.info.pc = pc ∧ portOf (dieOfQuad g.quad) e.2.1 e.2.2 = port then
          let s1 := fatalTrap s (r.wave / 64) (abortArgs s (r.wave / 64) r.low r.info e.1 e.2.1 e.2.2)
          let s2 := if g.relay.active.isSome then s1 else s1.setRelay gk fun x => { x with queue := x.queue.tail }
          endRun (sendAborts (dropChunks s2 gk) (s.fnOf (launchOfGang gk)) gk r) gk r 3
        else s

/-- CANCEL (R223): a port of the module (8 × die + port), a group slot and a PC. One that names nothing in the queue has no effect. -/
def execCancel (port slot pc : Nat) (s : State) : Out :=
  let s1 := (cancelled s port slot pc).foldl cancelAccess s
  let s2 := (s.gangs.flatMap fun p => p.2.channels.keys.map fun k => (p.1, k)).foldl (cancelOp port slot pc) s1
  .next (s.gangs.keys.foldl (cancelRun port slot pc) s2)

end Sys2Proof.Machine
end

