-- ==== Sys2Proof/Machine/System.lean ====
section
/-! DEFINITION. Time and system instructions (16_time_system R375 to R401): the clocks, timers, the inbox, patience, stops as they touch them,
the control registers, software traps, service calls with the loader runtime's HOLD and EVICT (R432, R437), and the service handler. -/
namespace Sys2Proof.Machine

/-! ### Time passes (R375, R376, R388, R104) -/

/-- The clock divider of a quad (R415). -/
def State.divider (s : State) (quad : Nat) : Nat := max 1 (sget 1 s.dividers quad)

/-- Sixteenths of a core cycle in dt units of 0.2 ns at a divider. -/
def cycles16 (dt d : Nat) : Nat := 8 * dt / d

/-- Patience counted by a run while dt passes (R370). -/
def Run.pass (r : Run) (dt : Nat) : Run := if r.counts then { r with waited := r.waited + dt } else r

/-- A gang in service while dt passes. -/
def Gang.pass (g : Gang) (dt d : Nat) : Gang :=
  { g with
    vt := g.vt + dt
    cycles := g.cycles + cycles16 dt d
    throttled := if d = 1 then g.throttled else g.throttled + cycles16 dt d
    relay := { g.relay with active := g.relay.active.map (·.pass dt) } }

/-- Bins age by core cycles (R104). -/
def Team.pass (t : Team) (dt d : Nat) : Team := { t with bins := t.bins.map fun b => { b with age := b.age + cycles16 dt d } }

/-- dt units of 0.2 ns pass. -/
def State.pass (s : State) (dt : Nat) : State :=
  { s with
    now := s.now + dt
    gangs := s.gangs.mapVals fun _ g => if g.inService then g.pass dt (s.divider g.quad) else g
    teams := s.teams.mapVals fun k t => if teamServed s k then t.pass dt (s.divider (t.core / Config.coresPerQuad)) else t }

/-! ### Counters and control registers (R388, R389) -/

/-- A performance counter's value. Counters 0, 1 and 11 come from the clocks (log 12). -/
def Gang.counter (g : Gang) (sel : Nat) : Nat := match sel with
  | 0 => g.vtick
  | 1 => g.cycles / 16 * g.teams
  | 11 => g.throttled / 16 * g.teams
  | _ => sget 0 g.counters sel

/-- VCLK (R394): the gang's own service, whatever other functions do (R376, R439). -/
def issVclk (d g : Nat) : Iss := uIss 0 g d [] fun c _ => BitVec.ofNat 64 c.gang.vtick
/-- Vclk, issued. -/
def execVclk (d g : Nat) (s : State) : Out := issue (issVclk d g) s

/-- PCNT (R397). -/
def issPcnt (d sel : Nat) : Iss := uIss 0 0 d [] fun c _ => BitVec.ofNat 64 (c.gang.counter sel)
/-- Pcnt, issued. -/
def execPcnt (d sel : Nat) (s : State) : Out := issue (issPcnt d sel) s

/-- A control register as a subset reads it (R67, R389). -/
def csrValue (c : Ctx) (w : Sub) (i : Nat) : W64 := match i with
  | 0 => w.wv.mode
  | 1 => w.wv.flags
  | 2 => c.launch.seed
  | 3 => if c.launch.shape.promiseD then 1 else 0
  | 4 => BitVec.ofNat 64 c.launch.fn
  | _ => BitVec.ofNat 64 c.launch.replays

/-- CSRR (R398). -/
def issCsrr (d i : Nat) : Iss := uIss 0 0 d [] fun c w => csrValue c w i
/-- Csrr, issued. -/
def execCsrr (d i : Nat) (s : State) : Out := issue (issCsrr d i) s

/-- Write %mode or %flags; reserved bits of the source are ignored (R68, R69, R399). -/
def csrWrite (i : Nat) (v : W64) (w : Wave) : Wave := if i = 0 then { w with mode := v &&& modeMask } else { w with flags := v &&& flagMask }

/-- CSRW (R399, R70). -/
def issCsrw (a i : Nat) : Iss :=
  { uniform := true
    names := sNames [a]
    eff := fun c s => match firstBad c fun w => if i == 0 && badMode (w.wv.getS a) then some (.illegalInstruction, 0, 0) else none with
      | some t => .trap t
      | none => .done (eachSub c s fun w => csrWrite i (w.wv.getS a) w.wv) }
/-- Csrw, issued. -/
def execCsrw (a i : Nat) (s : State) : Out := issue (issCsrw a i) s

/-! ### Timers (R378, R379, R395) -/

/-- Timer k of a gang. -/
def Gang.timer (g : Gang) (k : Nat) : Timer := sget .idle g.timers k
/-- Set it. -/
def Gang.setTimer (g : Gang) (k : Nat) (t : Timer) : Gang := { g with timers := sset .idle g.timers k t }

/-- Event a stands before b: by stamp, then timers by index, then arrival. -/
def Event.before (a b : Event) : Bool :=
  decide (a.stamp < b.stamp) || (a.stamp == b.stamp && a.kind == 1 && (b.kind != 1 || decide (a.source < b.source)))

/-- Insert an event in its place (R381). -/
def insertEvent (e : Event) : List Event → List Event
  | [] => [e]
  | x :: t => if e.before x then e :: x :: t else x :: insertEvent e t

/-- The timer's unpopped event (R382). -/
def pendingTimer (g : Gang) (k : Nat) : Bool := g.inbox.any fun e => e.kind == 1 && e.source == k

/-- A timer's expiry (R379, R382). -/
def Gang.expire (g : Gang) (k deadline : Nat) : Gang :=
  let g := g.setTimer k .idle
  if pendingTimer g k then { g with inbox := g.inbox.map fun e => if e.kind = 1 ∧ e.source = k then { e with overrun := true } else e }
  else { g with inbox := insertEvent ⟨deadline, 1, k, 0, false, 0, 0⟩ g.inbox }

/-- The deadline a subset asks for. -/
def deadlineOf (now : Nat) (abs : Bool) (v : W64) : Nat := if abs then v.toNat else (now + v.toNat) % 2 ^ 64

/-- The timer after an arming: a deadline already passed expires at once, stamped with the virtual time now; a patience timer whose peer
is already stopped is held. -/
def armed (s : State) (gk now deadline : Nat) (peer : Option Nat) : Timer :=
  let d := max deadline now
  match peer with
  | none => .armed d none
  | some p =>
    if p = gk % 65536 then .armed d none
    else match s.gangs.find (gangKey (launchOfGang gk) p) with
      | some q => if q.inService then .armed d (some p) else .held (d - now) p
      | none => .armed d (some p)

/-- One subset's arming: a deadline already passed expires at once, before the next subset arms (R379, R395). -/
def Gang.arm (g : Gang) (k now deadline : Nat) (t : Timer) : Gang :=
  let g1 := g.setTimer k t
  match t with
  | .armed .. => if deadline ≤ now then g1.expire k now else g1
  | _ => g1

/-- TMARM (R395); abs and patience are the bits of imm5. -/
def issTmarm (a b patience abs : Nat) : Iss :=
  { uniform := true
    names := sNames (if patience = 1 then [b, b + 1] else [b])
    eff := fun c s =>
      let peer (w : Sub) : Nat := (w.wv.getS (b + 1)).toNat % 2 ^ 32
      match firstBad c fun w => if patience == 1 && decide (c.launch.gangs ≤ peer w) then some (.illegalInstruction, 0, 0) else none with
      | some t => .trap t
      | none =>
        let now := c.gang.vtick
        .done (c.subs.foldl (fun s w => s.setGang c.gk fun g =>
          let d := deadlineOf now (abs == 1) (w.wv.getS b)
          g.arm a now d (armed s c.gk now d (if patience = 1 then some (peer w) else none))) s).wake }
/-- Tmarm, issued. -/
def execTmarm (a b patience abs : Nat) (s : State) : Out := issue (issTmarm a b patience abs) s

/-- TMWAIT (R395). -/
def issTmwait (a : Nat) : Iss :=
  { uniform := true
    eff := fun c s => if c.gang.timer a = .idle then .done s else .wait }
/-- Tmwait, issued. -/
def execTmwait (a : Nat) (s : State) : Out := issue (issTmwait a) s

/-- TMCAN (R395). -/
def issTmcan (a : Nat) : Iss :=
  { uniform := true
    eff := fun c s => .done (s.setGang c.gk (·.setTimer a .idle)).wake }
/-- Tmcan, issued. -/
def execTmcan (a : Nat) (s : State) : Out := issue (issTmcan a) s

/-! ### The inbox (R380 to R384) -/

/-- The ordinary places of a gang's inbox in use; a replayable launch keeps what it has popped (R380, R383). -/
def placesUsed (s : State) (gk : Nat) (g : Gang) : Nat := match s.launches.find (launchOfGang gk) with
  | some l => if l.replayable then (l.received.filter fun p => p.1 == gk).length else (g.inbox.filter fun e => e.kind != 1).length
  | none => 0

/-- TIMER_EXPIRY (R379): the clock of a gang in service has reached the deadline. -/
def execTimerExpiry (gang timer : Nat) (s : State) : Out := match s.gangs.find gang with
  | none => notNow
  | some g => match g.timer timer with
    | .armed d _ => if g.inService && decide (d ≤ g.vtick) then .next (s.setGang gang (·.expire timer d)).wake else notNow
    | _ => notNow

/-- The bytes of a payload word that a length covers, from byte i of the payload. -/
def payload (length i v : Nat) : W64 := BitVec.ofNat 64 (v % 256 ^ min 8 (length - i))

/-- An outside event stands in the inbox, stamped now (R381); a replayable launch keeps it. -/
def deliver (s : State) (gk : Nat) (g : Gang) (kind source length p0 p1 : Nat) : State :=
  let e : Event := ⟨g.vtick, kind, source % 2 ^ 32, length, false, payload length 0 p0, payload length 8 p1⟩
  let s1 := s.setGang gk fun g => { g with inbox := insertEvent e g.inbox }
  s1.setLaunch (launchOfGang gk) fun l => if l.replayable then { l with received := l.received ++ [(gk, e)] } else l

/-- Mark a call answered with a status. -/
def answer (s : State) (id status : Nat) : State := { s with calls := s.calls.modify id fun c => { c with ready := some status } }

/-- Remove the first post that satisfies p. -/
def dropPost (p : Post → Bool) : List Post → List Post
  | [] => []
  | x :: t => if p x then t else x :: dropPost p t

/-- INBOX_EVENT_ARRIVAL (R380, R381): a post of the host (2) or of a peer gang (3), or an event of the gang's service context (4), finds a place. -/
def execInboxEventArrival (gang kind source length p0 p1 : Nat) (s : State) : Out := match s.gangs.find gang with
  | none => notNow
  | some g =>
    if decide (8188 ≤ placesUsed s gang g) || decide (16 < length) || g.reduceOf.isSome then notNow
    else if kind = 4 then .next (deliver s gang g 4 source length p0 p1)
    else
      let same (x : Post) : Bool := x.gang == gang && x.kind == kind && x.source == source && x.length == length && x.p0.toNat == p0 && x.p1.toNat == p1
      match s.posts.find? same with
      | none => notNow
      | some x =>
        let s1 := deliver { s with posts := dropPost same s.posts } gang g kind source length p0 p1
        .next (match x.call with | some id => answer s1 id 0 | none => s1)

/-- Posts that can no longer be placed: of the host, discarded and counted in the function's status (R385); of a peer, its call answered with a bad
argument (R401). -/
def endPosts (s : State) (p : Post → Bool) : State :=
  (s.posts.filter p).foldl (fun s x => match x.call with
    | some id => answer s id 2
    | none => s.setFn (s.fnOf (launchOfGang x.gang)) fun f => { f with discarded := f.discarded + 1 }) { s with posts := s.posts.filter fun x => !p x }

/-- The gang of an index still exists or is still to come: not yet retired. -/
def gangOpen (s : State) (lk : Nat) (l : Launch) (i : Nat) : Bool := decide (i < l.gangs) && (decide (l.placed ≤ i) || (s.gangs.find (gangKey lk i)).isSome)

/-- HOST_EVENT_STORE (R385): one 32-byte store to the event window; acknowledged when its event is placed. Before Ready the
windows discard every store (R444), and behind a failed host link none arrives (R426). -/
def execHostEventStore (fn bytes : Nat) (s : State) : Out :=
  if s.boot ≠ .ready || hostCut s then .next s else match s.fns.find fn with
  | none => .next s
  | some _ =>
    let lk := bytes / 2 ^ 32 % 2 ^ 32
    let i := bytes % 2 ^ 32
    let bad : Out := .next (s.setFn fn fun f => { f with discarded := f.discarded + 1 })
    match s.launches.find lk with
    | none => bad
    | some l =>
      if l.fn ≠ fn ∨ l.status = .done ∨ !gangOpen s lk l i then bad
      else .next { s with posts := s.posts ++ [⟨gangKey lk i, 2, bytes / 2 ^ 64 % 2 ^ 32, 16, BitVec.ofNat 64 (bytes / 2 ^ 128), BitVec.ofNat 64 (bytes / 2 ^ 192), none⟩] }

/-- The first event whose stamp is at or below the clock, and the rest (R383). -/
def takeEvent (now : Nat) : List Event → Option (Event × List Event)
  | [] => none
  | e :: t => if e.stamp ≤ now then some (e, t) else (takeEvent now t).map fun r => (r.1, e :: r.2)

/-- Bits 63:0 of s_(d+1) of an event record (R384). -/
def Event.info (e : Event) : W64 := BitVec.ofNat 64 (e.source * 2 ^ 32 + e.length * 2 ^ 16 + (if e.overrun then 256 else 0) + e.kind)

/-- Put an event's record, or zeros, into four registers and a predicate. -/
def Wave.putEvent (w : Wave) (d q : Nat) : Option Event → Wave
  | some e => ((((w.setS d (BitVec.ofNat 64 e.stamp)).setS (d + 1) e.info).setS (d + 2) e.p0).setS (d + 3) e.p1).setQ q true
  | none => ((((w.setS d 0).setS (d + 1) 0).setS (d + 2) 0).setS (d + 3) 0).setQ q false

/-- One subset pops an event. -/
def popEvent (c : Ctx) (d q : Nat) (s : State) (w : Sub) : State := match s.gangs.find c.gk with
  | none => s
  | some g => match takeEvent g.vtick g.inbox with
    | none => s.setWave w.wk (·.putEvent d q none)
    | some (e, rest) =>
      let s1 := (s.setWave w.wk (·.putEvent d q (some e))).setGang c.gk fun g => { g with inbox := rest }
      if e.kind = 1 then s1.setLaunch c.lk fun l => if l.replayable then { l with received := l.received ++ [(c.gk, e)] } else l else s1

/-- EVPOP (R396). -/
def issEvpop (d b g : Nat) : Iss :=
  { uniform := true
    guard := g
    names := sNames [d, d + 1, d + 2, d + 3]
    eff := fun c s => .done (c.subs.foldl (popEvent c d b) s) }
/-- Evpop, issued. -/
def execEvpop (d b g : Nat) (s : State) : Out := issue (issEvpop d b g) s

/-! ### Patience: HOLD and RESUME (R386) -/

/-- The timers of a gang name a peer index. -/
def Gang.timerNames (g : Gang) (i : Nat) : Bool := g.timers.vals.any fun t => match t with
  | .armed _ (some p) => p == i
  | .held _ p => p == i
  | _ => false

/-- Gang k waits on gang gk: a patience timer names it, or its run waits on its rank or is under its HOLD. -/
def partner (s : State) (gk k : Nat) (g : Gang) : Bool :=
  let fn := s.fnOf (launchOfGang gk)
  k != gk && g.reduceOf.isNone && s.fnOf (launchOfGang k) == fn &&
    ((launchOfGang k == launchOfGang gk && g.timerNames (gk % 65536)) ||
     g.relay.active.any fun r => (r.holds.any fun h => rankIs s fn (launchOfGang k) r.coll (BitVec.ofNat 64 h) gk) ||
       r.waitsFor.any fun e => rankIs s fn (launchOfGang k) r.coll e gk)

/-- Send HOLD or RESUME to every partner of a gang. -/
def notify (s : State) (gk : Nat) (hold : Bool) : State :=
  let ks := (s.gangs.filter fun p => partner s gk p.1 p.2 || s.notices.any fun n => n.source == gk && n.target == p.1).map (·.1)
  { s with notices := s.notices ++ ks.map fun k => ⟨hold, gk, k, s.now⟩ }

/-- HOLD or RESUME reaches a gang's run: it pauses where it waits on that peer, or goes on. -/
def Gang.onRun (g : Gang) (hold : Bool) (from_ : W64 → Bool) : Gang :=
  { g with relay := { g.relay with active := g.relay.active.map fun r => if hold then r.hold from_ else r.unhold from_ } }

/-- HOLD or RESUME of the gang of an index reaches the timers of a gang of its launch. -/
def Gang.onTimers (g : Gang) (hold : Bool) (i : Nat) : Gang :=
  { g with timers := g.timers.mapVals fun _ t => match t, hold with
      | .armed d (some p), true => if p = i then .held (d - g.vtick) p else t
      | .held r p, false => if p = i then .armed (g.vtick + r) (some p) else t
      | _, _ => t }

/-- The notice in place idx takes effect: it is the first for its target, which is not halted. -/
def onNotice (hold : Bool) (idx : Nat) (s : State) : Out := match s.notices[idx]? with
  | none => notNow
  | some n =>
    let drop := { s with notices := s.notices.eraseIdx idx }
    if n.hold ≠ hold || (s.notices.take idx).any (fun m => m.target == n.target) then notNow
    else match s.gangs.find n.target with
      | none => .next drop
      | some g =>
        if !g.inService then notNow
        else
          let same := launchOfGang n.source == launchOfGang n.target
          .next (drop.setGang n.target fun g => (if same then g.onTimers hold (n.source % 65536) else g).onRun hold
            fun e => rankIs s (s.fnOf (launchOfGang n.target)) (launchOfGang n.target) ((g.relay.active.map (·.coll)).getD 0) e n.source).wake

/-- A notice of a rank on another module, by its entry in the rank list, reaches a gang whose run waits on it or is under its HOLD, by a
way that has not failed (R8). -/
def onPeerNotice (hold : Bool) (gang rank : Nat) (s : State) : Out := match s.gangs.find gang with
  | none => notNow
  | some g =>
    if g.inService && !wayCut s (dieOfQuad g.quad) (rankModule (BitVec.ofNat 64 rank)) &&
        g.relay.active.any fun r => if hold then r.waitsFor.any fun e => e.toNat == rank else r.holds.contains rank then
      .next (s.setGang gang (·.onRun hold fun e => e.toNat == rank)).wake
    else notNow

/-- The module that an entry for a gang which has left for another module names; none: the gang stands in this module. A die from 4 up counts on into the
pod's modules (log 24). -/
def Gang.awayTo (g : Gang) : Option Nat := if Config.dies ≤ dieOfQuad g.quad then some (dieOfQuad g.quad / Config.dies) else none

/-- A notice of a gang of the launch that has been packed away to another module (its entry stays, as moving, R414) reaches the timers of a gang that name
it, by a way that has not failed (R8). -/
def onPackedNotice (hold : Bool) (gang idx : Nat) (s : State) : Out := match s.gangs.find gang, s.launches.find (launchOfGang gang) with
  | some g, some l =>
    let lk := launchOfGang gang
    let comes := match s.gangs.find (gangKey lk idx) with
      | none => true
      | some h => h.awayTo.any fun m => !wayCut s (dieOfQuad g.quad) m
    if g.inService && decide (idx < l.gangs) && decide (idx < l.placed) && comes && g.timerNames idx then
      .next (s.setGang gang (·.onTimers hold idx)).wake
    else notNow
  | _, _ => notNow

/-- The rank-list entry is of a rank on another module. -/
def peerRank (rank : Nat) : Bool := rankModule (BitVec.ofNat 64 rank) != Config.moduleId

/-- A notice takes effect (R386). -/
def noticeArrives (hold : Bool) (notice : NoticeRef) (s : State) : Out := match notice with
  | .here idx => onNotice hold idx s
  | .peer gang rank => if peerRank rank then onPeerNotice hold gang rank s else notNow
  | .packed gang idx => onPackedNotice hold gang idx s

/-- HOLD_NOTICE (R386). -/
def execHoldNotice (notice : NoticeRef) (s : State) : Out := noticeArrives true notice s
/-- RESUME_NOTICE (R386). -/
def execResumeNotice (notice : NoticeRef) (s : State) : Out := noticeArrives false notice s

/-! ### A stop begins (R377, R412) -/

/-- How many commands of a macro's queue a stop lets run: the head (R338), and all up to the last MRD, whose destination is still to be written (R135,
R350). -/
def Macro.mustRun (m : Macro) : Nat := m.queue.zipIdx.foldl (fun n q => if fld q.1.word.toNat 60 4 = 4 then q.2 + 1 else n) 1

/-- The commands of a gang's macros that a stop waits for run to their ends in it, or no longer (R135, R338). -/
def State.markHeads (s : State) (gk : Nat) (b : Bool) : State :=
  let mark (t : Team) : Team := { t with macros := t.macros.mapVals fun _ m =>
    { m with queue := m.queue.zipIdx.map fun q => { q.1 with last := b && decide (q.2 < m.mustRun) } } }
  { s with teams := s.teams.mapVals fun k t => if gangOfTeam k = gk then mark t else t }

/-- A stop by which a debugger halts a gang (R41). -/
def StopWhy.debugs : StopWhy → Bool
  | .debugger => true
  | .step => true
  | _ => false

/-- A stop overlaps the one a gang is in (R432): a debugger's keeps it halted; a pre-emption takes the places that a HOLD has kept, and the HOLD's end
still bounds the restart. -/
def Gang.stopAgain (g : Gang) (why : StopWhy) : Gang :=
  let taken := why == .preemption && g.holdUntil.isSome
  { g with halted := g.halted || why.debugs, kept := g.kept && !taken, stopWhy := if taken then why else g.stopWhy }

/-- Issue of a gang stops: its clock halts and its partners receive HOLD. A reduce kernel is no gang of its launch: it is stopped by its own HOLD
alone, and has no partners (R367, R371). -/
def stopGang (s : State) (gk : Nat) (why : StopWhy) : State := match s.gangs.find gk with
  | none => s
  | some g =>
    if g.status ≠ .resident then s.setGang gk (·.stopAgain why)
    else if g.reduceOf.isSome ∧ why ≠ .hold then s
    else
      let s1 := (s.setGang gk fun g => { g with status := .quiescing, stopAt := s.now, stopWhy := why, halted := g.halted || why.debugs }).markHeads gk true
      if g.reduceOf.isSome then s1 else notify s1 gk true

/-- Stop several gangs. -/
def stopAll (s : State) (why : StopWhy) : List Nat → State
  | [] => s
  | k :: t => stopAll (stopGang s k why) why t

/-- The gangs that stop with a gang: its whole launch in a cohort (R410). -/
def stopSet (s : State) (gk : Nat) : List Nat := match s.launches.find (launchOfGang gk) with
  | some l => if l.cohort && !((s.gangs.find gk).any (·.reduceOf.isSome)) then gangsOf s (launchOfGang gk) else [gk]
  | none => [gk]

/-! ### Software traps (R400) -/

/-- A debugger's halt of every gang of a launch that has been dispatched: they stay halted until it says `run` or `continue` (R41). -/
def debugHalt (s : State) (lk : Nat) : State := stopAll s .debugger (gangsOf s lk)

/-- TRAP and BRK: the group goes past the instruction and is held there by the trap. -/
def softTrap (cause : Cause) (n : Nat) (halts : Ctx → State → Bool) : Iss where
  uniform := true
  wend := true
  eff := fun c s =>
    let I : Iss := { uniform := true, wend := true, eff := fun _ s => .done s }
    let s1 := advance s c I false
    if halts c s then .jump (debugHalt s1 c.lk)
    else .jump (takeTrap s1 c.gkey { c.trapArgs cause (lowLane c.lanes) with code := n, resume := .after })

/-- TRAP (R400). -/
def issTrap (n : Nat) : Iss := softTrap .software n fun _ _ => false
/-- Trap, issued. -/
def execTrap (n : Nat) (s : State) : Out := issue (issTrap n) s
/-- BRK (R400): a debugger halt where a `zdb` is attached. -/
def issBrk (n : Nat) : Iss := softTrap .breakpoint n fun c s => s.debugged.contains c.lk
/-- Brk, issued. -/
def execBrk (n : Nat) (s : State) : Out := issue (issBrk n) s

/-! ### Service calls (R401, R432, R437) -/

/-- The status a call gets without more ado; none: a service must first act. -/
def callReady (s : State) (lk : Nat) (l : Launch) (code : Nat) (a0 a1 : W64) : Option Nat :=
  match code with
  | 0 => some 0
  | 1 => if decide (l.gangs ≤ a0.toNat % 2 ^ 32) || decide (16 < a1.toNat % 32) || !gangOpen s lk l (a0.toNat % 2 ^ 32) then some 2 else none
  | 2 => if 16 < a1.toNat % 32 then some 2 else some 0
  | 16 => if 1 ≤ a0.toNat ∧ a0.toNat ≤ 1000000 then none else some 2
  | 17 => none
  | n => if n ≤ 15 then some 1 else none

/-- Send a subset's call: the group waits for its reply. -/
def sendCall (c : Ctx) (s : State) (w : Sub) (code d a : Nat) : State :=
  let id := s.nextId
  let arg (k : Nat) : W64 := w.wv.getS (a + k)
  let rdy := callReady s c.lk c.launch code (arg 0) (arg 1)
  let s1 := { s with nextId := id + 1, calls := s.calls.put id ⟨c.gkey, w.wk, d, a, code, (List.range 4).map arg, rdy⟩ }
  let s2 := s1.setGroup c.gkey fun g => { g with status := .calling id, word := c.word }
  let len := (arg 1).toNat % 32
  let p0 := payload len 0 (arg 2).toNat
  let p1 := payload len 8 (arg 3).toNat
  if code = 1 ∧ rdy = none then
    { s2 with posts := s2.posts ++ [⟨gangKey c.lk ((arg 0).toNat % 2 ^ 32), 3, c.gk % 65536, len, p0, p1, some id⟩] }
  else if code = 2 ∧ rdy = some 0 then
    loseReplay { s2 with hostEvents := (c.launch.fn, ⟨c.gang.vtick, 2, (arg 0).toNat % 2 ^ 32, len, false, p0, p1⟩) :: s2.hostEvents } c.lk
  else s2

/-- SYSC 3: the fatal record of a subset (R401). -/
def endLaunch (c : Ctx) (s : State) (w : Sub) (a : Nat) : State :=
  let args := { c.trapArgs .software (lowLane w.lanes) with fatal := true, code := (w.wv.getS a).toNat % 2 ^ 32 }
  let r := trapRecord s c.tk (some c.gkey) args
  setFatal (takeTrap s c.gkey args) c.lk r

/-- A service call: one subset after another waits as FENCE.full does, sends its call and waits for the reply. -/
def syscIss (code d a : Nat) : Iss where
  uniform := true
  mem := true
  names := sNames [d, a, a + 1, a + 2, a + 3]
  eff := fun c s => match c.todo with
    | [] => .done s
    | w :: _ => match subQuiet c s w with
      | .go => .jump (if code = 3 then endLaunch c s w a else sendCall c s w code d a)
      | .wait => .wait
      | .park x => .park x

/-- SYSC 0 (R401). -/
def issSyscNull (d a : Nat) : Iss := syscIss 0 d a
/-- SyscNull, issued. -/
def execSyscNull (d a : Nat) (s : State) : Out := issue (issSyscNull d a) s
/-- SYSC 1 (R401). -/
def issSyscPostPeerEvent (d a : Nat) : Iss := syscIss 1 d a
/-- SyscPostPeerEvent, issued. -/
def execSyscPostPeerEvent (d a : Nat) (s : State) : Out := issue (issSyscPostPeerEvent d a) s
/-- SYSC 2 (R401). -/
def issSyscPostHostEvent (d a : Nat) : Iss := syscIss 2 d a
/-- SyscPostHostEvent, issued. -/
def execSyscPostHostEvent (d a : Nat) (s : State) : Out := issue (issSyscPostHostEvent d a) s
/-- SYSC 3 (R401). -/
def issSyscEndLaunch (d a : Nat) : Iss := syscIss 3 d a
/-- SyscEndLaunch, issued. -/
def execSyscEndLaunch (d a : Nat) (s : State) : Out := issue (issSyscEndLaunch d a) s
/-- SYSC 4 to 15 (R401). -/
def issSyscReserved (d a c : Nat) : Iss := syscIss c d a
/-- SyscReserved, issued. -/
def execSyscReserved (d a c : Nat) (s : State) : Out := issue (issSyscReserved d a c) s
/-- SYSC 16, HOLD (R432). -/
def issSyscHold (d a : Nat) : Iss := syscIss 16 d a
/-- SyscHold, issued. -/
def execSyscHold (d a : Nat) (s : State) : Out := issue (issSyscHold d a) s
/-- SYSC 17, EVICT (R437). -/
def issSyscEvict (d a : Nat) : Iss := syscIss 17 d a
/-- SyscEvict, issued. -/
def execSyscEvict (d a : Nat) (s : State) : Out := issue (issSyscEvict d a) s
/-- SYSC 18 to 255 (R401). -/
def issSyscRuntimeService (d a c : Nat) : Iss := syscIss c d a
/-- SyscRuntimeService, issued. -/
def execSyscRuntimeService (d a c : Nat) (s : State) : Out := issue (issSyscRuntimeService d a c) s

/-- Accesses in flight had translated to a page before an invalidation: EVICT waits for them (R212, R437). -/
def pageInUse (s : State) (fn obj page : Nat) : Bool := s.accesses.vals.any fun a =>
  a.obj == obj && s.fnOf (launchOfGang (gangOfTeam a.team)) == fn && (a.pins.find page).isSome

/-- EVICT (R437, R439): the status, 0 of a page of an own section whether or not it was there, and the state after. The entry's present
bit is cleared; for the other launches of the image, which reach the same section, the page stays (`State.fnFor`). -/
def evict (s : State) (lk : Nat) (l : Launch) (f : Fn) (reg page : Nat) : Nat × State :=
  match l.shape.sections.find? fun d => d.reg == reg with
  | none => (2, s)
  | some d =>
    if decide (reg < 7) || decide (29 < reg) || decide ((d.size + 65535) / 65536 ≤ page) then (2, s)
    else match entryPhys s f d.obj page with
      | none => (0, s)
      | some a =>
        let e := readLE s.mem a 8
        if !f.seesPage d.obj page e || !physExists a then (0, s)
        else (0, (s.writeMem a 8 (e - e % 2)).setLaunch lk fun l => { l with evicted := l.evicted ++ [(d.obj, page)] })

/-- Write a reply's registers and let the group go on with its next subset. -/
def putReply (s : State) (id : Nat) (c : Call) (status : Nat) (rs : Option (List W64)) : State :=
  let s1 := s.setWave c.wave fun w =>
    let w := match rs with
      | some vs => putFrom Wave.setS w c.a vs
      | none => w
    w.setS c.d (BitVec.ofNat 64 status)
  { s1 with
    calls := s1.calls.del id
    groups := s1.groups.mapVals fun _ g => if g.status = .calling id then { g with status := .ready, acted := g.acted ++ [c.wave % 64] } else g }

/-- SERVICE_CALL_REPLY (R401): of a service of the chip's own runtime the status follows from its rule; of any other, status and results are
the runtime's. A stopped gang's reply waits. -/
def execServiceCallReply (call status r0 r1 r2 r3 : Nat) (s : State) : Out := match s.calls.find call with
  | none => notNow
  | some c =>
    let gk := gangOfTeam (teamOfGroup c.group)
    let lk := launchOfGang gk
    if !((s.gangs.find gk).any fun g => g.inService) then notNow
    else match c.ready with
      | some st => .next (putReply s call c st none)
      | none =>
        if c.code = 17 then match s.launches.find lk, s.fnFor lk with
          | some l, some f =>
            let reg := (c.args.getD 0 0).toNat
            let page := (c.args.getD 1 0).toNat
            let r := evict s lk l f reg page
            if (l.shape.sections.find? fun d => d.reg == reg).any fun d => pageInUse s l.fn d.obj page then notNow else .next (putReply r.2 call c r.1 none)
          | _, _ => notNow
        else if c.code < 18 then notNow
        else .next (putReply s call c status (some ([r0, r1, r2, r3].map (BitVec.ofNat 64))))

/-- The first HOLD call of a gang that has not been served (R432). -/
def holdCall (s : State) (gk : Nat) : Option (Nat × Call) :=
  (s.calls.find? fun p => p.2.code == 16 && p.2.ready.isNone && gangOfTeam (teamOfGroup p.2.group) == gk).map fun p => (p.1, p.2)

/-! ### The service handler (R392) -/

/-- TRAP_RESUME (R392). A fatal record, and one of an uncorrectable error (R424), is not resumed. -/
def execTrapResume (rec : Nat) (s : State) : Out := match s.traps.find rec with
  | some r => if r.done || r.fatal || r.cause == .uncorrectable || r.cause == .vfReset then notNow else .next (resumeTrap s rec)
  | none => notNow

/-- TRAP_DECLARE_FATAL (R392). -/
def execTrapDeclareFatal (rec : Nat) (s : State) : Out := match s.traps.find rec with
  | some r => if r.done then notNow
    else .next (setFatal { s with traps := s.traps.modify rec fun r => { r with done := true, fatal := true } } r.launch { r with done := true, fatal := true })
  | none => notNow

end Sys2Proof.Machine
end

