-- ==== Sys2Proof/Machine/Launch.lean ====
section
/-! DEFINITION. Forming groups (05_control R104 to R107, R418), and launches (17_launch R402 to R427): records and queues, placement, stops,
the ordered fold (R272), completion, snapshots and replay, resets of functions, and the agents outside a launch (R329, R330). -/
namespace Sys2Proof.Machine

/-! ### Group formation -/

/-- The bins that may be formed now: the eligible ones of launches that are not deterministic (R105). -/
def eligibleBins (s : State) (core : Nat) : List (Nat × Bin) := (liveBins s core false).filter (·.2.eligible)

/-- Every bin of some teams becomes eligible (R105). -/
def markEligible (s : State) (tks : List Nat) : State :=
  { s with teams := s.teams.mapVals fun k t => if tks.contains k then { t with bins := t.bins.map fun b => { b with eligible := true } } else t }

/-- A thread waits at a barrier, a step or GCFG, where others of its wave must come, or at BARW, whatever OP10 names it (R95). -/
def waitsForOthers (s : State) (tk : Nat) (p : Nat × Thread) : Bool := p.2.hold != .none || (match groupOf s tk (p.1 % 2048) with
  | some (_, g) => g.status == .waiting && (fnOfTeam s tk).any fun f => opKey f g.word == 0x493
  | none => false)

/-- No thread of a wave is grouped or waits at a window end (R418): every live one is filed, or waits where it needs the others. A group that waits for
a load or an engine, is parked or trapped counts as grouped, or the groups formed would depend on timing (DEDUCED, log 15). -/
def waveFiled (s : State) (tk w : Nat) : Bool := (liveThreads s tk).all fun p => p.1 % 2048 / 32 != w || p.2.status == .filed || waitsForOthers s tk p

/-- The lowest rank a bin holds. -/
def Bin.low (b : Bin) : Nat := b.threads.foldl min 2048

/-- The bin of lowest rank. -/
def lowestBin : List (Nat × Bin) → Option (Nat × Bin)
  | [] => none
  | x :: t => match lowestBin t with
    | none => some x
    | some y => if x.1 * 2048 + x.2.low ≤ y.1 * 2048 + y.2.low then some x else some y

/-- The bin a deterministic launch forms next: one of a wave that is being formed, or the first of a wave all filed (R418). -/
def detBin (s : State) (core : Nat) : Option (Nat × Bin) :=
  let bs := liveBins s core true
  match lowestBin (bs.filter (·.2.eligible)) with
  | some x => some x
  | none => lowestBin (bs.filter fun p => waveFiled s p.1 (p.2.low / 32))

/-- Mark the bins of a wave as being formed. -/
def markWave (s : State) (tk w : Nat) : State := s.setTeam tk fun t =>
  { t with bins := t.bins.map fun b => if b.low / 32 = w then { b with eligible := true } else b }

/-- A core cycle of a quad, in units of 0.2 ns (R415). -/
def State.cycle (s : State) (quad : Nat) : Nat := 2 * s.divider quad

/-- The core has formed no group in this core cycle (R106). -/
def mayForm (s : State) (core : Nat) : Bool := match s.formedAt.find core with
  | some t => let c := s.cycle (core / Config.coresPerQuad); (t - 1) / c != s.now / c
  | none => true

/-- GROUP_FORMATION (R106, R418): a deterministic wave's bins together, one after another (those that stand when its forming begins); or once in a core
cycle the oldest eligible bin becomes a group. -/
def execGroupFormation (core : Nat) (s : State) : Out :=
  match detBin s core with
  | some (tk, b) => match formBin (if b.eligible then s else markWave s tk (b.low / 32)) tk b with
    | some s2 => .next s2
    | none => notNow
  | none => match if mayForm s core then oldestOf (eligibleBins s core) else none with
    | some (tk, b) => match formBin s tk b with
      | some s2 => .next s2
      | none => notNow
    | none => notNow

/-- BIN_AGE_LIMIT (R105): the bin of this number has reached the age limit. -/
def execBinAgeLimit (team bin : Nat) (s : State) : Out := match s.teams.find team with
  | none => notNow
  | some t =>
    if (t.bins.any fun b => b.seq == bin && !b.eligible && decide (ageLimitOf s team * 16 ≤ b.age)) && !isDet s team then
      .next (s.setTeam team fun t => { t with bins := t.bins.map fun b => if b.seq = bin then { b with eligible := true } else b })
    else notNow

/-- The group formed first of some. -/
def earliest : List (Nat × Group) → Option (Nat × Group)
  | [] => none
  | x :: t => match earliest t with
    | none => some x
    | some y => if x.2.formed ≤ y.2.formed then some x else some y

/-- The thin group of a core that yields (R107, R418): of a gang in service, which can come to an instruction boundary. -/
def thinGroup (s : State) (core : Nat) : Option (Nat × Group) :=
  earliest ((groupsOn s core).filter fun p => decide (p.2.lanes.length < 32) && p.2.heat.isNone && !isDet s (teamOfGroup p.1) && teamServed s (teamOfGroup p.1))

/-- A window is open: it has places left, or its instruction is not complete (R111). -/
def openWindow (s : State) (tk : Nat) (w : Window) : Bool := decide (0 < w.left) || !isComplete s tk w.xact

/-- A release on a team is due and finds no bin for threads that stand in a bin with others (R107, log 15). -/
def releaseStuck (s : State) (tk : Nat) : Bool :=
  let gk := gangOfTeam tk
  let blocked (o : Out) : Bool := match o with | .refused _ => true | _ => false
  ([(0, tk), (1, gk), (2, launchOfGang gk)].any fun p =>
      (barMembers s p.1 p.2).any (phaseReady s p.1) && blocked (execBarrierPhaseComplete p.1 p.2 s))
    || ([0, 1].any fun w => (drainMask s tk w).any fun m =>
      let tks := stepTeams s tk w
      !boardNames s tks (maskRegions m) && (collision s tks (maskRegions m)).isNone && blocked (execGstepDrained tk w s))
    || ((((s.teams.find tk).map (·.cfgDraining.keys)).getD []).any fun k => !boardNames s [tk] [k] && blocked (execGcfgDrained tk k s))

/-- A formation on a core has found no free slot (R107): of an eligible bin, or one that `file_bin` forces where no bin is free. -/
def formationWaits (s : State) (core : Nat) : Bool := (freeSlot s core).isNone &&
  (!(eligibleBins s core).isEmpty || (decide (64 ≤ (binsOn s core).length) &&
    (((groupsOn s core).any fun p => p.2.stuck && !p.2.isTrapped) || (teamsOn s core).any fun p => releaseStuck s p.1)))

/-- THIN_GROUP_YIELD (R107): no slot is free for a formation; the group stands at an instruction boundary with no open window. -/
def execThinGroupYield (core : Nat) (s : State) : Out := match thinGroup s core with
  | none => notNow
  | some (k, g) =>
    if formationWaits s core && !(g.windows.any (openWindow s (teamOfGroup k))) && (g.status == .ready || g.status == .waiting) && g.acted.isEmpty then
      match dissolve s k (g.lanes.map fun t => (t, g.pc)) with
      | some s2 => .next s2
      | none => notNow
    else notNow

/-! ### Descriptors and page entries (R209 to R211) -/

/-- The physical address of an object's descriptor. -/
def descAddr (s : State) (f : Fn) (obj : Nat) : Option Nat :=
  let a1 := f.dirRoot + obj / 65536 % 65536 * 8
  (guestRead s.mem f.stage2 a1).bind fun e1 =>
    if !dirOk e1 then none else (guestRead s.mem f.stage2 (e1 / 32 * 32 + obj % 65536 * 8)).bind fun e2 =>
      if !dirOk e2 then none else (guestPhys s.mem f.stage2 (e2 / 32 * 32)).map (·.1)

/-- Set or clear a bit of the descriptor's second word (scope 48 to 50, ordered 51, snapshot 52). -/
def markObj (s : State) (f : Fn) (k : Nat) (b : Bool) (obj : Nat) : State := match descAddr s f obj with
  | some a => setMemBit s (a + 8) k b
  | none => s

/-- The number of pages of an object. -/
def pageCount (s : State) (f : Fn) (obj : Nat) : Nat := match walkDesc s.mem f obj with
  | .ok _ d1 => (d1 % 2 ^ 40 + 65535) / 65536
  | .fail .. => 0

/-- Set or clear bit k of the first n page entries that are present: 5 RO, 7 and 8 kind, 12 snapcopy. -/
def markPages (f : Fn) (obj k : Nat) (b : Bool) : Nat → State → State
  | 0, s => s
  | n + 1, s => markPages f obj k b n (match entryPhys s f obj n with
    | some a => if f.seesPage obj n (readLE s.mem a 8) then setMemBit s a k b else s
    | none => s)

/-- The frame of a page of an object, where its entry is present. -/
def frameOf (s : State) (f : Fn) (obj page : Nat) : Option Nat := match entryPhys s f obj page with
  | some a =>
    let e := readLE s.mem a 8
    if f.seesPage obj page e then (guestPhys s.mem f.stage2 (e / 65536 * 65536)).map fun p => e / 512 % 4 * 2 ^ 64 + p.1 else none
  | none => none

/-- The frames of an object's pages. -/
def framesOf (s : State) (f : Fn) (obj : Nat) : List Nat := (List.range (pageCount s f obj)).filterMap (frameOf s f obj)

/-- Give the granules of a frame colour 0 and clear validity bits, also of the writes there that may still be read. -/
def State.clearFrame (s : State) (a : Nat) : State :=
  { s with
    colours := s.colours.filter fun p => !(decide (a / 32 ≤ p.1) && decide (p.1 < a / 32 + 2048))
    valid := s.valid.filter fun p => !(decide (a / 16 ≤ p.1) && decide (p.1 < a / 16 + 4096))
    past := s.past.mapVals fun k ws => if decide (a ≤ k) && decide (k < a + 65536) then ws.map fun w => { w with valid := false } else ws }

/-- The loader has mapped an object's pages, every one, with home local HBM (R434). -/
def mappedHere (s : State) (f : Fn) (obj : Nat) : Bool :=
  (framesOf s f obj).length == pageCount s f obj && (framesOf s f obj).all fun a => decide (a < 2 ^ 64)

/-- The objects of a function's images: of each its code and its sections. -/
def imageObjs (i : NativeImage) : List Nat := i.codeObj :: i.sections.map (·.obj)

/-- Objects that the loader may give an image: each with a number of its own that no image of the function has (R89, R94, R434), every page of the code
mapped, and the sections whole and mapped here. -/
def freshObjs (s : State) (f : Fn) (i : NativeImage) : Bool :=
  let os := imageObjs i
  let used := f.images.vals.flatMap imageObjs
  noRepeats os && (os.all fun o => decide (1 ≤ o) && decide (o < 2 ^ 32) && !used.contains o) && (pageCount s f i.codeObj != 0)
    && (framesOf s f i.codeObj).length == pageCount s f i.codeObj && i.sections.all fun d => mappedHere s f d.obj && decide (d.size ≤ 65536 * pageCount s f d.obj)

/-- The scope of a section's object is `.die` and its pages have kind `rc` (R434). -/
def mapSection (f : Fn) (s : State) (o : Nat) : State :=
  let s1 := markObj (markObj (markObj s f 48 false o) f 49 true o) f 50 false o
  markPages f o 8 false (pageCount s1 f o) (markPages f o 7 true (pageCount s1 f o) s1)

/-- What the loader does to the objects of an image (R29, R36, R89, R434): colour 0 and no validity bits on every granule, RO on the pages of the code
and of `.const` sections, scope and kind of the sections. -/
def mapImage (s : State) (f : Fn) (i : NativeImage) : State :=
  let s1 := (imageObjs i).foldl (fun s o => (framesOf s f o).foldl State.clearFrame s) s
  let s2 := (i.codeObj :: (i.sections.filter (·.const)).map (·.obj)).foldl (fun s o => markPages f o 5 true (pageCount s f o) s) s1
  (i.sections.map (·.obj)).foldl (mapSection f) s2

/-! ### Ending gangs and launches -/

/-- Discard gangs with everything of theirs: no quiescing (R412, R422). Posts to them are the caller's to end; notices they have sent still arrive. -/
def dropGangs (s : State) (p : Nat → Bool) : State :=
  let ofTeam (tk : Nat) : Bool := p (gangOfTeam tk)
  { s with
    gangs := s.gangs.filter fun x => !p x.1
    teams := s.teams.filter fun x => !ofTeam x.1
    waves := s.waves.filter fun x => !ofTeam (x.1 / 64)
    threads := s.threads.filter fun x => !ofTeam (x.1 / 2048)
    groups := s.groups.filter fun x => !ofTeam (x.1 / 64)
    accesses := s.accesses.filter fun x => !ofTeam x.2.team
    calls := s.calls.filter fun x => !ofTeam (teamOfGroup x.2.group)
    notices := s.notices.filter fun x => !p x.target
    chunks := s.chunks.filter fun x => !p x.source
    stood := (s.teams.filter fun x => ofTeam x.1).foldl (fun t x => sset 0 t x.1 x.2.core) s.stood
    traps := s.traps.mapVals fun _ r => if p r.owner then { r with done := true } else r
    cur := s.cur.filter fun k => !ofTeam (teamOfGroup k) }

/-- Discard all gangs of a launch. -/
def dropLaunch (s : State) (lk : Nat) : State := dropGangs s fun gk => launchOfGang gk == lk

/-- Discard them at the launch's end: what still waits to be posted to them is over (R385). -/
def endGangs (s : State) (lk : Nat) : State := endPosts (dropLaunch s lk) fun x => launchOfGang x.gang == lk

/-- The writes of a gang that its end makes visible: its threads', its copies', its relay runs' (R328). -/
def gangWrote (s : State) (gk : Nat) (g : Gang) : View :=
  ((g.relay.signals ++ g.channels.vals.flatMap (·.signals)).map (·.view) ++ (teamsOfGang s gk).map (teamWrote s)).foldl View.join []

/-- The writes of a launch: of its retired gangs and of those that stand. -/
def launchWrote (s : State) (lk : Nat) (l : Launch) : View :=
  (s.gangs.filter fun p => launchOfGang p.1 == lk).foldl (fun v p => View.join v (gangWrote s p.1 p.2)) l.wrote

/-- The 64 bytes of a trap record (R390). -/
def TrapRec.bytes (r : TrapRec) : Nat :=
  r.cause.code + ((if r.deferredPrecise then 1 else 0) + (if r.fatal then 2 else 0) + (if r.heat then 4 else 0) + (if r.pathB then 8 else 0)) * 2 ^ 8
    + r.team % 256 * 2 ^ 16 + r.lane % 256 * 2 ^ 24 + r.wave % 256 * 2 ^ 32 + r.heatPos % 256 * 2 ^ 40 + r.vf % 65536 * 2 ^ 48
    + r.gang % 2 ^ 32 * 2 ^ 64 + r.word % 2 ^ 32 * 2 ^ 96 + r.pc % 2 ^ 64 * 2 ^ 128 + r.object % 2 ^ 32 * 2 ^ 192 + r.offset % 2 ^ 64 * 2 ^ 256
    + r.vt % 2 ^ 64 * 2 ^ 320 + r.rt % 2 ^ 64 * 2 ^ 384 + r.deferred % 2 ^ 32 * 2 ^ 448 + r.code % 2 ^ 32 * 2 ^ 480

/-- The address of a function timeline's entry (R406). -/
def timelineAt (f : Fn) (k : Nat) : Nat := f.timelineBase + 128 * k

/-- The 128 bytes of a timeline entry after a completion (R406). -/
def timelineEntry (old compval status : Nat) (rec : Option TrapRec) : Nat :=
  max old compval + status * 2 ^ 64 + ((rec.map fun r => ({ r with fatal := true } : TrapRec).bytes).getD 0) * 2 ^ 128

/-- Where the command processors act: on the link die, at no compute die (R402). -/
def linkPlace : Place := .engine linkDie

/-- Add real ticks to what a gang of a launch has been stopped (R387). -/
def Launch.addStop (l : Launch) (i ticks : Nat) : Launch := { l with stops := sset 0 l.stops i (sget 0 l.stops i + ticks) }

/-- The real ticks from a stop to now (R377). -/
def Gang.stopTicks (s : State) (g : Gang) : Nat := s.now / 5 - g.stopAt / 5

/-- The launch with the stops counted that its end or a replay cuts short (R387). -/
def Launch.endStops (l : Launch) (s : State) (lk : Nat) : Launch :=
  (s.gangs.filter fun p => launchOfGang p.1 == lk && !p.2.inService && p.2.reduceOf.isNone).foldl (fun l p => l.addStop (p.1 % 65536) (p.2.stopTicks s)) l

/-- The 32 bytes of a launch's time record as its gangs stand (R387). -/
def timeRecord (s : State) (lk : Nat) (l : Launch) : BitVec 256 := BitVec.ofNat 256
  (l.start % 2 ^ 64 + l.stops.vals.foldl max 0 % 2 ^ 64 * 2 ^ 64 + l.stops.vals.sum % 2 ^ 64 * 2 ^ 128 + l.replays % 2 ^ 32 * 2 ^ 192
    + (s.gangs.filter fun p => launchOfGang p.1 == lk && !p.2.inService && p.2.reduceOf.isNone).length % 2 ^ 32 * 2 ^ 224)

/-- Update it. -/
def State.noteTime (s : State) (lk : Nat) : State := s.setLaunch lk fun l => { l with timeRec := timeRecord s lk l }

/-- A launch is Done (R420): its completion timeline is signalled in one step with status and record, a release at `.sys` of everything the launch
has done, which carries on what earlier completions have released there (R328). What still waits to be posted to its gangs is over (R385). -/
def complete (s : State) (lk : Nat) (l : Launch) (status : Nat) (rec : Option TrapRec) : Out := match s.fns.find l.fn with
  | none => notNow
  | some f =>
    let a := timelineAt f l.comp
    if !(physExists a && physExists (a + 127)) then .fault .noMemory
    else
      let s1 := s.agentWrite linkPlace a 128 (timelineEntry (readLE s.mem a 8) l.compval.toNat status rec)
        [⟨linkPlace, 5, View.join (sget [] f.signals l.comp) l.wrote⟩]
      let s2 := (s1.setLaunch lk fun m => { m with status := .done, stops := l.stops }).noteTime lk
      let s3 := endPosts s2 fun x => launchOfGang x.gang == lk
      .next ((s3.setFn l.fn fun f => { f with
        queues := f.queues.mapVals fun _ q => q.filter (· != lk)
        signals := sset [] f.signals l.comp (View.join (sget [] f.signals l.comp) l.wrote) }).wake)

/-- Give a launch all the pages it has evicted back (R437). -/
def restoreAll (s : State) (lk : Nat) (l : Launch) (f : Fn) : State := l.evicted.foldl (restorePage lk f) s

/-- What the runtime undoes before a completion (R266, R423, R437): evicted pages return, ordered bits and snapshot marks are cleared. -/
def undoMarks (s : State) (lk : Nat) (l : Launch) (f : Fn) : State :=
  let s1 := restoreAll s lk l f
  let f := (s1.fnFor lk).getD f
  let s2 := l.targets.foldl (fun s o => markObj s f 51 false o) s1
  let others := s.launches.any fun p => p.1 != lk && p.2.fn == l.fn && p.2.status != .done && l.snapObjs.any fun o => p.2.snapObjs.contains o
  if others then s2 else l.snapObjs.foldl (fun s o => markPages f o 12 false (pageCount s f o) (markObj s f 52 false o)) s2

/-! ### Spawn records and queues (R402 to R405) -/

/-- Shape of a launch whose record has not been checked. -/
def NativeImage.none_ : NativeImage := ⟨0, 0, 1, 1, 32, [], 0, 0, false, false, [], false, false⟩

/-- A launch as its record stands in a queue. flags: the flags byte; waves 0 takes the image's. -/
def queuedLaunch (fn q : Nat) (record : SpawnRec) (image gangs waves flags dep comp : Nat) (depval compval : W64) : Launch where
  fn := fn
  queue := q
  status := .queued
  record := record
  image := image
  checked := false
  shape := NativeImage.none_
  die := none
  gangs := gangs
  waves := waves
  det := bit flags 1
  cohort := bit flags 0
  replayable := bit flags 2
  span := flags / 16 % 4
  dep := dep
  comp := comp
  depval := depval
  compval := compval
  scalars := []
  caps := []
  arg := Cap.null
  seed := 0
  replays := 0
  timelines := []
  launchBar := 0
  placed := 0
  retired := 0
  targets := []
  partials := []
  origins := []
  start := 0
  stops := []
  readyAt := 0
  fitAt := 0
  timeRec := 0
  cls := q / 4
  fatal := none
  lost := false
  errors := 0
  snaps := []
  snapObjs := []
  received := []
  evicted := []
  consumed := false
  meet := Meet.init
  signals := []
  given := []
  wrote := []

/-- A field of a host record: n bytes from offset o (R402). -/
def recFld (b : BitVec 512) (o n : Nat) : Nat := b.toNat / 256 ^ o % 256 ^ n

/-- The launch of a host record. -/
def hostLaunch (fn q : Nat) (b : BitVec 512) : Launch :=
  queuedLaunch fn q (.host b) (recFld b 0 2) (recFld b 2 2 + 1) (recFld b 4 1) (recFld b 5 1) (recFld b 6 1) (recFld b 7 1)
    (BitVec.ofNat 64 (recFld b 48 8)) (BitVec.ofNat 64 (recFld b 56 8))

/-- Append a record to a queue of its function under a fresh handle. -/
def appendLaunch (s : State) (l : Launch) : State :=
  { s with launches := s.launches.put s.nextId l, nextId := s.nextId + 1 }.setFn l.fn fun f =>
    { f with queues := f.queues.put l.queue ((f.queues.find l.queue).getD [] ++ [s.nextId]) }

/-- A queue has room (R405). -/
def queueFree (f : Fn) (q : Nat) : Bool := decide (((f.queues.find q).getD []).length < 256)

/-- What host cores have done before a record: it happens before the launch (DEDUCED from R330, log 7). -/
def hostsGiven (s : State) : View := s.hosts.vals.foldl (fun v g => View.join v (View.join g.seen g.acq)) []

/-- SPAWN_WINDOW_STORE (R405, R444): appended, discarded and counted, or held while its queue is full; behind a failed host link none arrives (R426). -/
def execSpawnWindowStore (fn off size bytes : Nat) (s : State) : Out :=
  if s.boot ≠ .ready || hostCut s then .next s else match s.fns.find fn with
  | none => .next s
  | some f =>
    if size = 64 ∧ off % 64 = 0 ∧ off / 64 < 16 then
      if queueFree f (off / 64) then .next (appendLaunch s { hostLaunch fn (off / 64) (BitVec.ofNat 512 bytes) with given := hostsGiven s }) else notNow
    else .next (s.setFn fn fun f => { f with discarded := f.discarded + 1 })

/-- The head of a queue, with the function as it sees it. -/
def headOf (s : State) (fn q : Nat) : Option (Nat × Launch × Fn) := match s.fns.find fn with
  | none => none
  | some f => match (f.queues.find q).getD [] with
    | [] => none
    | k :: _ => match s.launches.find k, s.fnFor k with
      | some l, some f => some (k, l, f)
      | _, _ => none

/-! ### LAUNCH_HEAD_CHECK (R406, R407, R409, R410) -/

/-- Gangs of a need that empty cores of one quad hold: each takes a core per team; one gang where the launch is deterministic (R417). -/
def quadHolds (det : Bool) (n : Need) (teams : Nat) : Nat :=
  let per (have_ need : Nat) : Nat := if need = 0 then 64 else have_ / need
  let k := min (min (per 2048 n.slots) (per 524288 n.regBytes)) (min (per 524288 n.glade) (if n.macros || n.tags then 1 else 64))
  let m := Config.coresPerQuad * k / teams
  if det then min 1 m else m

/-- Gangs that empty quads of a span hold: of one die for `.die`; those of this module for `.pod`. -/
def spanHolds (f : Fn) (span : Nat) (det : Bool) (n : Need) (teams : Nat) : Nat :=
  let die (d : Nat) : Nat := min 512 ((f.quads.filter fun q => dieOfQuad q == d).length * quadHolds det n teams)
  let ds := (List.range Config.dies).map die
  if span = 0 then ds.foldl max 0 else ds.sum

/-- A function's decode table has its reset contents (R95, R98). -/
def Fn.tableReset (f : Fn) : Bool := f.table.all fun p => p.2 == resetEntry p.1

/-- The arguments of a record: scalars, capabilities, c30, and the handles that name no entry. -/
def recordArgs (f : Fn) : SpawnRec → List W64 × List Cap × Cap × Bool
  | .host b =>
    let hs := (List.range 6).map fun i => recFld b (32 + 2 * i) 2
    let cap (h : Nat) : Cap := if h = 0 then Cap.null else (f.caps.find h).getD Cap.null
    let bad (h : Nat) : Bool := h != 0 && (f.caps.find h).isNone
    ((List.range 6).map fun i => BitVec.ofNat 64 (recFld b (8 + 4 * i) 4), hs.map cap, cap (recFld b 44 2), hs.any bad || bad (recFld b 44 2))
  | .device _ _ _ _ _ _ ss cs a _ _ => (ss, cs, a, false)

/-- The flags byte, the waves byte and the must-be-zero field of a record. -/
def recordFlags : SpawnRec → Nat × Nat × Nat
  | .host b => (recFld b 5 1, recFld b 4 1, recFld b 46 2)
  | .device _ _ waves flags _ _ _ _ _ _ _ => (flags, waves, 0)

/-- The launch with its checked record, or the status of the check it fails (R406, R407). A portable image is none that the function can run while its
decode table is remapped (R98; that the status is IMAGE is DEDUCED, log 31). A `.pod` cohort never fails for room, since the quads that the function
has on other modules stand nowhere here (log 24). -/
def checkRecord (f : Fn) (l : Launch) : Except Nat Launch :=
  let fl := recordFlags l.record
  let a := recordArgs f l.record
  match if l.image = 0 then none else (f.images.find l.image).filter fun i => !i.portable || f.tableReset with
  | none => .error 1
  | some i =>
    let l := { l with checked := true, shape := i, waves := if l.waves = 0 then i.waves else l.waves, cohort := l.cohort || i.cohort
                      scalars := a.1, caps := a.2.1, arg := a.2.2.1 }
    let seedBad := bit fl.1 3 && !(l.arg.valid && l.arg.has .r && decide (8 ≤ l.arg.length))
    let holds := spanHolds f l.span l.det l.need i.teams
    if fl.1 / 64 ≠ 0 || l.span == 3 || decide (64 < fl.2.1) || fl.2.2 ≠ 0 || seedBad || !l.need.fitsEmpty || holds = 0 then .error 2
    else if l.det && !i.promiseD then .error 3
    else if a.2.2.2 then .error 4
    else if l.cohort && l.span != 2 && decide (holds < l.gangs) then .error 5
    else .ok l

/-- LAUNCH_HEAD_CHECK (R407): the head's checks, once. -/
def execLaunchHeadCheck (fn queue : Nat) (s : State) : Out := match headOf s fn queue with
  | none => notNow
  | some (k, l, f) =>
    if l.status ≠ .queued ∨ l.checked then notNow
    else match checkRecord f l with
      | .error st => complete s k l st none
      | .ok l2 => .next (s.setLaunch k fun _ => if l2.depval = 0 then { l2 with status := .ready, readyAt := s.rt, fitAt := s.rt } else l2)

/-- DEPENDENCE_MET (R407, R328): the launch acquires what completions on the timeline have released; the timeline holds depval
or more; with a nonzero status the record never runs. -/
def execDependenceMet (fn queue : Nat) (s : State) : Out := match headOf s fn queue with
  | none => notNow
  | some (k, l, f) =>
    let a := timelineAt f l.dep
    if l.status ≠ .queued ∨ !l.checked then notNow
    else if readLE s.mem a 8 < l.depval.toNat then notNow
    else if readLE s.mem (a + 8) 4 ≠ 0 then complete s k l 9 none
    else .next (s.setLaunch k fun l => { l with
      status := .ready, readyAt := s.rt, fitAt := s.rt, given := View.join l.given (sget [] f.signals l.dep) })

/-- HEAD_AGING (R408): one class higher for each aging step since the head became ready. -/
def execHeadAging (fn queue : Nat) (s : State) : Out := match headOf s fn queue with
  | none => notNow
  | some (k, l, f) =>
    if l.status = .ready ∧ 0 < l.cls ∧ f.agingStep * (l.queue / 4 - l.cls + 1) ≤ s.rt - l.readyAt then
      .next (s.setLaunch k fun l => { l with cls := l.cls - 1 })
    else notNow

/-! ### Admission and placement (R408 to R411, R417, R420) -/

/-- The frames of an object's pages that are present lie on a die of this module. -/
def liesOn (s : State) (f : Fn) (die obj : Nat) : Bool := (framesOf s f obj).all fun a => homeDie a == some die

/-- Quads where a launch may be placed: none for a portable image under a remapped table (R98); its span, on its die once it has one; before that on
the die where the loader has placed its `.data` sections, since its first gang stands there (R434). Where that die could never hold it, the whole span
stands open: DESIGN CHOICE, R409 lets no launch wait for room that can never exist (log 31). -/
def launchQuads (s : State) (f : Fn) (l : Launch) : List Nat :=
  if l.shape.portable && !f.tableReset then []
  else match l.die with
    | some d => spanQuads f l.span d
    | none =>
      let near := f.quads.filter fun q => (l.shape.sections.filter (!·.const)).all fun d => liesOn s f (dieOfQuad q) d.obj
      if (if l.cohort && l.span == 0 then l.gangs else 1) ≤ spanHolds { f with quads := near } l.span l.det l.need l.shape.teams then near else f.quads

/-- Place k more gangs of a cohort, each at the first room; none: they do not all fit. -/
def placeCohort (f : Fn) (lk : Nat) (l : Launch) (qs : List Nat) : Nat → State → Option State
  | 0, s => some s
  | k + 1, s => match findRoom s f lk l l.needs qs with
    | none => none
    | some (q, cs) => placeCohort f lk l qs k (placeGang s l (gangKey lk (l.gangs - k - 1)) q cs)

/-- Of these quads, those of each die. -/
def byDie (qs : List Nat) : List (List Nat) := (List.range Config.dies).map fun d => qs.filter fun q => dieOfQuad q == d

/-- A cohort could be placed now with its first gang on one of these quads. -/
def cohortFits (s : State) (f : Fn) (lk : Nat) (l : Launch) (qs : List Nat) : Bool := match findRoom s f lk l l.needs qs with
  | some (q, cs) => (placeCohort f lk l (spanQuads f l.span (dieOfQuad q)) (l.gangs - 1) (placeGang s l (gangKey lk 0) q cs)).isSome
  | none => false

/-- The head could be placed now: its first gang, or its whole cohort. -/
def fitsNow (s : State) (f : Fn) (lk : Nat) (l : Launch) : Bool :=
  if l.cohort then (byDie (launchQuads s f l)).any (cohortFits s f lk l) else (findRoom s f lk l l.needs (launchQuads s f l)).isSome

/-- The ready heads that could be placed, with their queues' numbers (16 × function + queue). -/
def fittingHeads (s : State) : List (Nat × Launch) := s.fns.flatMap fun p => p.2.queues.filterMap fun q => match q.2 with
  | [] => none
  | k :: _ => ((s.launches.find k).filter fun l => l.status == .ready && fitsNow s p.2 k l).map fun l => (16 * p.1 + q.1, l)

/-- The queue admitted from next: of the best class that has a head to admit, the first after the one admitted from last, in turn (R408). -/
def nextQueue (s : State) : Option Nat :=
  let hs := fittingHeads s
  let c := hs.foldl (fun c h => min c h.2.cls) 3
  let qs := sortNat ((hs.filter fun h => h.2.cls == c).map (·.1))
  (qs.find? fun q => decide (sget 0 s.admitTurn c ≤ q)).orElse fun _ => qs.head?

/-- The objects a launch reaches with right W through c1 to c6 and c30 (R423). -/
def writableObjs (l : Launch) : List Nat := (((l.arg :: l.caps).filter fun c => c.valid && c.has .w).map (·.object)).eraseDups

/-- The ordered targets (R266): objects of the registers the image lists, as they stand at the first instruction. -/
def orderedTargets (l : Launch) : List Nat :=
  let w := startWave l
  ((((List.range 30).map (· + 1)).filter fun k => bit l.shape.omask k).map fun k => (w.getC k).object).filter (· != 0) |>.eraseDups

/-- Set the snapshot marks of an object (R423). -/
def snapObj (f : Fn) (s : State) (o : Nat) : State := markPages f o 12 true (pageCount s f o) (markObj s f 52 true o)

/-- The eight bytes at a capability's base, each by its own page (R403); none: some page is not there. -/
def seedBytes (s : State) (f : Fn) (k : Cap) : Option W64 :=
  ((List.range 8).foldr (fun i (r : Option Nat) => match translate s.mem f k.object (k.base + i) false with
    | .ok p => r.map fun v => (readByte s.mem p.phys).toNat + 256 * v
    | _ => none) (some 0)).map (BitVec.ofNat 64)

/-- Admission (R420): the seed is read, ordered bits and snapshot marks are set. none: the seed's bytes cannot be read yet. -/
def admitLaunch (s : State) (lk : Nat) (l : Launch) (f : Fn) : Option State :=
  let ts := orderedTargets l
  (if bit (recordFlags l.record).1 3 then seedBytes s f l.arg else some 0).map fun sd =>
    let s1 := ts.foldl (fun s o => markObj s f 51 true o) s
    let snaps := if l.replayable then writableObjs l else []
    (snaps.foldl (snapObj f) s1).setLaunch lk fun l => { l with status := .admitting, seed := sd, targets := ts, snapObjs := snaps, snaps := [] }

/-- LAUNCH_ADMIT (R408, R420): the head goes to the die schedulers; it keeps its place in the queue until it is placed (R410). -/
def execLaunchAdmit (fn queue : Nat) (s : State) : Out := match headOf s fn queue with
  | none => notNow
  | some (k, l, f) =>
    if l.status ≠ .ready ∨ nextQueue s ≠ some (16 * fn + queue) then notNow
    else match admitLaunch s k l f with
      | some s2 => .next { s2 with admitTurn := sset 0 s2.admitTurn l.cls (16 * fn + queue + 1) }
      | none => notNow

/-- The pages of the ordered targets, with their nonzero bytes, as they stand (R272). -/
def originsOf (s : State) (f : Fn) (l : Launch) : Tab (List Host.Cell) :=
  l.targets.foldl (fun t o => (List.range (pageCount s f o)).foldl (fun t p => match frameOf s f o p with
    | some a => t.put (o * 2 ^ 24 + p) ((s.mem.filter fun c => decide (a ≤ c.1) && decide (c.1 < a + 65536)).map fun c => (c.1 - a, c.2))
    | none => t) t) []

/-- A word of an ordered target as it stood at the launch's first dispatch (R272); of a page that was not there then, as it stands. -/
def originWord (s : State) (l : Launch) (o a phys : Nat) : Nat := match l.origins.find (o * 2 ^ 24 + a / 65536) with
  | some cs => readLE cs (a % 65536) 4
  | none => readLE s.mem phys 4

/-- Put back the outside events a replayed gang had received (R383). -/
def restoreInbox (l : Launch) (gk : Nat) (g : Gang) : Gang :=
  { g with inbox := (l.received.filter fun p => p.1 == gk && p.2.kind != 1).foldl (fun b p => insertEvent p.2 b) g.inbox }

/-- A gang that a time slice's end was for stands now: the gang it displaced may come back in its turn (R417). -/
def clearHeirs (s : State) (p : Nat → Bool) : State :=
  { s with gangs := s.gangs.mapVals fun _ g => if g.heir.any p then { g with heir := none } else g }

/-- Gangs have been placed: the launch runs, and its record leaves its queue (R405, R410, R420). A gang that `zdb` has not set going halts before its
first instruction (R41). -/
def afterPlace (s : State) (lk : Nat) (l : Launch) (quad n : Nat) : State :=
  let fresh (k : Nat) : Bool := launchOfGang k == lk && decide (l.placed ≤ k % 131072) && decide (k % 131072 < l.placed + n)
  let s1 := clearHeirs { s with gangs := s.gangs.mapVals fun k g => if fresh k then { restoreInbox l k g with slice := s.rt } else g } fresh
  let s2 := s1.setLaunch lk fun l => { l with
    status := .running, placed := l.placed + n, die := some (l.die.getD (dieOfQuad quad)), start := if l.placed = 0 ∧ l.replays = 0 then s.rt else l.start
    origins := if l.placed = 0 ∧ l.replays = 0 then ((s.fnFor lk).map fun f => originsOf s f l).getD [] else l.origins }
  let s3 := s2.setFn l.fn fun f => { f with queues := f.queues.mapVals fun _ q => q.filter (· != lk) }
  let s4 := if s.debugged.contains lk && !s.started.contains lk then stopAll s3 .debugger ((s3.gangs.filter fun p => fresh p.1).map (·.1)) else s3
  (if l.placed = 0 then s4.noteTime lk else s4).wake

/-- GANG_PLACE (R409, R410, R29): the next gang, in ascending index; a cohort at once, its first gang where the event says. -/
def execGangPlace (launch gang quad : Nat) (cores : List Nat) (s : State) : Out := match s.launches.find launch with
  | none => notNow
  | some l => match s.fnFor launch with
    | none => notNow
    | some f =>
      if (l.status ≠ .admitting ∧ l.status ≠ .running) ∨ l.fatal.isSome ∨ l.placed ≠ gang ∨ l.gangs ≤ gang ∨ !(launchQuads s f l).contains quad
        ∨ !roomOn s f launch l quad cores l.needs then notNow
      else
        let s1 := placeGang s l (gangKey launch gang) quad cores
        if l.cohort then match placeCohort f launch l (spanQuads f l.span (dieOfQuad quad)) (l.gangs - 1) s1 with
          | some s2 => .next (afterPlace s2 launch l quad l.gangs)
          | none => notNow
        else .next (afterPlace s1 launch l quad 1)

/-- The state as it will stand when every gang that is stopping has left its quad. -/
def quietly (s : State) : State :=
  { s with gangs := s.gangs.mapVals fun _ g => if g.status = .quiescing ∧ !g.kept then { g with status := .suspended } else g }

/-- The gang to stop for a head of class c: highest class, then most recently dispatched (R411); one whose quad a HOLD keeps is stopped too (R432). -/
def victim (s : State) (f : Fn) (c : Nat) : Option Nat :=
  let cls (k : Nat) : Nat := ((s.launches.find (launchOfGang k)).map (·.cls)).getD 0
  let vs := s.gangs.filter fun p => (p.2.status == .resident || (p.2.kept && p.2.holdUntil.isSome)) && p.2.reduceOf.isNone && f.quads.contains p.2.quad && decide (c < cls p.1)
  (vs.foldl (fun (b : Option (Nat × Gang)) p => match b with
    | none => some p
    | some q => if cls q.1 < cls p.1 ∨ (cls q.1 = cls p.1 ∧ q.2.order < p.2.order) then some p else some q) none).map (·.1)

/-- The gang that the head of a queue stops now: a head that could not be placed for the delay, and cannot be when the gangs that are stopping have
gone (R411). -/
def headVictim (s : State) (fn queue : Nat) : Option Nat := match headOf s fn queue with
  | none => none
  | some (k, l, f) =>
    if (l.status ≠ .ready ∧ l.status ≠ .admitting) ∨ s.rt - max l.readyAt l.fitAt < f.preemptDelay ∨ fitsNow s f k l ∨ fitsNow (quietly s) f k l then none
    else victim s f l.cls

/-- PRIORITY_PREEMPTION (R411): a head that has been unplaceable for the delay stops one victim more. -/
def execPriorityPreemption (fn queue : Nat) (s : State) : Out := match headVictim s fn queue with
  | some v => .next (stopAll s .preemption (stopSet s v))
  | none => notNow

/-! ### Stops (R412 to R414, R417, R432) -/

/-- TIME_SLICE_EXPIRY (R417): a gang of a deterministic launch has had its slice, and gang2 of the launch waits for a quad: it goes before it. -/
def execTimeSliceExpiry (gang gang2 : Nat) (s : State) : Out := match s.gangs.find gang, s.launches.find (launchOfGang gang) with
  | some g, some l =>
    let waits := launchOfGang gang2 == launchOfGang gang && match s.gangs.find gang2 with
      | some g2 => g2.status == .suspended && g2.holdUntil.isNone && !g2.kept
      | none => decide (l.placed ≤ gang2 % 131072) && decide (gang2 % 131072 < l.gangs)
    if l.det && !l.cohort && g.status == .resident && waits && decide (g.slice + 100000 ≤ s.rt) then
      .next ((stopGang s gang .slice).setGang gang fun g => { g with heir := some gang2 })
    else notNow
  | _, _ => notNow

/-- The gang is one that some head pre-empts now (R411): no other is. -/
def preempted (s : State) (gk : Nat) : Bool := s.fns.any fun p => p.2.queues.keys.any fun q => headVictim s p.1 q == some gk

/-- The places of a gang that stops are kept for it: not where it is stopped to leave them. -/
def Gang.keeps (g : Gang) : Bool := g.kept || g.status == .resident || (g.status == .quiescing && [.step, .debugger, .hold].contains g.stopWhy)

/-- Keep the places of gangs: for HOLD (R432), until a time, for a call; or for a single-step (R412). -/
def reserve (s : State) (ks : List Nat) (hold : Option (Nat × Nat)) : State :=
  { s with gangs := s.gangs.mapVals fun k g => if ks.contains k then { g with kept := g.keeps, holdUntil := hold.orElse fun _ => g.holdUntil } else g }

/-- GANG_STOP (R412, R432): reasons 0 pre-emption, 1 migration, 3 single-step, 4 debugger halt, 5 HOLD (the gang's first unserved call). A debugger
halts and HOLD holds a gang that some other stop has stopped too: its restart is the later of the two ends. -/
def execGangStop (gang reason : Nat) (s : State) : Out :=
  let ks := stopSet s gang
  let each (p : Gang → Bool) : Bool := ks.contains gang && ks.all fun k => (s.gangs.find k).any p
  match reason with
  | 0 => if preempted s gang then .next (stopAll s .preemption ks) else notNow
  | 1 => if each fun g => g.status == .resident && g.reduceOf.isNone then .next (stopAll s .migration ks) else notNow
  | 3 => if each fun g => g.status == .resident && g.reduceOf.isNone then .next (stopAll (reserve s ks none) .step ks) else notNow
  | 4 => if (each fun g => g.status != .moving && g.reduceOf.isNone) && !each (·.halted) then .next (stopAll s .debugger ks) else notNow
  | 5 => match holdCall s gang with
    | none => notNow
    | some (id, c) =>
      if each fun g => g.status != .moving && g.holdUntil.isNone then
        .next (stopAll (reserve s ks (some (s.now + 5 * (c.args.getD 0 0).toNat, id))) .hold ks)
      else notNow
  | _ => notNow

/-- An access that a stop still waits for (R135, R323): every store, until it is acknowledged or its refusal is answered, and every load or atomic that
is not parked. -/
def accBusy (s : State) (gk : Nat) : Bool := s.accesses.any fun p => gangOfTeam p.2.team == gk && (p.2.kind.inWindow || p.2.st == .issued)

/-- The active run has come to where a stop leaves it (R371): its step has ended, waits on a peer or for a timeline's value, or is parked; one of a mismatched
collective takes no step more. -/
def runQuiet (s : State) (x : RCtx) : Bool := x.r.resting || x.r.waitsOn.isSome || x.r.parked.isSome || x.f.mismatched.contains x.r.coll
  || (x.r.phase == .step && stepOp (x.r.steps.getD x.r.idx 8) == 6 && !x.waitReached s)

/-- A gang has quiesced (R135, R252, R253, R291, R338, R371): no started copy is unfinished but a parked one, no step drains, no macro runs a command or
holds one that must still run, and the scoreboards name only commands that have not started. -/
def quiesced (s : State) (gk : Nat) (g : Gang) : Bool :=
  !accBusy s gk && !g.drains s gk
    && (g.channels.vals.all fun ch => ch.op.all fun o => o.parked.isSome)
    && ((teamsOfGang s gk).all fun tk => (s.teams.find tk).all fun t =>
        (t.board.vals.all (entryBusy s)) && t.macros.vals.all fun m => m.queue.all fun q => !q.started && !q.last)
    && ((rctx s gk).all (runQuiet s))

/-- A gang's teams as they are saved: with an empty scoreboard (R253). -/
def State.saveBoards (s : State) (p : Nat → Bool) : State :=
  { s with teams := s.teams.mapVals fun k t => if p (gangOfTeam k) then { t with board := [], boardLeft := t.board } else t }

/-- The entries of the commands that had not started stand in the scoreboard again. -/
def Team.boardBack (t : Team) : Team := { t with board := t.boardLeft, boardLeft := [] }

/-- GANG_SAVED (R412, R413): the state travels with the gang, or with its whole cohort (R410); its quad is free, unless it is kept. Of a cohort those
may be saved already that stood halted while this one was stepped (R41). -/
def execGangSaved (gang : Nat) (s : State) : Out :=
  let ks := stopSet s gang
  let stops (k : Nat) : Bool := ks.contains k && (s.gangs.find k).any fun g => g.status == .quiescing
  if stops gang && ks.all fun k => (s.gangs.find k).any fun g => g.status == .suspended || (g.status == .quiescing && quiesced s k g) then
    .next ({ s with gangs := s.gangs.mapVals fun k g => if ks.contains k then { g with status := .suspended } else g }.saveBoards stops)
  else notNow

/-- Move a team's groups to free slots of a core, in slot order; none: too few. The list says which group became which. None is newly formed (R103). -/
def moveGroups (tk core : Nat) : List (Nat × Group) → State → List (Nat × Nat) → Option (State × List (Nat × Nat))
  | [], s, m => some (s, m)
  | (k, g) :: t, s, m => match freeSlot s core with
    | some slot => moveGroups tk core t { s with groups := s.groups.put (groupKey tk slot) { g with fresh := none } } (m ++ [(k, groupKey tk slot)])
    | none => none

/-- The new name of a group. -/
def renameGroup (m : List (Nat × Nat)) (k : Nat) : Nat := ((m.find? fun p => p.1 == k).map (·.2)).getD k

/-- Put a saved team back on a core (R135, R413). -/
def restoreTeam (s : State) (tk core : Nat) : Option State :=
  let gs := s.groups.filter fun p => teamOfGroup p.1 == tk
  let s1 := { s with groups := s.groups.filter fun p => teamOfGroup p.1 != tk }.setTeam tk fun t => { t.boardBack with core := core }
  if 64 < (binsOn s1 core).length then none
  else (moveGroups tk core gs s1 []).map fun r =>
    { r.1 with
      traps := r.1.traps.mapVals fun _ x => { x with group := x.group.map (renameGroup r.2) }
      calls := r.1.calls.mapVals fun _ c => { c with group := renameGroup r.2 c.group }
      cur := r.1.cur.map (renameGroup r.2) }

/-- Put a gang's teams back, from team t on. -/
def restoreTeams (gk : Nat) : Nat → List Nat → State → Option State
  | _, [], s => some s
  | t, c :: cs, s => (restoreTeam s (teamKey gk t) c).bind (restoreTeams gk (t + 1) cs)

/-- An operation that was parked restarts from its first element (R291), unless only the control word of its record is left to write: DEDUCED, so that the
stop does not show in its data (log 31). -/
def Channel.restart (ch : Channel) : Channel :=
  let again (o : CopyOp) : CopyOp :=
    if o.parked.isNone then o
    else if o.loaded && o.writes.all (·.made) then { o with parked := none }
    else { o with parked := none, loaded := false, writes := [] }
  { ch with op := ch.op.map again }

/-- A gang as its issue restarts on a quad: its channels are bound afresh (R284), its run goes on (R371), the faults met meanwhile are counted. -/
def Gang.restarted (s : State) (quad : Nat) (g : Gang) : Gang :=
  let h : Gang := { g with
    status := .resident, quad := quad, holdUntil := none, kept := false, halted := false, slice := s.rt, owed := 0
    channels := g.channels.mapVals fun _ ch => ch.restart
    relay := { g.relay with active := g.relay.active.map fun r => { r with resting := false } } }
  bindChannels s (dieOfQuad quad) (h.count 9 g.owed)

/-- A stopped gang is placed again: its clock restarts, its partners receive RESUME, the host's counts rise, a HOLD is answered. -/
def restart (s : State) (gk quad : Nat) (cores : List Nat) : Option State := match s.gangs.find gk with
  | none => none
  | some g =>
    let lk := launchOfGang gk
    let s1 := (clearHeirs (s.setGang gk (Gang.restarted s quad)) (· == gk)).markHeads gk false
    (restoreTeams gk 0 cores s1).map fun s2 =>
      let s3 := match g.holdUntil with | some (_, id) => answer s2 id 0 | none => s2
      (if g.reduceOf.isSome then s3 else ((notify s3 gk false).setLaunch lk (·.addStop (gk % 65536) (g.stopTicks s))).noteTime lk).wake

/-- The state without the places kept for some gangs. -/
def unreserved (s : State) (ks : List Nat) : State :=
  { s with gangs := s.gangs.mapVals fun k g => if ks.contains k then { g with kept := false } else g }

/-- A debugger keeps the gang halted: it has halted it, and has not let it go (R41). -/
def debugHeld (s : State) (lk : Nat) (g : Gang) : Bool := s.debugged.contains lk && g.halted

/-- The cores on which a gang's teams stand, or last stood. -/
def ownCores (s : State) (gk : Nat) : List Nat := (teamsOfGang s gk).map fun tk => ((s.teams.find tk).map (·.core)).getD 0

/-- A suspended gang may go onto a quad: its own places, where they are kept for it (R432), else where its span has room; not before the end of a HOLD,
not while a debugger keeps it, nor before the gang its slice's end was for (R417); its active run needs one of the engine's 64 places (R360, log 31). -/
def mayResume (s : State) (f : Fn) (lk : Nat) (l : Launch) (ks : List Nat) (gk : Nat) (g : Gang) (quad : Nat) (cores : List Nat) : Bool :=
  let s0 := unreserved s ks
  g.status == .suspended
    && (if g.kept then quad == g.quad && cores == ownCores s gk
      else (launchQuads s f l).contains quad && roomOn s0 f lk l quad cores (savedNeeds s l gk))
    && (match g.holdUntil with | some (t, _) => decide (t ≤ s.now) | none => true)
    && !debugHeld s lk g && g.heir.isNone && (g.relay.active.isNone || decide (runsOnDie s0 (dieOfQuad quad) < 64))

/-- Restart more gangs of a cohort, each where its seat says. -/
def restartSeats (f : Fn) (lk : Nat) (l : Launch) (ks : List Nat) : List Seat → State → Option State
  | [], s => some s
  | x :: t, s => match s.gangs.find x.gang with
    | none => none
    | some g => if mayResume s f lk l ks x.gang g x.quad x.cores then (restart s x.gang x.quad x.cores).bind (restartSeats f lk l ks t) else none

/-- Where a suspended gang may be placed again: its kept places, or the first room on some quads. -/
def seatOf (s : State) (f : Fn) (lk : Nat) (l : Launch) (qs ks : List Nat) (gk : Nat) (g : Gang) : Option Seat :=
  if g.kept then some ⟨gk, g.quad, ownCores s gk⟩
  else (findRoom (unreserved s ks) f lk l (savedNeeds s l gk) qs).map fun r => ⟨gk, r.1, r.2⟩

/-- Seats for suspended gangs of a launch, one after another. -/
def seatsFor (f : Fn) (lk : Nat) (l : Launch) (qs ks : List Nat) : List Nat → State → Option (List Seat)
  | [], _ => some []
  | k :: t, s => match s.gangs.find k with
    | none => none
    | some g => (seatOf s f lk l qs ks k g).bind fun x =>
      if mayResume s f lk l ks k g x.quad x.cores then
        ((restart s k x.quad x.cores).bind (seatsFor f lk l qs ks t)).map (x :: ·)
      else none

/-- GANG_RESUME (R412, R410): a suspended gang is placed again; a cohort as a whole, its other gangs where the seating says, in one die for a `.die` span. -/
def execGangResume (gang quad : Nat) (x : Seating) (s : State) : Out := match s.gangs.find gang, s.launches.find (launchOfGang gang) with
  | some g, some l => match s.fnFor (launchOfGang gang) with
    | none => notNow
    | some f =>
      let lk := launchOfGang gang
      let ks := stopSet s gang
      let near := x.rest.all fun y => (spanQuads f l.span (dieOfQuad quad)).contains y.quad
      if l.fatal.isSome || x.rest.map (·.gang) != ks.filter (· != gang) || !near then notNow
      else match restartSeats f lk l ks (⟨gang, quad, x.cores⟩ :: x.rest) s with
        | some s2 => .next s2
        | none => notNow
  | _, _ => notNow

/-- A gang of a launch that has left for another module before it was placed here (R414). -/
def awayGang (s : State) (die : Nat) : Gang := { startGang (die * Config.quadsPerDie) 0 s.nextId with status := .moving, stopAt := s.now }

/-- The next gang of a `.pod` launch, or a whole cohort, that no quad here can place leaves for another module undispatched (R414), by a port that has not
failed (R8). -/
def packUndispatched (s : State) (lk die : Nat) (l : Launch) (f : Fn) : Out :=
  let n := if l.cohort then l.gangs else 1
  if (l.status ≠ .admitting ∧ l.status ≠ .running) ∨ l.fatal.isSome ∨ l.gangs ≤ l.placed ∨ l.span ≠ 2 ∨ die < Config.dies ∨ fitsNow s f lk l
      ∨ wayCut s linkDie (die / Config.dies) then notNow
  else
    let s1 := { s with gangs := (List.range n).foldl (fun t i => t.put (gangKey lk (l.placed + i)) (awayGang s die)) s.gangs }.setLaunch lk fun l =>
      { l with status := .running, placed := l.placed + n }
    .next (s1.setFn l.fn fun f => { f with queues := f.queues.mapVals fun _ q => q.filter (· != lk) })

/-- GANG_PACK (R414): a suspended gang, or a suspended cohort whole, that its die cannot place leaves for a die of its span that can; for a `.pod` span
also for another module (die 4 and up), which this machine does not hold (log 24). An undispatched gang leaves for another module so too; within the module
it has no state to send: GANG_PLACE puts it on any die of the span. -/
def execGangPack (gang die : Nat) (s : State) : Out := match s.launches.find (launchOfGang gang) with
  | none => notNow
  | some l => match s.fnFor (launchOfGang gang), s.gangs.find gang with
    | some f, none => if gang % 131072 = l.placed then packUndispatched s (launchOfGang gang) die l f else notNow
    | some f, some g =>
      let lk := launchOfGang gang
      let ks := stopSet s gang
      let free := ks.all fun k => (s.gangs.find k).any fun g => g.status == .suspended && g.holdUntil.isNone && !g.kept && !debugHeld s lk g
      let on (d : Nat) : List Nat := f.quads.filter fun q => dieOfQuad q == d
      let holds (d : Nat) : Bool := (seatsFor f lk l (on d) ks ks s).isSome
      if l.span = 0 ∨ !free ∨ dieOfQuad g.quad = die ∨ holds (dieOfQuad g.quad) then notNow
      else if Config.dies ≤ die then
        if l.span = 2 ∧ ks.all fun k => (s.gangs.find k).all fun g => !wayCut s (dieOfQuad g.quad) (die / Config.dies) then
          .next { s with gangs := s.gangs.mapVals fun k g => if ks.contains k then { g with status := .moving, quad := die * Config.quadsPerDie } else g }
        else notNow
      else if holds die then
        .next { s with gangs := s.gangs.mapVals fun k g => if ks.contains k then { g with status := .moving, quad := (on die).headD g.quad } else g }
      else notNow
    | none, _ => notNow

/-- GANG_MIGRATE_ACCEPT (R414): a die of this module takes a moving gang, or a cohort whole. -/
def execGangMigrateAccept (gang : Nat) (s : State) : Out :=
  let ks := stopSet s gang
  if ks.contains gang && ks.all fun k => (s.gangs.find k).any fun g => g.status == .moving && decide (g.quad < Config.quads) then
    .next { s with gangs := s.gangs.mapVals fun k g => if ks.contains k then { g with status := .suspended } else g }
  else notNow

/-! ### GANG_RETIRE (R125, R412, R270) -/

/-- Every team has ended, every store is acknowledged, every engine operation has finished, and no record of its threads is unanswered. -/
def retirable (s : State) (gk : Nat) (g : Gang) : Bool :=
  let tks := teamsOfGang s gk
  g.status == .resident && (tks.all fun tk => (s.teams.find tk).all fun t => t.ended && t.macros.vals.all fun m => m.queue.isEmpty)
    && !(s.accesses.any fun p => gangOfTeam p.2.team == gk)
    && (g.channels.vals.all fun ch => ch.queue.isEmpty && ch.op.isNone)
    && g.relay.queue.isEmpty && g.relay.active.isNone
    && !(s.traps.any fun p => !p.2.done && p.2.owner == gk)

/-- The partials of a gang's teams. -/
def partialsOf (s : State) (gk : Nat) : List (Nat × Nat × Partial) :=
  (teamsOfGang s gk).flatMap fun tk => match s.teams.find tk with
    | some t => t.partials.map fun p => (gk % 65536, tk % 4, p)
    | none => []

/-- The lock bits that a gang's exited threads held at their ends (R275). -/
def orphansOf (s : State) (gk : Nat) : Nat := ((teamsOfGang s gk).map fun tk => ((s.teams.find tk).map (·.orphaned)).getD 0).sum

/-- GANG_RETIRE (R125, R412): what is left of the teams' flushes (R270), then everything is released; the service context is told of orphaned lock
bits (R275), and posts to the gang are over (R385, R401). -/
def execGangRetire (gang : Nat) (s : State) : Out := match s.gangs.find gang with
  | none => notNow
  | some g =>
    let lk := launchOfGang gang
    if !retirable s gang g || ((s.launches.find lk).any fun l => l.fatal.isSome) then notNow
    else
      let s1 := flushAll s (fun _ => true) (teamsOfGang s gang)
      if (s1.launches.find lk).any fun l => l.fatal.isSome then .next s1
      else
        let ps := partialsOf s1 gang
        let v := gangWrote s1 gang g
        let n := orphansOf s1 gang
        let s2 := reduceRetired s1 gang
        let s3 := endPosts (dropGangs s2 fun k => k == gang) fun x => x.gang == gang
        let s4 := if n = 0 then s3 else { s3 with reports := (5, n) :: s3.reports }
        .next ((if g.reduceOf.isSome then s4 else s4.setLaunch lk fun l =>
          { l with retired := l.retired + 1, partials := l.partials ++ ps, wrote := View.join l.wrote v }).wake)

/-! ### LAUNCH_COMPLETE (R272, R392, R420, R424) -/

/-- Put a partial into ascending gang and team order. -/
def insertPart (p : Nat × Nat × Partial) : List (Nat × Nat × Partial) → List (Nat × Nat × Partial)
  | [] => [p]
  | q :: t => if p.1 * 4 + p.2.1 ≤ q.1 * 4 + q.2.1 then p :: q :: t else q :: insertPart p t

/-- The folded value of a word (R272). -/
def foldWord (x : W32) (ps : List Partial) : W32 :=
  let w := ps.foldl (fun (w : Wide) p => let r := (w.add p.sum.v).1; ⟨r.v, r.s || p.sum.s⟩) ⟨val32 x, false⟩
  BitVec.ofNat 32 (encodeF .f32 (roundFinal w.v .f32 ⟨.rne, false, false⟩ w.s 0).1)

/-- Where a word of an ordered target lies, for the fold; also when another launch, of which the object was a target too, has completed since and its
completion has cleared the descriptor's ordered bit (R266, R272). -/
def foldPlace (s : State) (f : Fn) (o a : Nat) : Option PageInfo := match translate s.mem f o a true, translate s.mem f o a false with
  | .ok p, _ => some p
  | _, .ok p => some p
  | _, _ => none

/-- Fold words in turn, each a write of the memory side; v: the writes so far. none: a word's page is not there. -/
def foldWords (f : Fn) (l : Launch) (ps : List (Nat × Nat × Partial)) : List (Nat × Nat) → State → View → Option (State × View)
  | [], s, v => some (s, v)
  | (o, a) :: t, s, v => match foldPlace s f o a with
    | some p => foldWords f l ps t (s.agentWrite linkPlace p.phys 4 (foldWord (BitVec.ofNat 32 (originWord s l o a p.phys))
        ((ps.filter fun q => q.2.2.obj == o && q.2.2.off == a).map (·.2.2))).toNat []) (View.join v (View.ofWrite (p.kind == 2) (s.writeNo + 1) p.phys 4))
    | none => none

/-- The record that ends a launch: the fatal one, or that of an uncorrectable error (R424). -/
def endRecord (s : State) (lk : Nat) (l : Launch) : Option TrapRec :=
  l.fatal.orElse fun _ => (s.traps.vals.find? fun r => r.launch == lk && !r.done && r.cause == .uncorrectable)

/-- The runs whose reduce kernel a fatal record is of end with status 3 (R368): that of its group, or where it names none every one of the launch. -/
def endReduceRuns (s : State) (lk : Nat) (r : TrapRec) : State := if r.gang ≠ 0xFFFFFFFF then s else
  if (s.gangs.find r.owner).isSome then reduceFatal s r.owner
  else (s.gangs.filter fun p => launchOfGang p.1 == lk && p.2.reduceOf.isSome).foldl (fun s p => reduceFatal s p.1) s

/-- A launch ends before its gangs have retired: they are discarded, marks and ordered state are undone, and it completes with a status (R392). -/
def endEarly (s : State) (lk : Nat) (l : Launch) (f : Fn) (status : Nat) (r : Option TrapRec) : Out :=
  complete (undoMarks (endGangs s lk) lk l f) lk { l.endStops s lk with wrote := launchWrote s lk l } status r

/-- LAUNCH_COMPLETE (R420): every gang has retired: the ordered fold, then DONE; or the launch ends by a fatal trap or an uncorrectable error, also by
one that can no longer be replayed since the launch has lost its replayability (R406, R423). -/
def execLaunchComplete (launch : Nat) (s : State) : Out := match s.launches.find launch with
  | none => notNow
  | some l => match s.fnFor launch with
    | none => notNow
    | some f =>
      if l.status ≠ .running ∧ l.status ≠ .admitting then notNow
      else match endRecord s launch l with
        | some r => endEarly (endReduceRuns s launch r) launch l f (if r.cause = .uncorrectable then 8 else 6) (some r)
        | none =>
          if l.consumed then
            if 3 ≤ l.errors ∨ !l.replayable then endEarly s launch l f 8 none else notNow
          else if l.retired < l.gangs then notNow
          else
            let s1 := restoreAll s launch l f
            let f := (s1.fnFor launch).getD f
            let ps := l.partials.foldr insertPart []
            match foldWords f l ps ((ps.map fun p => (p.2.2.obj, p.2.2.off)).eraseDups) s1 l.wrote with
            | some r => complete (undoMarks r.1 launch l f) launch { l with wrote := r.2 } 0 none
            | none => notNow

/-! ### Snapshots and replay (R423) -/

/-- Copy the entries of n consecutive keys of a table to another place. -/
def copyKeys {α : Type} (t : Tab α) (src dst n : Nat) : Tab α :=
  ((t.filter fun p => decide (src ≤ p.1) && decide (p.1 < src + n)).foldl (fun u p => u.put (dst + (p.1 - src)) p.2)
    (t.filter fun p => !(decide (dst ≤ p.1) && decide (p.1 < dst + n))))

/-- Copy a 64 KiB frame: its bytes, validity bits and colours. -/
def copyFrame (s : State) (src dst : Nat) : State :=
  { s with
    mem := copyKeys s.mem src dst 65536
    valid := copyKeys s.valid (src / 16) (dst / 16) 4096
    colours := copyKeys s.colours (src / 32) (dst / 32) 2048
    past := s.past.filter fun p => !(decide (dst ≤ p.1) && decide (p.1 < dst + 65536))
    versions := bumpSectors s.versions (dst / 32) 2048 }

/-- The write at which a relay run stands: its place, and its bytes; a receiving step's once its chunk is there (R365). -/
def runWrite (r : Run) : Option (Cap × Nat × Nat) :=
  let w := r.steps.getD r.idx 8
  let n := stepLen w * elemSize r.signature
  let dst : Cap × Nat × Nat := (r.buf (stepDbuf w), exprVal r w (stepDch w) false * n, n)
  if r.phase != .step then none
  else if stepOp w = 5 then some dst
  else if !(r.accepted.any fun c => c.sender == exprVal r w (stepPeer w) false) then none
  else if stepOp w = 2 then some dst
  else if stepOp w = 3 ∨ stepOp w = 4 then some (r.buf 3, 0, n)
  else none

/-- The first page of a write that must be copied first. -/
def snapPage (s : State) (f : Fn) (k : Cap) (off n : Nat) : Option (Nat × Nat) :=
  let a := k.base + off
  ((List.range ((a + n + 65535) / 65536 - a / 65536)).map fun i => max a ((a / 65536 + i) * 65536)).findSome? fun o =>
    match translate s.mem f k.object o false with
    | .ok p => if p.snapcopy then some (k.object, o) else none
    | _ => none

/-- The object and offset of a store, or of an engine's write, that is held for a snapshot copy (R225). -/
def heldAt (s : State) (id : Nat) : Option (Nat × Nat × Nat × Fn) := match accOf s id with
  | some (a, f) => if a.st = .issued then
      match checkAccess s f a with
      | .snap => some (launchOfGang (gangOfTeam a.team), a.obj, a.off, f)
      | _ => none
    else none
  | none => s.gangs.findSome? fun p => (s.fnFor (launchOfGang p.1)).bind fun f =>
    let lk := launchOfGang p.1
    (p.2.channels.vals.findSome? fun ch => (ch.op.filter (·.id == id)).bind fun o =>
      let own := o.record.bind fun h => ch.queue.head?.map fun q => (lk, q.scap.object, q.scap.base + h + 8, f)
      if o.fails.isSome then own else ((o.writes.find? fun w => !w.made && !w.glade).map fun w => (lk, w.cap.object, w.off, f)).orElse fun _ => own).orElse fun _ =>
    (p.2.relay.active.filter (·.id == id)).bind fun r => (runWrite r).bind fun w => (snapPage s f w.1 w.2.1 w.2.2).map fun x => (lk, x.1, x.2, f)

/-- SNAPSHOT_PAGE_COPY (R423): the page of a held store is copied to a frame of the snapshot area and snapcopy is cleared. -/
def execSnapshotPageCopy (acc frame : Nat) (s : State) : Out := match heldAt s acc with
  | none => notNow
  | some (lk, obj, off, f) => match entryPhys s f obj (off / 65536), frameOf s f obj (off / 65536) with
    | some e, some src =>
      if !bit (readLE s.mem e 8) 12 || frame % 65536 ≠ 0 || !physExists (frame + 65535) || frame == src then notNow
      else
        let fn := s.fnOf lk
        let s1 := setMemBit (copyFrame s src frame) e 12 false
        .next ({ s1 with launches := s1.launches.mapVals fun _ l =>
          if l.fn == fn && l.snapObjs.contains obj && l.status != LSt.done then { l with snaps := l.snaps ++ [(src, frame)] } else l }).wake
    | _, _ => notNow

/-- Where an engine of a gang has met data that could not be corrected. -/
def Gang.badSpots (g : Gang) : List (Nat × Nat) :=
  (g.channels.vals.filterMap (·.op.bind (·.fails)) ++ (g.relay.active.toList ++ g.relay.queue).filterMap (·.fails)).filterMap fun e =>
    if e.1 = .uncorrectable then some e.2 else none

/-- The frames whose data a launch could not have corrected (R423 step 2). -/
def badFrames (s : State) (f : Fn) (lk : Nat) : List Nat :=
  let accs := s.accesses.vals.filterMap fun a =>
    if launchOfGang (gangOfTeam a.team) = lk ∧ a.st = .resolving .uncorrectable then some (a.obj, a.off) else none
  let engs := (s.gangs.filter fun p => launchOfGang p.1 == lk).flatMap fun p => p.2.badSpots
  (accs ++ engs).filterMap fun e => match translate s.mem f e.1 e.2 false with | .ok p => some (p.phys / 65536) | _ => none

/-- LAUNCH_REPLAY (R423): gangs discarded, snapshot pages restored, the failed frame retired, ordered state, timelines and inboxes as at the
first dispatch, and the launch is admitted again; host events still on their way stay so (R380). -/
def execLaunchReplay (launch : Nat) (s : State) : Out := match s.launches.find launch with
  | none => notNow
  | some l => match s.fnFor launch with
    | none => notNow
    | some f =>
      if !l.consumed ∨ !l.replayable ∨ l.fatal.isSome ∨ 3 ≤ l.errors ∨ (l.status ≠ .running ∧ l.status ≠ .admitting) then notNow
      else
        let bad := badFrames s f launch
        let s0 := { dropLaunch s launch with posts := s.posts.filter fun x => !(launchOfGang x.gang == launch && x.call.isSome) }
        let s1 := l.snaps.foldl (fun s p => copyFrame s p.2 p.1) s0
        let s2 := { s1 with ecc := s1.ecc.filter fun p => !bad.contains (p.1 / 2048) }
        let l2 := { l.endStops s launch with
          errors := l.errors + 1, replays := l.replays + 1, consumed := false, placed := 0, retired := 0, partials := [], timelines := [], launchBar := 0
          received := l.received.filter fun p => p.2.kind != 1, meet := Meet.init, signals := [], wrote := [] }
        match admitLaunch (s2.setLaunch launch fun _ => l2) launch l2 f with
        | some s3 => .next s3.wake
        | none => notNow

/-! ### Errors, links, power (R415, R425, R426) -/

/-- SCRUB_SECTOR (R425): the sector's version when it was read; a write since then wins. What is written back has been corrected (R449). -/
def execScrubSector (sector version : Nat) (s : State) : Out :=
  if sget .ok s.ecc sector = .correctable ∧ sget 0 s.versions sector = version then
    .next ({ s with ecc := sset .ok s.ecc sector .ok }.countError (2 * stackOf sector))
  else .next s

/-- LINK_FAILURE (R426). -/
def execLinkFailure (link : Nat) (s : State) : Out := .next { s with failed := if s.failed.contains link then s.failed else s.failed ++ [link] }.wake

/-- Legal dividers of quads, each named once (R415). -/
def dividersOk (ds : List (Nat × Nat)) : Bool := noRepeats (ds.map (·.1)) && ds.all fun p => decide (p.1 < Config.quads) && [1, 2, 4, 8].contains p.2

/-- Set dividers; every quad of a die in the over-temperature action stays at 8 (R442). -/
def setDividers (s : State) (ds : List (Nat × Nat)) : State :=
  { s with dividers := ds.foldl (fun t p => sset 1 t p.1 (if sget .cool s.thermal (dieOfQuad p.1) = .hot then 8 else p.2)) s.dividers }

/-- The highest class number of the gangs that stand on a quad; none: no gang stands there. -/
def quadClass (s : State) (quad : Nat) : Option Nat := (s.gangs.filter fun p => p.2.quad == quad && (p.2.status == .resident || p.2.status == .quiescing)).foldl
  (fun c p => some (max (c.getD 0) (((s.launches.find (launchOfGang p.1)).map (·.cls)).getD 0))) none

/-- The quads with gangs, and their classes, on dies that the power manager may set. -/
def powerQuads (s : State) : List (Nat × Nat) := ((s.gangs.vals.map (·.quad)).eraseDups.filter fun q => sget .cool s.thermal (dieOfQuad q) == .cool).filterMap fun q =>
  (quadClass s q).map fun c => (q, c)

/-- After a sample over the limit: every divider named rises, some quad slows if any with gangs still can, and no quad slows while one of a higher class
number runs at full rate (R415). -/
def slows (s : State) (ds : List (Nat × Nat)) : Bool :=
  let t := setDividers s ds
  let qs := powerQuads s
  (ds.all fun p => decide (s.divider p.1 < p.2) && qs.any fun q => q.1 == p.1)
    && (!ds.isEmpty || qs.all fun q => s.divider q.1 == 8)
    && ds.all fun p => qs.all fun q => decide (q.2 ≤ ((qs.find? (·.1 == p.1)).map (·.2)).getD 0) || decide (1 < t.divider q.1)

/-- The number in State.sensors of a die's junction temperature. -/
def dieSensor (die : Nat) : Nat := 16 + die

/-- No die is as hot as a row of R442 acts on: until then the dividers of that row are kept. -/
def cooled (s : State) : Bool := (List.range Config.dies).all fun d => decide (sget 0 s.sensors (dieSensor d) < 100) && sget .cool s.thermal d == .cool

/-- With headroom: every divider named falls, and none while a quad of a higher class number stays slowed (R415), nor while a die is hot (R442). -/
def restores (s : State) (ds : List (Nat × Nat)) : Bool :=
  let t := setDividers s ds
  let qs := powerQuads s
  (ds.isEmpty || cooled s) && (ds.all fun p => decide (p.2 < s.divider p.1))
    && ds.all fun p => qs.all fun q => decide (q.2 ≤ ((qs.find? (·.1 == p.1)).map (·.2)).getD 3) || t.divider q.1 == 1

/-- The projected sum (R441): each consumer's budget at the rate, in percent of its full rate, that it is projected to run at. -/
def projectedDraw (rates : List Nat) : Nat := ((Config.powerBudget.zip rates).map fun p => p.1 * p.2 / 100).sum

/-- The span of 10,000 real ticks that the clock is in. -/
def State.span (s : State) : Nat := s.now / 5 / 10000

/-- The average that a sample records: the power manager keeps it within the limit where it still slows some quad; with none left to slow, the draw is as
projected, and no higher than the ceiling (R440). -/
def sampledDraw (w : Nat) (slowed : Bool) : Nat := min w (if slowed then Config.powerLimit else Config.powerCeiling)

/-- POWER_SAMPLE (R415, R440, R441): once in each 10,000 real ticks, the rates that the consumers are projected to run at, and the dividers that the power manager
then sets: it throttles wherever the projected sum passes the limit. -/
def execPowerSample (rates : List Nat) (dividers : List (Nat × Nat)) (s : State) : Out :=
  let w := projectedDraw rates
  if decide (s.sampled ≤ s.span) && dividersOk dividers && (if Config.powerLimit < w then slows s dividers else restores s dividers) then
    .next { setDividers s dividers with sensors := sset 0 s.sensors 0 (sampledDraw w !dividers.isEmpty), sampled := s.span + 1 }
  else notNow

/-! ### Functions (R421, R422) -/

/-- A function as the driver creates it (R421). -/
def Fn.init : Fn where
  dirRoot := 0
  stage2 := none
  quads := []
  slices := []
  ageLimit := 256
  preemptDelay := 20000
  agingStep := 1000000
  spawnWin := 0
  eventWin := 0
  statusWin := 0
  timelineBase := 0
  images := []
  caps := []
  queues := []
  table := []
  measure := 0
  discarded := 0
  dropped := 0
  hostDiscarded := 0
  closedFlows := []
  shut := false
  rankCache := []
  mismatched := []
  signals := []
  pages := []

/-- The launches of a function that are not Done. -/
def openLaunches (s : State) (fn : Nat) : List (Nat × Launch) := s.launches.filter fun p => p.2.fn == fn && p.2.status != .done

/-- Complete launches with VF_RESET in turn. -/
def resetLaunches (f : Fn) : List (Nat × Launch) → State → Out
  | [], s => .next s
  | (k, l) :: t, s => match complete (undoMarks s k l f) k l 7 none with
    | .next s2 => resetLaunches f t { s2 with reports := (2, k) :: s2.reports }
    | o => o

/-- The pending service calls of a function complete with status 0x17 (R422 step 3): reports of kind 23. Their registers go with their gangs. -/
def endCalls (s : State) (fn : Nat) : State :=
  { s with reports := (s.calls.filter fun p => s.fnOf (launchOfGang (gangOfTeam (teamOfGroup p.2.group))) == fn).foldl (fun r p => (0x17, p.1) :: r) s.reports }

/-- FUNCTION_RESET (R422): gangs and queued commands are discarded, pending calls complete with 0x17, its flows are closed and their closure is sent
(report 6), every launch completes with VF_RESET, and the driver is told which. That closed flows stay closed is DESIGN CHOICE: the spec opens none again
(log 23). -/
def execFunctionReset (fn : Nat) (s : State) : Out := match s.fns.find fn with
  | none => notNow
  | some f =>
    if fn = 0 then notNow
    else
      let ls := openLaunches s fn
      let s0 := { s with launches := s.launches.mapVals fun k l => if l.fn = fn then { l with wrote := launchWrote s k l } else l }
      let ls := ls.map fun p => (p.1, { p.2.endStops s p.1 with wrote := launchWrote s p.1 p.2 })
      let s1 := endPosts (dropGangs s0 fun gk => s.fnOf (launchOfGang gk) == fn) fun x => s.fnOf (launchOfGang x.gang) == fn
      resetLaunches f ls ({ s1 with reports := (6, fn) :: (endCalls s fn).reports }.setFn fn fun f => { f with rankCache := [], mismatched := [], shut := true })

/-- FLOW_CLOSED (R422): a peer module's closure message for a function's flow: its runs with a rank there end, and accesses meet LINK_POISON. It comes over
the module's port, and reaches the engines of the dies that the link die reaches (R8). -/
def execFlowClosed (peer fn : Nat) (s : State) : Out := if wayCut s linkDie peer then notNow else
  match closeFlow s peer fn ((s.gangs.filter fun p => !wayCut s (dieOfQuad p.2.quad) peer).map (·.1)) with
  | some s2 => .next ((s2.setFn fn fun f => { f with closedFlows := if f.closedFlows.contains peer then f.closedFlows else f.closedFlows ++ [peer] }).wake)
  | none => notNow

/-- The quads or slices a bit mask names. -/
def maskList (n v : Nat) : List Nat := (List.range n).filter fun k => bit v k

/-- Digit i of a number written in digits of 64 bits. -/
def digit (v i : Nat) : Nat := v / 2 ^ (64 * i) % 2 ^ 64

/-- A native image that firmware loads (R98), from digits of 64 bits: code object, code bytes, teams, waves, registers, shadow, ordered mask, flags (bit 0
promise D, 1 cohort, 2 matrix), the number of sections and four digits for each, the number of regions and six digits for each. -/
def imageOf (v : Nat) : NativeImage :=
  let n (i : Nat) : Nat := digit v i
  let r := 10 + 4 * n 8
  { codeObj := n 0, codeBytes := n 1, teams := n 2, waves := n 3, regs := n 4, ordered := n 5, omask := n 6
    promiseD := bit (n 7) 0, cohort := bit (n 7) 1, matrix := bit (n 7) 2, portable := false
    sections := (List.range (n 8 % 64)).map fun i => ⟨n (9 + 4 * i), n (10 + 4 * i) == 1, n (11 + 4 * i), n (12 + 4 * i)⟩
    regions := (List.range (n (r - 1) % 9)).map fun i =>
      ⟨n (r + 6 * i), n (r + 6 * i + 1), n (r + 6 * i + 2), n (r + 6 * i + 3) == 1, n (r + 6 * i + 4), n (r + 6 * i + 5) == 1⟩ }

/-- The image has a shape that a launch can have (R14, R36, R90, R254). -/
def NativeImage.ok (i : NativeImage) : Bool :=
  decide (1 ≤ i.teams) && decide (i.teams ≤ 4) && decide (1 ≤ i.waves) && decide (i.waves ≤ 64) && [32, 64, 96, 128].contains i.regs
    && (i.sections.all fun d => decide (7 ≤ d.reg) && decide (d.reg ≤ 29)) && noRepeats (i.sections.map (·.reg))
    && (i.regions.all fun d => decide (d.idx < 8) && decide (1 ≤ d.units) && decide (d.units ≤ 128) && (d.planes == 1 || d.planes == 2)
      && decide (d.rule ≤ 5) && ((d.planes == 2) != (d.rule == 0)) && (!d.tagged || lineOk d.units))
    && noRepeats (i.regions.map (·.idx)) && decide ((i.regions.filter (·.tagged)).length ≤ 1) && decide ((i.regions.map fun d => d.units * d.planes).sum ≤ 128)

/-- A setting of a function: 0 age limit, 1 pre-emption delay, 2 aging step, 3 quads, 4 HBM slices, 5 stage-2 root (2^64: none), 6 directory
root, 7 to 10 the spawn, event, status and timeline windows; by the runtime, 11 an entry of the capability table: handle, 128 bits from bit 16, validity
bit 144 (R404); by firmware, 13 a native image under the handle in its lowest digit (R98). none: a value the setting does not take. -/
def applySetting (f : Fn) (setting v : Nat) : Option Fn := match setting with
  | 0 => if [64, 128, 256, 512, 1024].contains v then some { f with ageLimit := v } else none
  | 1 => if 1000 ≤ v ∧ v ≤ 10000000 then some { f with preemptDelay := v } else none
  | 2 => if 10000 ≤ v ∧ v ≤ 100000000 then some { f with agingStep := v } else none
  | 3 => some { f with quads := maskList Config.quads v }
  | 4 => some { f with slices := maskList 256 v }
  | 5 => some { f with stage2 := if v < 2 ^ 64 then some (v / 65536 * 65536) else none }
  | 6 => some { f with dirRoot := v }
  | 7 => some { f with spawnWin := v }
  | 8 => some { f with eventWin := v }
  | 9 => some { f with statusWin := v }
  | 10 => some { f with timelineBase := v }
  | 11 =>
    let c : Cap := ⟨BitVec.ofNat 128 (v / 65536), bit v 144⟩
    if v % 65536 = 0 ∨ !c.wellMade then none else some { f with caps := f.caps.put (v % 65536) c }
  | 13 =>
    let i := imageOf (v / 2 ^ 64)
    if digit v 0 = 0 ∨ 65536 ≤ digit v 0 ∨ (f.images.find (digit v 0)).isSome ∨ !i.ok then none else some { f with images := f.images.put (digit v 0) i }
  | _ => none

/-- What `zdb` does to a launch (R39, R41, R400): 0 detaches, 1 attaches, 2 `run` or `continue`, which lets every halted gang go. -/
def debug (s : State) (lk op : Nat) : State :=
  let letGo (k : Nat) (g : Gang) : Gang :=
    if launchOfGang k = lk then { g with halted := false, kept := g.kept && g.holdUntil.isSome } else g
  match op with
  | 0 => { s with debugged := s.debugged.filter (· != lk), started := s.started.filter (· != lk), gangs := s.gangs.mapVals letGo }
  | 1 => { s with debugged := if s.debugged.contains lk then s.debugged else s.debugged ++ [lk] }
  | _ => { s with started := if s.started.contains lk then s.started else s.started ++ [lk], gangs := s.gangs.mapVals letGo }

/-- Extend a measurement register (R447). -/
def extend (m d : BitVec 512) : BitVec 512 :=
  Config.sha512 ((bytesOf m.toNat 64 ++ bytesOf d.toNat 64).map (BitVec.ofNat 8))

/-- The partition settings of a function as bytes (R421). -/
def Fn.settings (f : Fn) : List Nat :=
  (f.quads.length :: f.quads) ++ bytesOf (f.slices.map fun k => 2 ^ k).sum 32
    ++ ([f.ageLimit, f.preemptDelay, f.agingStep, (f.stage2.map (· + 1)).getD 0, f.spawnWin, f.eventWin, f.statusWin, f.timelineBase].flatMap (bytesOf · 9))

/-- The partition settings of every function as bytes (the encoding is the model's, log 5). -/
def partition (fns : Tab Fn) : List Nat := fns.flatMap fun p => p.1 :: p.2.settings

/-- M1 after the functions have been set so: extended with the digest of the partition settings where they have changed (R447). -/
def noteSettings (s : State) (fns : Tab Fn) : BitVec 512 :=
  if partition fns = partition s.fns then s.m1 else extend s.m1 (Config.sha512 ((partition fns).map (BitVec.ofNat 8)))

/-- A gang of a function stands on a quad that this set does not give it, or another's on one that it does. -/
def quadsBusy (s : State) (fn : Nat) (qs : List Nat) : Bool := s.gangs.any fun p =>
  p.2.occupies && ((s.fnOf (launchOfGang p.1) == fn) != qs.contains p.2.quad)

/-- SETTING_WRITE (R421, R404, R98, R39, R447): by the physical function's driver; the first write creates a function. No gang stands on a quad that changes
hands. The directory root (R209), the capability table, firmware's images and the debugger (setting 12: launch × 4 + what it does) are reached by it
too; they are no partition settings, and no change of them extends a measurement register (log 5). Before Ready the write is discarded (R444). -/
def execSettingWrite (fn setting value : Nat) (s : State) : Out :=
  if s.boot ≠ .ready then .next s
  else if 64 < fn then notNow
  else if setting = 12 then (if (s.launches.find (value / 4)).any (·.fn == fn) then .next (debug s (value / 4) (value % 4)).wake else notNow)
  else match applySetting ((s.fns.find fn).getD Fn.init) setting value with
    | none => notNow
    | some f =>
      if (setting = 3 && quadsBusy s fn f.quads) || (setting = 13 && !freshObjs s ((s.fns.find fn).getD Fn.init) (imageOf (value / 2 ^ 64))) then notNow
      else
        let fns := if setting = 3 then s.fns.mapVals fun k g => if k = fn then g else { g with quads := g.quads.filter fun q => !f.quads.contains q } else s.fns
        let s1 := { s with fns := fns.put fn f, m1 := noteSettings s (fns.put fn f) }
        .next (if setting = 13 then mapImage s1 f (imageOf (value / 2 ^ 64)) else s1)

/-! ### Accesses from outside (R329, R330) -/

/-- A write from outside every launch at a physical address: launches that hold its page as a snapshot object lose their replayability (R423). -/
def noteOutside (s : State) (a : Nat) : State :=
  { s with launches := s.launches.mapVals fun k l => match s.fnFor k with
      | some f => if l.replayable && l.snapObjs.any fun o => (framesOf s f o).contains (a / 65536 * 65536) then { l with replayable := false } else l
      | none => l }

/-- What an outside access does: 0 load, 1 store, 16 + k the atomic k (R263 to R265), with two operands. -/
def outsideNew (op size data m : Nat) : Option Nat := match op with
  | 0 => none
  | 1 => some (data % 256 ^ size)
  | n => (atomicNew (n - 16) (data % 256 ^ size) (data / 256 ^ size % 256 ^ size) m .rne).1

/-- The operand of an outside access is one of those kinds, of a legal size: any power of two to 32 bytes, or a word or doubleword for an atomic. -/
def outsideOk (op size a : Nat) : Bool :=
  (if op ≤ 1 then [1, 2, 4, 8, 16, 32].contains size
   else decide (16 ≤ op) && decide (op ≤ 27) && (if op = 17 then size == 8 else size == 4)) && a % size == 0

/-- An agent outside the module, by its place. -/
def State.outside (s : State) (place : Place) : Agent := (s.hosts.find place.code).getD Agent.init
/-- Set it. -/
def State.setOutside (s : State) (place : Place) (g : Agent) : State := { s with hosts := s.hosts.put place.code g }

/-- An outside agent reads n bytes of a page, as memory stood after write t (where it may), and acquires what these release. -/
def outsideRead (s : State) (place : Place) (i : PageInfo) (n : Nat) (t : Option Nat) (acq : Bool) : State :=
  let g := s.outside place
  let ps := s.seenAt ((t.filter (s.mayRead [g] place i n)).getD s.writeNo) i.phys n
  let met := inScope s place (releasesOf ps)
  let g1 := g.read (seenView i.phys ps) met
  s.setOutside place (if acq then g1.acquireIn true 5 met else g1)

/-- An outside agent writes n bytes: what its full fences before cover is released, and at a scope all that it has done, where the write is a release.
rmw: a read-modify-write, which passes on what the writes before it release (R318). -/
def outsideMake (s : State) (place : Place) (a n v : Nat) (rel : Option Nat) (rmw : Bool) : State :=
  let g := s.outside place
  let own : List Release := match rel with | some k => [⟨place, k, g.all⟩] | none => []
  let s1 := s.writeAs ⟨place, s.writeNo + 1, false, relOf place 5 false (g.rel false) ++ own, rmw⟩ a n v
  s1.setOutside place (g.made (View.ofWrite false (s.writeNo + 1) a n))

/-- A host core's full fence, as a FENCE.full of scope `.sys` (R321, R331). -/
def hostFence (s : State) (host : Nat) : State :=
  let p := Place.host host
  let g := ((s.outside p).fence 3 5).acquire true (s.fencesSeen p 5)
  (s.setOutside p g).fullFence p 5 g.seen

/-- Bytes of a number as a reply carries it. -/
def numBytes (v n : Nat) : List Byte := (bytesOf v n).map (BitVec.ofNat 8)

/-- The 64-bit word of a first module's feature list at a byte offset; none: the spec gives it no contents (R450). -/
def featureWord (off : Nat) : Option Nat := match off with
  | 0x00 => some 0x0120080401010001
  | 0x08 => some 0x0000000000400428
  | 0x10 => some 0x0000000101010005
  | 0x20 => some 0x0000000002010042
  | 0x40 => some 0
  | _ => none

/-- Where a reader goes from an entry with this header: 16 × length bytes on; none: the end. -/
def featureNext (off header : Nat) : Option Nat := if header % 65536 = 0 then none else some (off + 16 * fld header 24 8)

/-- A byte of the feature list. Where the spec gives an entry's byte no value it is one that no read changes, the list being read-only. -/
def featureByte (off : Nat) : Byte := match featureWord (off / 8 * 8) with
  | some v => BitVec.ofNat 8 (v / 256 ^ (off % 8))
  | none => Config.windowByte off

/-- The feature list ends after its fifth header (R450). -/
def featureBytes : Nat := 0x48

/-- The management window answers a read of some bytes, in every state of boot (R444, R450): the feature list; past it a free value, since the spec gives
no contents. -/
def readWindow (s : State) (off size : Nat) : State :=
  let free := numBytes (Config.freeValue s.free).toNat size
  { s with
    replies := ((List.range size).map fun i => if off + i < featureBytes then featureByte (off + i) else free.getD i 0) :: s.replies
    free := s.free + 1 }

/-- HOST_MEMORY_ACCESS (R330, R266): by a host core over CXL, to a host-visible object, at its home; operation 2 is the core's full fence. One to an
ordered object is discarded and counted; one of object 0 reads the function's status window, its time records among it (R387); operation 3 reads
the management window of the physical function (R450).
Before Ready every other window reads zero and a store is discarded (R444). A store to a read-only page changes nothing (R89, R211); that it is discarded
and not counted is DESIGN CHOICE (log 31). Behind a failed link nothing is performed, and a store is dropped and counted (R8,
R426). -/
def execHostMemoryAccess (fn object off size : Nat) (op : HostOp) (data : Nat) (s : State) : Out :=
  if op.op = 3 ∧ fn = 0 then .next (if hostCut s then s else readWindow s off size) else
  if s.boot ≠ .ready then .next (if op.op = 0 && !hostCut s then { s with replies := numBytes 0 size :: s.replies } else s) else match s.fns.find fn with
  | none => notNow
  | some f =>
    if op.op = 2 then .next (hostFence s op.core).wake
    else if object = 0 then (if op.op = 0 then .next s else notNow)
    else if !outsideOk op.op size off then notNow
    else match translate s.mem f object off false with
      | .bad => .fault .noMemory
      | .fail .orderedTarget _ => .next (s.setFn fn fun f => { f with hostDiscarded := f.hostDiscarded + 1 })
      | .fail .. => notNow
      | .ok p =>
        if !p.hostvis || (op.op != 0 && p.snapcopy) then notNow
        else if op.op != 0 && p.ro then .next s
        else if hostCut s || linkDown s.failed linkDie p.phys then
          .next (if op.op = 1 then s.setFn fn fun f => { f with dropped := f.dropped + 1 } else s)
        else
          let i := { p with kind := if p.kind = 2 then 1 else p.kind }
          let s1 := if op.op = 1 then s else outsideRead s (.host op.core) i size (if op.op = 0 then op.old else none) (bit op.order 0)
          match outsideNew op.op size data (readLE s.mem p.phys size) with
          | none => .next s1
          | some v => .next (outsideWrite (outsideMake s1 (.host op.core) p.phys size v (if bit op.order 1 then some 5 else none) (op.op != 1)) fn none object).wake

/-- PEER_MODULE_ACCESS (R329): at its home die here, by physical address. src: the peer module + 256 × the function there, whose ordered flow is taken in
sequence-number order. ordered: bit 0, the ordered flow, that of `st` pages; bit 1, the access is a release of what the peer has done. Behind a failed port or link, and
through a flow that a reset of the function here has closed, nothing is performed: it is answered as a link failure (R422, R426). -/
def execPeerModuleAccess (src ordered seq : Nat) (op : PeerOp) (addr data : Nat) (s : State) : Out :=
  let m := src % 256
  let place := Place.peer m
  let kind := if bit ordered 0 then 0 else 1
  if s.boot ≠ .ready || !outsideOk op.op op.size addr || !decide (addr + op.size ≤ Config.hbmBytes) || decide (64 < src / 256) then notNow
  else if linkDown s.failed linkDie (2 ^ 64 + m * 2 ^ 56) then .next s
  else if bit ordered 0 && seq != sget 0 s.flows src then notNow
  else
    let s1 := if bit ordered 0 then { s with flows := sset 0 s.flows src (seq + 1) } else s
    if linkDown s.failed linkDie addr || (s.fns.find (src / 256)).any (·.shut) then .next s1
    else
      let s2 := if op.op = 1 then s1 else
        outsideRead s1 place ⟨addr, 0, 0, kind, false, false, false, true, 4, false, false, false, Config.hbmBytes⟩ op.size (if op.op = 0 then op.old else none) true
      match outsideNew op.op op.size data (readLE s.mem addr op.size) with
      | none => .next s2
      | some v => .next (noteOutside (outsideMake s2 place addr op.size v (if bit ordered 1 then some 4 else none) (op.op != 1)) addr).wake

/-! ### SPAWN (R427) -/

/-- The status SPAWN gives at once, with the image's handle: 1 image, 2 shape, 0 to append. -/
def spawnStatus (f : Fn) (k : Cap) (v : Nat) : Nat × Nat :=
  match if k.valid && k.has .x then f.images.find? fun p => p.2.codeCap.bits == k.bits else none with
  | none => (1, 0)
  | some (h, _) =>
    let flags := fld v 24 8
    if v / 2 ^ 52 ≠ 0 || bit v 23 || flags / 64 ≠ 0 || flags / 16 % 4 == 3 || decide (64 < fld v 16 7) then (2, h) else (0, h)

/-- The launch that SPAWN's record asks for (R427). -/
def spawnLaunch (fn image v : Nat) (w : Wave) (k b : Nat) : Launch :=
  let ss := (List.range 6).map fun i => w.getS (b + 3 + i)
  let cs := (List.range 6).map fun i => w.getC (k + 1 + i)
  let dv := w.getS (b + 1)
  let cv := w.getS (b + 2)
  queuedLaunch fn (fld v 48 4) (.device image (fld v 0 16 + 1) (fld v 16 7) (fld v 24 8) (fld v 32 8) (fld v 40 8) ss cs (w.getC (k + 7)) dv cv)
    image (fld v 0 16 + 1) (fld v 16 7) (fld v 24 8) (fld v 32 8) (fld v 40 8) dv cv

/-- One subset after another: the fence, the append while the queue has room, the status. -/
def spawnSubs (c : Ctx) (d k b : Nat) (fresh : Bool) : State → List Sub → Eff
  | s, [] => .done s
  | s, w :: t => match subQuiet c s w with
    | .go =>
      let v := (w.wv.getS b).toNat
      let st := spawnStatus c.fn (w.wv.getC k) v
      let put (s : State) : State := subActed c w (s.setWave w.wk (·.setS d (BitVec.ofNat 64 st.1)))
      if st.1 ≠ 0 then spawnSubs c d k b false (put s) t
      else if ((s.fns.find c.launch.fn).any fun f => queueFree f (fld v 48 4)) then
        spawnSubs c d k b false (put (appendLaunch s { spawnLaunch c.launch.fn st.2 v w.wv k b with given := View.join (issuerView w) (w.released s c) })) t
      else if fresh then .wait else .waitAs s
    | .wait => if fresh then .wait else .waitAs s
    | .park x => if fresh then .park x else .waitAs s

/-- SPAWN (R427). -/
def issSpawn (d k b : Nat) : Iss :=
  { uniform := true
    mem := true
    names := fun c => sNames (d :: (List.range 9).map (b + ·)) c ++ cNames ((List.range 8).map (k + ·)) c
    eff := fun c s => spawnSubs c d k b true s c.todo }
/-- Spawn, issued. -/
def execSpawn (d k b : Nat) (s : State) : Out := issue (issSpawn d k b) s

end Sys2Proof.Machine
end

