-- ==== Sys2Proof/Machine/Umem.lean ====
section
/-! DEFINITION. Uniform memory instructions at issue (06_uniform R144, R145, R160 to R163): one access for each subset, taken as one lane. -/
namespace Sys2Proof.Machine

/-- The threads of a subset. -/
def Sub.ts (w : Sub) : List Nat := w.lanes.map (·.t)

/-- A subset's access (R144). -/
def subWant (c b n : Nat) (disp : Int) (rs : List Right) (w : Sub) : List Nat × Nat × Want :=
  (w.ts, w.wk, ⟨w.wv.getC c, uniOffset (w.wv.getS b) n disp, n, rs⟩)

/-- The uniform destinations of a load: s0 is not written. -/
def sDests (d : Nat) (c : Ctx) : List RegName := if d = 0 then [] else sNames [d] c

/-- A uniform load of n bytes a subset. bad: a further check (CLD's LC). -/
def uniLoad (n : Nat) (conv : Conv) (dests : Ctx → List RegName) (bad : Sub → Option (Cause × Nat × Nat))
    (lits : Nat) (disp : Int) (d c b l : Nat) : Iss where
  uniform := true
  lits := lits
  la := some l
  load := true
  mem := true
  names := fun x => dests x ++ sNames [b] x ++ cNames [c] x
  dests := dests
  eff := fun x s =>
    match checkSubs x bad (x.subs.map (subWant c b n disp [.r])) x.subs with
    | .error e => .trap e
    | .ok qs => .done (sendLoads x s (x.issued []) (qs.map fun q => (q, ⟨q.threads, q.wave, q.off, n, [d], conv, 0, none, q.cap⟩)))
where
  /-- Each subset's check_cap, then its further check, in ascending order (R139). -/
  checkSubs (x : Ctx) (bad : Sub → Option (Cause × Nat × Nat)) : List (List Nat × Nat × Want) → List Sub → Except TrapArgs (List Req)
    | p :: ps, w :: ws => match checkWants x [p] with
      | .error e => .error e
      | .ok q => match bad w with
        | some e => .error { x.trapArgs e.1 (lowLane w.lanes) with object := e.2.1, offset := e.2.2 }
        | none => match checkSubs x bad ps ws with
          | .error e => .error e
          | .ok r => .ok (q ++ r)
    | _, _ => .ok []

/-- A uniform store of n bytes a subset. -/
def uniStore (n : Nat) (data : Sub → Nat × Option Bool) (bad : Sub → Option (Cause × Nat × Nat)) (namesD : Ctx → List RegName)
    (lits : Nat) (disp : Int) (c b l : Nat) : Iss where
  uniform := true
  lits := lits
  la := some l
  mem := true
  names := fun x => namesD x ++ sNames [b] x ++ cNames [c] x
  eff := fun x s =>
    match uniLoad.checkSubs x bad (x.subs.map (subWant c b n disp [.w])) x.subs with
    | .error e => .trap e
    | .ok qs =>
      if windowFits x s qs then
        .done (sendStores x s (x.issued []) ((qs.zip x.subs).map fun q => (q.1, let r := data q.2; .store r.1 r.2)))
      else .wait

/-- No further check. -/
def noCheck (_ : Sub) : Option (Cause × Nat × Nat) := none

/-- A right that the entry itself asks for (R160, R161). -/
def needs (c : Nat) (r : Right) (w : Sub) : Option (Cause × Nat × Nat) :=
  if (w.wv.getC c).has r then none else some (.capRights, 0, 0)

/-- SLD.b32 (R163). -/
def issSldB32 (d c b l : Nat) : Iss := uniLoad 4 (.uni 4) (sDests d) noCheck 0 0 d c b l
/-- SldB32, issued. -/
def execSldB32 (d c b l : Nat) (s : State) : Out := issue (issSldB32 d c b l) s
/-- SLD.b32 with a literal displacement (R163). -/
def issSldB32Twin (d c b l w : Nat) : Iss := uniLoad 4 (.uni 4) (sDests d) noCheck 1 (disp32 w) d c b l
/-- SldB32Twin, issued. -/
def execSldB32Twin (d c b l w : Nat) (s : State) : Out := issue (issSldB32Twin d c b l w) s
/-- SLD.b64 (R163). -/
def issSldB64 (d c b l : Nat) : Iss := uniLoad 8 (.uni 8) (sDests d) noCheck 0 0 d c b l
/-- SldB64, issued. -/
def execSldB64 (d c b l : Nat) (s : State) : Out := issue (issSldB64 d c b l) s
/-- SLD.b64 with a literal displacement (R163). -/
def issSldB64Twin (d c b l w : Nat) : Iss := uniLoad 8 (.uni 8) (sDests d) noCheck 1 (disp32 w) d c b l
/-- SldB64Twin, issued. -/
def execSldB64Twin (d c b l w : Nat) (s : State) : Out := issue (issSldB64Twin d c b l w) s

/-- The low n bytes of s_d. -/
def sData (n d : Nat) (w : Sub) : Nat × Option Bool := ((w.wv.getS d).toNat % 256 ^ n, none)

/-- SST.b32 (R163). -/
def issSstB32 (d c b l : Nat) : Iss := uniStore 4 (sData 4 d) noCheck (sNames [d]) 0 0 c b l
/-- SstB32, issued. -/
def execSstB32 (d c b l : Nat) (s : State) : Out := issue (issSstB32 d c b l) s
/-- SST.b32 with a literal displacement (R163). -/
def issSstB32Twin (d c b l w : Nat) : Iss := uniStore 4 (sData 4 d) noCheck (sNames [d]) 1 (disp32 w) c b l
/-- SstB32Twin, issued. -/
def execSstB32Twin (d c b l w : Nat) (s : State) : Out := issue (issSstB32Twin d c b l w) s
/-- SST.b64 (R163). -/
def issSstB64 (d c b l : Nat) : Iss := uniStore 8 (sData 8 d) noCheck (sNames [d]) 0 0 c b l
/-- SstB64, issued. -/
def execSstB64 (d c b l : Nat) (s : State) : Out := issue (issSstB64 d c b l) s
/-- SST.b64 with a literal displacement (R163). -/
def issSstB64Twin (d c b l w : Nat) : Iss := uniStore 8 (sData 8 d) noCheck (sNames [d]) 1 (disp32 w) c b l
/-- SstB64Twin, issued. -/
def execSstB64Twin (d c b l w : Nat) (s : State) : Out := issue (issSstB64Twin d c b l w) s

/-- CLD (R160): needs R, then LC. -/
def issCld (d c b l : Nat) : Iss := uniLoad 16 .cap (cNames [d]) (needs c .lc) 0 0 d c b l
/-- Cld, issued. -/
def execCld (d c b l : Nat) (s : State) : Out := issue (issCld d c b l) s

/-- CST (R161): needs W, then SC; stores the bits and the validity bit. -/
def issCst (d c b l : Nat) : Iss := uniStore 16 (fun w => let k := w.wv.getC d; (k.bits.toNat, some k.valid)) (needs c .sc) (cNames [d]) 0 0 c b l
/-- Cst, issued. -/
def execCst (d c b l : Nat) (s : State) : Out := issue (issCst d c b l) s

/-- The granules CTAG recolours in a subset (R162). -/
def ctagCount (d : Nat) (w : Sub) : Nat := fld (w.wv.getS d).toNat 8 24

/-- CTAG's own alignment check (R162). -/
def ctagBad (c b : Nat) (w : Sub) : Option (Cause × Nat × Nat) :=
  if ((w.wv.getC c).base + uniOffset (w.wv.getS b) 32 0) % 32 ≠ 0 then some (.alignment, 0, 0) else none

/-- CTAG (R162): a subset with no granules makes no check and no access. -/
def issCtag (d c b l : Nat) : Iss :=
  { uniform := true
    la := some l
    mem := true
    names := fun x => sNames [d, b] x ++ cNames [c] x
    eff := fun x s =>
      let ws := x.subs.filter fun w => decide (0 < ctagCount d w)
      match uniLoad.checkSubs x (ctagBad c b)
          (ws.map fun w => (w.ts, w.wk, ⟨w.wv.getC c, uniOffset (w.wv.getS b) 32 0, 32 * ctagCount d w, [.t]⟩)) ws with
      | .error e => .trap e
      | .ok qs =>
        if windowFits x s qs then
          .done (sendStores x s (x.issued []) ((qs.zip ws).map fun q => (q.1, .tag (ctagCount d q.2) ((q.2.wv.getS d).toNat % 16))))
        else .wait }
/-- Ctag, issued. -/
def execCtag (d c b l : Nat) (s : State) : Out := issue (issCtag d c b l) s

end Sys2Proof.Machine
end

