-- ==== Sys2Proof/Machine/Info.lean ====
section
/-! DEFINITION. What the finaliser and the fetch need of a word: its encoding checks and how its instruction issues. `infoOf` says it
through the decoder; the tables below compute the same without building an instruction, because compiled code cannot build a constructor
numbered past 244, and `infoOf_eq_fast` has the compiler use them. A repair of a decoder arm repairs the row of the same key here. -/
namespace Sys2Proof.Machine

/-- How an event issues: it does not. -/
def issEvent : Iss := { eff := fun _ s => .done s }

/-- How each instruction issues. -/
def issOf : Instr → Iss
  | .groupFormation _ => issEvent
  | .binAgeLimit _ _ => issEvent
  | .thinGroupYield _ => issEvent
  | .loadSectorReturn _ => issEvent
  | .atomicPerformed _ => issEvent
  | .storeAcknowledged _ => issEvent
  | .storeRefused _ => issEvent
  | .orderedValidate _ => issEvent
  | .memorySideFault _ => issEvent
  | .faultEntersLog _ => issEvent
  | .faultReplay _ => issEvent
  | .faultDeclaredFatal _ => issEvent
  | .cancel _ _ _ => issEvent
  | .memoryPortInvalidate _ _ => issEvent
  | .trapResume _ => issEvent
  | .trapDeclareFatal _ => issEvent
  | .scoreboardEntryRetire _ _ => issEvent
  | .gstepArrivalsComplete _ _ => issEvent
  | .gstepDrained _ _ => issEvent
  | .gcfgArrivalsComplete _ _ => issEvent
  | .gcfgDrained _ _ => issEvent
  | .barrierPhaseComplete _ _ => issEvent
  | .copyOperationStart _ _ _ => issEvent
  | .copyOperationFinish _ _ => issEvent
  | .copyOperationAbort _ _ => issEvent
  | .chainRecordWalk _ _ => issEvent
  | .cpymFollowIssue _ _ => issEvent
  | .macroCommandStart _ _ => issEvent
  | .macroCommandFinish _ _ => issEvent
  | .relayRunStart _ => issEvent
  | .relaySend _ => issEvent
  | .relayRecv _ => issEvent
  | .relayRrs _ => issEvent
  | .relayRrd _ => issEvent
  | .relayCopy _ => issEvent
  | .relayWait _ => issEvent
  | .relayLoop _ => issEvent
  | .relayEnd _ => issEvent
  | .relayChunkArrival _ _ _ _ _ _ _ _ _ => issEvent
  | .flitLanded _ => issEvent
  | .reduceKernelDispatch _ _ => issEvent
  | .relayAbortNotice _ _ _ => issEvent
  | .relayPatienceExpired _ => issEvent
  | .holdNotice _ => issEvent
  | .resumeNotice _ => issEvent
  | .timerExpiry _ _ => issEvent
  | .inboxEventArrival _ _ _ _ _ _ => issEvent
  | .hostEventStore _ _ => issEvent
  | .spawnWindowStore _ _ _ _ => issEvent
  | .launchHeadCheck _ _ => issEvent
  | .dependenceMet _ _ => issEvent
  | .launchAdmit _ _ => issEvent
  | .headAging _ _ => issEvent
  | .gangPlace _ _ _ _ => issEvent
  | .priorityPreemption _ _ => issEvent
  | .timeSliceExpiry _ _ => issEvent
  | .gangStop _ _ => issEvent
  | .gangSaved _ => issEvent
  | .gangResume _ _ _ => issEvent
  | .gangPack _ _ => issEvent
  | .gangMigrateAccept _ => issEvent
  | .gangRetire _ => issEvent
  | .launchComplete _ => issEvent
  | .launchReplay _ => issEvent
  | .snapshotPageCopy _ _ => issEvent
  | .scrubSector _ _ => issEvent
  | .linkFailure _ => issEvent
  | .powerSample _ _ => issEvent
  | .functionReset _ => issEvent
  | .flowClosed _ _ => issEvent
  | .settingWrite _ _ _ => issEvent
  | .hostMemoryAccess _ _ _ _ _ _ => issEvent
  | .zpfLoad _ _ _ _ _ _ => issEvent
  | .decodeTableLoad _ _ => issEvent
  | .coldReset => issEvent
  | .moduleReset => issEvent
  | .bootRomStart => issEvent
  | .trainingDone => issEvent
  | .thermalThrottle _ _ _ => issEvent
  | .overTemperature _ _ => issEvent
  | .overTemperatureClear _ _ => issEvent
  | .thermalTrip _ _ => issEvent
  | .pldmFirmwareUpdate _ => issEvent
  | .activateCommit => issEvent
  | .pldmPlatformMonitoring _ _ _ => issEvent
  | .getVersion => issEvent
  | .getCapabilities => issEvent
  | .negotiateAlgorithms _ => issEvent
  | .getDigests => issEvent
  | .getCertificate _ _ => issEvent
  | .getMeasurements _ _ => issEvent
  | .unassignedOpcode => issEvent
  | .serviceCallReply _ _ _ _ _ _ => issEvent
  | .peerModuleAccess _ _ _ _ _ _ => issEvent
  | .vadd d a b => issVadd d a b
  | .vsub d a b => issVsub d a b
  | .vmul d a b => issVmul d a b
  | .vmulhI32 d a b => issVmulhI32 d a b
  | .vmulhN32 d a b => issVmulhN32 d a b
  | .vmad d a b => issVmad d a b
  | .vaddsI32 d a b => issVaddsI32 d a b
  | .vsubsI32 d a b => issVsubsI32 d a b
  | .vaddsN32 d a b => issVaddsN32 d a b
  | .vsubsN32 d a b => issVsubsN32 d a b
  | .vand d a b => issVand d a b
  | .vor d a b => issVor d a b
  | .vxor d a b => issVxor d a b
  | .vandn d a b => issVandn d a b
  | .vshl d a b => issVshl d a b
  | .vshrN32 d a b => issVshrN32 d a b
  | .vshrI32 d a b => issVshrI32 d a b
  | .vminI32 d a b => issVminI32 d a b
  | .vminN32 d a b => issVminN32 d a b
  | .vmaxI32 d a b => issVmaxI32 d a b
  | .vmaxN32 d a b => issVmaxN32 d a b
  | .vabsI32 d a => issVabsI32 d a
  | .vpopc d a => issVpopc d a
  | .vclz d a => issVclz d a
  | .vbfx d a b => issVbfx d a b
  | .vbfi d a b => issVbfi d a b
  | .vdot4I8 d a b => issVdot4I8 d a b
  | .vdot4N8 d a b => issVdot4N8 d a b
  | .vmov d a => issVmov d a
  | .vmovs d a h => issVmovs d a h
  | .vid d s => issVid d s
  | .vaddi d a i => issVaddi d a i
  | .vaddiTwin d a w => issVaddiTwin d a w
  | .vshli d a i => issVshli d a i
  | .vshriN32 d a i => issVshriN32 d a i
  | .vshriI32 d a i => issVshriI32 d a i
  | .vandi d a i => issVandi d a i
  | .vandiTwin d a w => issVandiTwin d a w
  | .vli d i => issVli d i
  | .vliTwin d w => issVliTwin d w
  | .icmpI32 p c a b => issIcmpI32 p c a b
  | .icmpN32 p c a b => issIcmpN32 p c a b
  | .fcmpF32 p c a b => issFcmpF32 p c a b
  | .fcmpX p c a b => issFcmpX p c a b
  | .plog p o a b => issPlog p o a b
  | .vtop p a => issVtop p a
  | .vfromp d b => issVfromp d b
  | .vsel k d a b => issVsel k d a b
  | .fadd d a b => issFadd d a b
  | .fsub d a b => issFsub d a b
  | .fmul d a b => issFmul d a b
  | .fma d a b => issFma d a b
  | .fnma d a b => issFnma d a b
  | .fmin d a b => issFmin d a b
  | .fmax d a b => issFmax d a b
  | .fabs d a => issFabs d a
  | .fneg d a => issFneg d a
  | .fcopysign d a b => issFcopysign d a b
  | .fdot2Bf16 d a b => issFdot2Bf16 d a b
  | .fdot4E4m3 d a b => issFdot4E4m3 d a b
  | .fdot4E5m2 d a b => issFdot4E5m2 d a b
  | .fdot8E2m1 d a b => issFdot8E2m1 d a b
  | .frcpa d a => issFrcpa d a
  | .frsqa d a => issFrsqa d a
  | .fexp2a d a => issFexp2a d a
  | .flog2a d a => issFlog2a d a
  | .fsqrt d a => issFsqrt d a
  | .fdiv d a b => issFdiv d a b
  | .cvtF32I32 d a r => issCvtF32I32 d a r
  | .cvtF32N32 d a r => issCvtF32N32 d a r
  | .cvtI32F32 d a r => issCvtI32F32 d a r
  | .cvtN32F32 d a r => issCvtN32F32 d a r
  | .nrwBf16 d a => issNrwBf16 d a
  | .nrwF16 d a => issNrwF16 d a
  | .nrwE4m3 d a => issNrwE4m3 d a
  | .nrwE5m2 d a => issNrwE5m2 d a
  | .nrwE2m1 d a => issNrwE2m1 d a
  | .finBf16 d a => issFinBf16 d a
  | .finF16 d a => issFinF16 d a
  | .finE4m3 d a => issFinE4m3 d a
  | .finE5m2 d a => issFinE5m2 d a
  | .finE2m1 d a => issFinE2m1 d a
  | .pack2Bf16 d a b => issPack2Bf16 d a b
  | .pack2F16 d a b => issPack2F16 d a b
  | .pack4E4m3 d a => issPack4E4m3 d a
  | .pack4E5m2 d a => issPack4E5m2 d a
  | .widBf16 d a k => issWidBf16 d a k
  | .widF16 d a k => issWidF16 d a k
  | .widE4m3 d a k => issWidE4m3 d a k
  | .widE5m2 d a k => issWidE5m2 d a k
  | .vshfl d a b => issVshfl d a b
  | .vshflx d a b => issVshflx d a b
  | .vshfll d a b => issVshfll d a b
  | .vbcast d a n => issVbcast d a n
  | .vscanI32 d a => issVscanI32 d a
  | .vscanF32 d a => issVscanF32 d a
  | .vredI32 d a => issVredI32 d a
  | .vredF32 d a => issVredF32 d a
  | .vredmax d a => issVredmax d a
  | .vredmin d a => issVredmin d a
  | .vvote d a m => issVvote d a m
  | .vballot d a m => issVballot d a m
  | .vcount d a => issVcount d a
  | .ldN8 t x s l => issLdN8 t x s l
  | .ldN8Twin t x s l w => issLdN8Twin t x s l w
  | .ldI8 t x s l => issLdI8 t x s l
  | .ldI8Twin t x s l w => issLdI8Twin t x s l w
  | .ldN16 t x s l => issLdN16 t x s l
  | .ldN16Twin t x s l w => issLdN16Twin t x s l w
  | .ldI16 t x s l => issLdI16 t x s l
  | .ldI16Twin t x s l w => issLdI16Twin t x s l w
  | .ldB32 t x s l => issLdB32 t x s l
  | .ldB32Twin t x s l w => issLdB32Twin t x s l w
  | .ldB64 t x s l => issLdB64 t x s l
  | .ldB64Twin t x s l w => issLdB64Twin t x s l w
  | .ldB128 t x s l => issLdB128 t x s l
  | .ldB128Twin t x s l w => issLdB128Twin t x s l w
  | .stB8 t x s l => issStB8 t x s l
  | .stB8Twin t x s l w => issStB8Twin t x s l w
  | .stB16 t x s l => issStB16 t x s l
  | .stB16Twin t x s l w => issStB16Twin t x s l w
  | .stB32 t x s l => issStB32 t x s l
  | .stB32Twin t x s l w => issStB32Twin t x s l w
  | .stB64 t x s l => issStB64 t x s l
  | .stB64Twin t x s l w => issStB64Twin t x s l w
  | .stB128 t x s l => issStB128 t x s l
  | .stB128Twin t x s l w => issStB128Twin t x s l w
  | .ldBf16 t x s l => issLdBf16 t x s l
  | .ldBf16Twin t x s l w => issLdBf16Twin t x s l w
  | .ldF16 t x s l => issLdF16 t x s l
  | .ldF16Twin t x s l w => issLdF16Twin t x s l w
  | .ldE4m3 t x s l => issLdE4m3 t x s l
  | .ldE4m3Twin t x s l w => issLdE4m3Twin t x s l w
  | .ldE5m2 t x s l => issLdE5m2 t x s l
  | .ldE5m2Twin t x s l w => issLdE5m2Twin t x s l w
  | .ldZb4 t x s l => issLdZb4 t x s l
  | .ldZb4Twin t x s l w => issLdZb4Twin t x s l w
  | .ldZb8 t x s l => issLdZb8 t x s l
  | .ldZb8Twin t x s l w => issLdZb8Twin t x s l w
  | .stBf16 t x s l => issStBf16 t x s l
  | .stBf16Twin t x s l w => issStBf16Twin t x s l w
  | .stF16 t x s l => issStF16 t x s l
  | .stF16Twin t x s l w => issStF16Twin t x s l w
  | .stE4m3 t x s l => issStE4m3 t x s l
  | .stE4m3Twin t x s l w => issStE4m3Twin t x s l w
  | .stE5m2 t x s l => issStE5m2 t x s l
  | .stE5m2Twin t x s l w => issStE5m2Twin t x s l w
  | .stZb4 t x s l => issStZb4 t x s l
  | .stZb4Twin t x s l w => issStZb4Twin t x s l w
  | .stZb8 t x s l => issStZb8 t x s l
  | .stZb8Twin t x s l w => issStZb8Twin t x s l w
  | .vspill t x s l => issVspill t x s l
  | .vspillTwin t x s l w => issVspillTwin t x s l w
  | .vfill t x s l => issVfill t x s l
  | .vfillTwin t x s l w => issVfillTwin t x s l w
  | .ldgB32 t x s l => issLdgB32 t x s l
  | .ldgB64 t x s l => issLdgB64 t x s l
  | .ldgB128 t x s l => issLdgB128 t x s l
  | .stgB32 t x s l => issStgB32 t x s l
  | .stgB64 t x s l => issStgB64 t x s l
  | .stgB128 t x s l => issStgB128 t x s l
  | .ldgmB32 t x s l => issLdgmB32 t x s l
  | .stgmB32 t x s l => issStgmB32 t x s l
  | .tlook t x l => issTlook t x l
  | .tset t x l => issTset t x l
  | .tclr x l => issTclr x l
  | .aaddI32 r t x s l => issAaddI32 r t x s l
  | .aaddI64 r t x s l => issAaddI64 r t x s l
  | .aminI32 r t x s l => issAminI32 r t x s l
  | .amaxI32 r t x s l => issAmaxI32 r t x s l
  | .aminN32 r t x s l => issAminN32 r t x s l
  | .amaxN32 r t x s l => issAmaxN32 r t x s l
  | .aand r t x s l => issAand r t x s l
  | .aor r t x s l => issAor r t x s l
  | .axor r t x s l => issAxor r t x s l
  | .axchg r t x s l => issAxchg r t x s l
  | .acas r t x s l => issAcas r t x s l
  | .aaddF32U r t x s l => issAaddF32U r t x s l
  | .aaddF32O t x s l => issAaddF32O t x s l
  | .ldl t x s l => issLdl t x s l
  | .stul t x s l => issStul t x s l
  | .gaddI32 t x s l => issGaddI32 t x s l
  | .gaddF32 t x s l => issGaddF32 t x s l
  | .gmaxI32 t x s l => issGmaxI32 t x s l
  | .gxchg t x s l => issGxchg t x s l
  | .gcas t x s l => issGcas t x s l
  | .ckaccI32 d a => issCkaccI32 d a
  | .ckaccF32 d a => issCkaccF32 d a
  | .ckaccSig d a => issCkaccSig d a
  | .sadd d a b g => issSadd d a b g
  | .ssub d a b g => issSsub d a b g
  | .smul d a b g => issSmul d a b g
  | .smulh d a b g => issSmulh d a b g
  | .sand d a b g => issSand d a b g
  | .sor d a b g => issSor d a b g
  | .sxor d a b g => issSxor d a b g
  | .sshl d a b g => issSshl d a b g
  | .sshrN d a b g => issSshrN d a b g
  | .sshrI d a b g => issSshrI d a b g
  | .sminI d a b g => issSminI d a b g
  | .smaxI d a b g => issSmaxI d a b g
  | .smov d a g => issSmov d a g
  | .ssel d a b g => issSsel d a b g
  | .spopc d a g => issSpopc d a g
  | .sclz d a g => issSclz d a g
  | .scmpI q c a b g => issScmpI q c a b g
  | .scmpN q c a b g => issScmpN q c a b g
  | .saddi d a i => issSaddi d a i
  | .saddiTwin d a w => issSaddiTwin d a w
  | .sshli d a i => issSshli d a i
  | .sandi d a i => issSandi d a i
  | .sli d i => issSli d i
  | .sliTwin d w => issSliTwin d w
  | .sli64 d w w2 => issSli64 d w w2
  | .sid d s => issSid d s
  | .qlog q o a b g => issQlog q o a b g
  | .cbnd d a b g => issCbnd d a b g
  | .crgt d a b g => issCrgt d a b g
  | .ccol d a b g => issCcol d a b g
  | .cget d a b g => issCget d a b g
  | .cmov d a g => issCmov d a g
  | .cld d c b l => issCld d c b l
  | .cst d c b l => issCst d c b l
  | .ctag d c b l => issCtag d c b l
  | .cchk q r a b g => issCchk q r a b g
  | .cnull d g => issCnull d g
  | .bq k o => issBq k o
  | .bqn k o => issBqn k o
  | .brl k o => issBrl k o
  | .brln k o => issBrln k o
  | .call o => issCall o
  | .ret a g => issRet a g
  | .jmpc d a b g => issJmpc d a b g
  | .reform g => issReform g
  | .heat k n m => issHeat k n m
  | .hmap a b => issHmap a b
  | .exit g => issExit g
  | .nop g => issNop g
  | .waitm n => issWaitm n
  | .waits n => issWaits n
  | .sldB32 d c b l => issSldB32 d c b l
  | .sldB32Twin d c b l w => issSldB32Twin d c b l w
  | .sldB64 d c b l => issSldB64 d c b l
  | .sldB64Twin d c b l w => issSldB64Twin d c b l w
  | .sstB32 d c b l => issSstB32 d c b l
  | .sstB32Twin d c b l w => issSstB32Twin d c b l w
  | .sstB64 d c b l => issSstB64 d c b l
  | .sstB64Twin d c b l w => issSstB64Twin d c b l w
  | .fenceAcq s => issFenceAcq s
  | .fenceRel s => issFenceRel s
  | .fenceFull s => issFenceFull s
  | .bar l => issBar l
  | .bara l => issBara l
  | .barw l => issBarw l
  | .gstep m => issGstep m
  | .gcfg a k => issGcfg a k
  | .cpy a b i l => issCpy a b i l
  | .cpyc a b i l => issCpyc a b i l
  | .cpym a b i l => issCpym a b i l
  | .halo a l => issHalo a l
  | .cbseal d => issCbseal d
  | .cbwait n => issCbwait n
  | .tlsig a b => issTlsig a b
  | .tlwait a b => issTlwait a b
  | .tlrd a b => issTlrd a b
  | .mwld a l => issMwld a l
  | .mmul a l => issMmul a l
  | .mclr a l => issMclr a l
  | .mrd a l => issMrd a l
  | .mstg a l => issMstg a l
  | .mstat d m => issMstat d m
  | .mspl a l => issMspl a l
  | .rlrun a b d l => issRlrun a b d l
  | .rlinv l => issRlinv l
  | .rlstat a => issRlstat a
  | .ckchk a b m => issCkchk a b m
  | .ckrd d a b g => issCkrd d a b g
  | .ckclr d b g => issCkclr d b g
  | .vclk d g => issVclk d g
  | .tmarm a b p s => issTmarm a b p s
  | .tmwait a => issTmwait a
  | .tmcan a => issTmcan a
  | .evpop d b g => issEvpop d b g
  | .pcnt d s => issPcnt d s
  | .csrr d i => issCsrr d i
  | .csrw a i => issCsrw a i
  | .trap n => issTrap n
  | .syscNull d a => issSyscNull d a
  | .syscPostPeerEvent d a => issSyscPostPeerEvent d a
  | .syscPostHostEvent d a => issSyscPostHostEvent d a
  | .syscEndLaunch d a => issSyscEndLaunch d a
  | .syscReserved d a c => issSyscReserved d a c
  | .syscHold d a => issSyscHold d a
  | .syscEvict d a => issSyscEvict d a
  | .syscRuntimeService d a c => issSyscRuntimeService d a c
  | .brk n => issBrk n
  | .spawn d k b => issSpawn d k b

/-- A word's encoding checks for `.regs` and a place in a heat (R85), and how its instruction issues. -/
structure Info where
  wf : Nat → Bool → Bool
  iss : Iss

/-- The same of an instruction. -/
def infoI (i : Instr) : Info := ⟨fun r h => i.wellFormed r h, issOf i⟩

/-- The info of the instruction with key k, first word w and literal words l1, l2. -/
noncomputable def infoOf (k w l1 l2 : Nat) : Except DecodeErr Info := (decodeOp k w l1 l2).map infoI

/-- Accept x when the must-be-zero bits z are 0. -/
def infoIf (z : Nat) (x : Info) : Except DecodeErr Info := if z = 0 then .ok x else .error .nonzeroField

/-- FENCE, as decodeFence. -/
def infoFence (w : Nat) : Except DecodeErr Info :=
  if fld w 15 6 ≠ 0 then .error .nonzeroField
  else if fld w 9 6 = 1 then .ok ⟨fun _ _ => decide ((fld w 0 9) < 6), issFenceAcq (fld w 0 9)⟩
  else if fld w 9 6 = 2 then .ok ⟨fun _ _ => decide ((fld w 0 9) < 6), issFenceRel (fld w 0 9)⟩
  else if fld w 9 6 = 3 then .ok ⟨fun _ _ => decide ((fld w 0 9) < 6), issFenceFull (fld w 0 9)⟩
  else .error .badCode

/-- SYSC, as decodeSysc. -/
def infoSysc (w : Nat) : Except DecodeErr Info :=
  let c := fld w 0 9
  let d := fld w 15 6
  let a := fld w 9 6
  if c = 0 then .ok ⟨fun _ _ => decide (d < 64) && quadReg a, issSyscNull d a⟩
  else if c = 1 then .ok ⟨fun _ _ => decide (d < 64) && quadReg a, issSyscPostPeerEvent d a⟩
  else if c = 2 then .ok ⟨fun _ _ => decide (d < 64) && quadReg a, issSyscPostHostEvent d a⟩
  else if c = 3 then .ok ⟨fun _ _ => decide (d < 64) && quadReg a, issSyscEndLaunch d a⟩
  else if c < 16 then .ok ⟨fun _ _ => decide (d < 64) && quadReg a && decide (4 ≤ c) && decide (c < 16), issSyscReserved d a c⟩
  else if c = 16 then .ok ⟨fun _ _ => decide (d < 64) && quadReg a, issSyscHold d a⟩
  else if c = 17 then .ok ⟨fun _ _ => decide (d < 64) && quadReg a, issSyscEvict d a⟩
  else if c < 256 then .ok ⟨fun _ _ => decide (d < 64) && quadReg a && decide (18 ≤ c) && decide (c < 256), issSyscRuntimeService d a c⟩
  else .error .badCode

/-- Keys 0x0 to 0x1f, as decodeBlock0. -/
def infoBlock0 (k w l1 l2 : Nat) : Except DecodeErr Info :=
  match k with
  | 0x0 => .ok ⟨fun regs heat => vOk regs heat (fld w 14 7) && vOk regs heat (fld w 7 7) && vOk regs heat (fld w 0 7), issVadd (fld w 14 7) (fld w 7 7) (fld w 0 7)⟩
  | 0x1 => .ok ⟨fun regs heat => vOk regs heat (fld w 14 7) && vOk regs heat (fld w 7 7) && vOk regs heat (fld w 0 7), issVsub (fld w 14 7) (fld w 7 7) (fld w 0 7)⟩
  | 0x2 => .ok ⟨fun regs heat => vOk regs heat (fld w 14 7) && vOk regs heat (fld w 7 7) && vOk regs heat (fld w 0 7), issVmul (fld w 14 7) (fld w 7 7) (fld w 0 7)⟩
  | 0x3 => .ok ⟨fun regs heat => vOk regs heat (fld w 14 7) && vOk regs heat (fld w 7 7) && vOk regs heat (fld w 0 7), issVmulhI32 (fld w 14 7) (fld w 7 7) (fld w 0 7)⟩
  | 0x4 => .ok ⟨fun regs heat => vOk regs heat (fld w 14 7) && vOk regs heat (fld w 7 7) && vOk regs heat (fld w 0 7), issVmulhN32 (fld w 14 7) (fld w 7 7) (fld w 0 7)⟩
  | 0x5 => .ok ⟨fun regs heat => vOk regs heat (fld w 14 7) && vOk regs heat (fld w 7 7) && vOk regs heat (fld w 0 7), issVmad (fld w 14 7) (fld w 7 7) (fld w 0 7)⟩
  | 0x6 => .ok ⟨fun regs heat => vOk regs heat (fld w 14 7) && vOk regs heat (fld w 7 7) && vOk regs heat (fld w 0 7), issVaddsI32 (fld w 14 7) (fld w 7 7) (fld w 0 7)⟩
  | 0x7 => .ok ⟨fun regs heat => vOk regs heat (fld w 14 7) && vOk regs heat (fld w 7 7) && vOk regs heat (fld w 0 7), issVsubsI32 (fld w 14 7) (fld w 7 7) (fld w 0 7)⟩
  | 0x8 => .ok ⟨fun regs heat => vOk regs heat (fld w 14 7) && vOk regs heat (fld w 7 7) && vOk regs heat (fld w 0 7), issVaddsN32 (fld w 14 7) (fld w 7 7) (fld w 0 7)⟩
  | 0x9 => .ok ⟨fun regs heat => vOk regs heat (fld w 14 7) && vOk regs heat (fld w 7 7) && vOk regs heat (fld w 0 7), issVsubsN32 (fld w 14 7) (fld w 7 7) (fld w 0 7)⟩
  | 0xa => .ok ⟨fun regs heat => vOk regs heat (fld w 14 7) && vOk regs heat (fld w 7 7) && vOk regs heat (fld w 0 7), issVand (fld w 14 7) (fld w 7 7) (fld w 0 7)⟩
  | 0xb => .ok ⟨fun regs heat => vOk regs heat (fld w 14 7) && vOk regs heat (fld w 7 7) && vOk regs heat (fld w 0 7), issVor (fld w 14 7) (fld w 7 7) (fld w 0 7)⟩
  | 0xc => .ok ⟨fun regs heat => vOk regs heat (fld w 14 7) && vOk regs heat (fld w 7 7) && vOk regs heat (fld w 0 7), issVxor (fld w 14 7) (fld w 7 7) (fld w 0 7)⟩
  | 0xd => .ok ⟨fun regs heat => vOk regs heat (fld w 14 7) && vOk regs heat (fld w 7 7) && vOk regs heat (fld w 0 7), issVandn (fld w 14 7) (fld w 7 7) (fld w 0 7)⟩
  | 0xe => .ok ⟨fun regs heat => vOk regs heat (fld w 14 7) && vOk regs heat (fld w 7 7) && vOk regs heat (fld w 0 7), issVshl (fld w 14 7) (fld w 7 7) (fld w 0 7)⟩
  | 0xf => .ok ⟨fun regs heat => vOk regs heat (fld w 14 7) && vOk regs heat (fld w 7 7) && vOk regs heat (fld w 0 7), issVshrN32 (fld w 14 7) (fld w 7 7) (fld w 0 7)⟩
  | 0x10 => .ok ⟨fun regs heat => vOk regs heat (fld w 14 7) && vOk regs heat (fld w 7 7) && vOk regs heat (fld w 0 7), issVshrI32 (fld w 14 7) (fld w 7 7) (fld w 0 7)⟩
  | 0x11 => .ok ⟨fun regs heat => vOk regs heat (fld w 14 7) && vOk regs heat (fld w 7 7) && vOk regs heat (fld w 0 7), issVminI32 (fld w 14 7) (fld w 7 7) (fld w 0 7)⟩
  | 0x12 => .ok ⟨fun regs heat => vOk regs heat (fld w 14 7) && vOk regs heat (fld w 7 7) && vOk regs heat (fld w 0 7), issVminN32 (fld w 14 7) (fld w 7 7) (fld w 0 7)⟩
  | 0x13 => .ok ⟨fun regs heat => vOk regs heat (fld w 14 7) && vOk regs heat (fld w 7 7) && vOk regs heat (fld w 0 7), issVmaxI32 (fld w 14 7) (fld w 7 7) (fld w 0 7)⟩
  | 0x14 => .ok ⟨fun regs heat => vOk regs heat (fld w 14 7) && vOk regs heat (fld w 7 7) && vOk regs heat (fld w 0 7), issVmaxN32 (fld w 14 7) (fld w 7 7) (fld w 0 7)⟩
  | 0x15 => infoIf (fld w 0 7) ⟨fun regs heat => vOk regs heat (fld w 14 7) && vOk regs heat (fld w 7 7), issVabsI32 (fld w 14 7) (fld w 7 7)⟩
  | 0x16 => infoIf (fld w 0 7) ⟨fun regs heat => vOk regs heat (fld w 14 7) && vOk regs heat (fld w 7 7), issVpopc (fld w 14 7) (fld w 7 7)⟩
  | 0x17 => infoIf (fld w 0 7) ⟨fun regs heat => vOk regs heat (fld w 14 7) && vOk regs heat (fld w 7 7), issVclz (fld w 14 7) (fld w 7 7)⟩
  | 0x18 => .ok ⟨fun regs heat => vOk regs heat (fld w 14 7) && vOk regs heat (fld w 7 7) && vOk regs heat (fld w 0 7), issVbfx (fld w 14 7) (fld w 7 7) (fld w 0 7)⟩
  | 0x19 => .ok ⟨fun regs heat => vOk regs heat (fld w 14 7) && vOk regs heat (fld w 7 7) && vOk regs heat (fld w 0 7), issVbfi (fld w 14 7) (fld w 7 7) (fld w 0 7)⟩
  | 0x1a => .ok ⟨fun regs heat => vOk regs heat (fld w 14 7) && vOk regs heat (fld w 7 7) && vOk regs heat (fld w 0 7), issVdot4I8 (fld w 14 7) (fld w 7 7) (fld w 0 7)⟩
  | 0x1b => .ok ⟨fun regs heat => vOk regs heat (fld w 14 7) && vOk regs heat (fld w 7 7) && vOk regs heat (fld w 0 7), issVdot4N8 (fld w 14 7) (fld w 7 7) (fld w 0 7)⟩
  | 0x1c => infoIf (fld w 0 7) ⟨fun regs heat => vOk regs heat (fld w 14 7) && vOk regs heat (fld w 7 7), issVmov (fld w 14 7) (fld w 7 7)⟩
  | 0x1d => .ok ⟨fun regs heat => vOk regs heat (fld w 14 7) && decide ((fld w 7 7) < 64) && decide ((fld w 0 7) < 2), issVmovs (fld w 14 7) (fld w 7 7) (fld w 0 7)⟩
  | 0x1e => infoIf (fld w 7 7) ⟨fun regs heat => vOk regs heat (fld w 14 7) && decide ((fld w 0 7) < 7), issVid (fld w 14 7) (fld w 0 7)⟩
  | _ => .error .unassigned

/-- Keys 0x20 to 0x3f, as decodeBlock1. -/
def infoBlock1 (k w l1 l2 : Nat) : Except DecodeErr Info :=
  match k with
  | 0x20 => .ok ⟨fun regs heat => vOk regs heat (fld w 14 7) && vOk regs heat (fld w 7 7) && decide ((fld w 0 7) < 128), issVaddi (fld w 14 7) (fld w 7 7) (fld w 0 7)⟩
  | 0x21 => .ok ⟨fun regs heat => vOk regs heat (fld w 14 7) && vOk regs heat (fld w 7 7) && decide ((fld w 0 7) < 32), issVshli (fld w 14 7) (fld w 7 7) (fld w 0 7)⟩
  | 0x22 => .ok ⟨fun regs heat => vOk regs heat (fld w 14 7) && vOk regs heat (fld w 7 7) && decide ((fld w 0 7) < 32), issVshriN32 (fld w 14 7) (fld w 7 7) (fld w 0 7)⟩
  | 0x23 => .ok ⟨fun regs heat => vOk regs heat (fld w 14 7) && vOk regs heat (fld w 7 7) && decide ((fld w 0 7) < 32), issVshriI32 (fld w 14 7) (fld w 7 7) (fld w 0 7)⟩
  | 0x24 => .ok ⟨fun regs heat => vOk regs heat (fld w 14 7) && vOk regs heat (fld w 7 7) && decide ((fld w 0 7) < 128), issVandi (fld w 14 7) (fld w 7 7) (fld w 0 7)⟩
  | 0x25 => infoIf (fld w 7 7) ⟨fun regs heat => vOk regs heat (fld w 14 7) && decide ((fld w 0 7) < 128), issVli (fld w 14 7) (fld w 0 7)⟩
  | 0x30 => .ok ⟨fun regs heat => decide ((fld w 18 3) < 8) && decide ((fld w 14 4) < 8) && vOk regs heat (fld w 7 7) && vOk regs heat (fld w 0 7), issIcmpI32 (fld w 18 3) (fld w 14 4) (fld w 7 7) (fld w 0 7)⟩
  | 0x31 => .ok ⟨fun regs heat => decide ((fld w 18 3) < 8) && decide ((fld w 14 4) < 8) && vOk regs heat (fld w 7 7) && vOk regs heat (fld w 0 7), issIcmpN32 (fld w 18 3) (fld w 14 4) (fld w 7 7) (fld w 0 7)⟩
  | 0x32 => .ok ⟨fun regs heat => decide ((fld w 18 3) < 8) && decide ((fld w 14 4) < 8) && vOk regs heat (fld w 7 7) && vOk regs heat (fld w 0 7), issFcmpF32 (fld w 18 3) (fld w 14 4) (fld w 7 7) (fld w 0 7)⟩
  | 0x33 => .ok ⟨fun regs heat => decide ((fld w 18 3) < 8) && decide ((fld w 14 4) < 8) && vOk regs heat (fld w 7 7) && vOk regs heat (fld w 0 7), issFcmpX (fld w 18 3) (fld w 14 4) (fld w 7 7) (fld w 0 7)⟩
  | 0x34 => .ok ⟨fun _ _ => decide ((fld w 18 3) < 8) && decide ((fld w 14 4) < 8) && decide ((fld w 7 7) < 8) && decide ((fld w 0 7) < 8), issPlog (fld w 18 3) (fld w 14 4) (fld w 7 7) (fld w 0 7)⟩
  | 0x35 => infoIf (fld w 0 7 + fld w 14 4) ⟨fun regs heat => decide ((fld w 18 3) < 8) && vOk regs heat (fld w 7 7), issVtop (fld w 18 3) (fld w 7 7)⟩
  | 0x36 => infoIf (fld w 7 7) ⟨fun regs heat => vOk regs heat (fld w 14 7) && decide ((fld w 0 7) < 8), issVfromp (fld w 14 7) (fld w 0 7)⟩
  | 0x38 => .ok ⟨fun regs heat => decide ((k - 56) < 8) && vOk regs heat (fld w 14 7) && vOk regs heat (fld w 7 7) && vOk regs heat (fld w 0 7), issVsel (k - 56) (fld w 14 7) (fld w 7 7) (fld w 0 7)⟩
  | 0x39 => .ok ⟨fun regs heat => decide ((k - 56) < 8) && vOk regs heat (fld w 14 7) && vOk regs heat (fld w 7 7) && vOk regs heat (fld w 0 7), issVsel (k - 56) (fld w 14 7) (fld w 7 7) (fld w 0 7)⟩
  | 0x3a => .ok ⟨fun regs heat => decide ((k - 56) < 8) && vOk regs heat (fld w 14 7) && vOk regs heat (fld w 7 7) && vOk regs heat (fld w 0 7), issVsel (k - 56) (fld w 14 7) (fld w 7 7) (fld w 0 7)⟩
  | 0x3b => .ok ⟨fun regs heat => decide ((k - 56) < 8) && vOk regs heat (fld w 14 7) && vOk regs heat (fld w 7 7) && vOk regs heat (fld w 0 7), issVsel (k - 56) (fld w 14 7) (fld w 7 7) (fld w 0 7)⟩
  | 0x3c => .ok ⟨fun regs heat => decide ((k - 56) < 8) && vOk regs heat (fld w 14 7) && vOk regs heat (fld w 7 7) && vOk regs heat (fld w 0 7), issVsel (k - 56) (fld w 14 7) (fld w 7 7) (fld w 0 7)⟩
  | 0x3d => .ok ⟨fun regs heat => decide ((k - 56) < 8) && vOk regs heat (fld w 14 7) && vOk regs heat (fld w 7 7) && vOk regs heat (fld w 0 7), issVsel (k - 56) (fld w 14 7) (fld w 7 7) (fld w 0 7)⟩
  | 0x3e => .ok ⟨fun regs heat => decide ((k - 56) < 8) && vOk regs heat (fld w 14 7) && vOk regs heat (fld w 7 7) && vOk regs heat (fld w 0 7), issVsel (k - 56) (fld w 14 7) (fld w 7 7) (fld w 0 7)⟩
  | 0x3f => .ok ⟨fun regs heat => decide ((k - 56) < 8) && vOk regs heat (fld w 14 7) && vOk regs heat (fld w 7 7) && vOk regs heat (fld w 0 7), issVsel (k - 56) (fld w 14 7) (fld w 7 7) (fld w 0 7)⟩
  | _ => .error .unassigned

/-- Keys 0x40 to 0x5f, as decodeBlock2. -/
def infoBlock2 (k w l1 l2 : Nat) : Except DecodeErr Info :=
  match k with
  | 0x40 => .ok ⟨fun regs heat => vOk regs heat (fld w 14 7) && vOk regs heat (fld w 7 7) && vOk regs heat (fld w 0 7), issFadd (fld w 14 7) (fld w 7 7) (fld w 0 7)⟩
  | 0x41 => .ok ⟨fun regs heat => vOk regs heat (fld w 14 7) && vOk regs heat (fld w 7 7) && vOk regs heat (fld w 0 7), issFsub (fld w 14 7) (fld w 7 7) (fld w 0 7)⟩
  | 0x42 => .ok ⟨fun regs heat => vOk regs heat (fld w 14 7) && vOk regs heat (fld w 7 7) && vOk regs heat (fld w 0 7), issFmul (fld w 14 7) (fld w 7 7) (fld w 0 7)⟩
  | 0x43 => .ok ⟨fun regs heat => vOk regs heat (fld w 14 7) && vOk regs heat (fld w 7 7) && vOk regs heat (fld w 0 7), issFma (fld w 14 7) (fld w 7 7) (fld w 0 7)⟩
  | 0x44 => .ok ⟨fun regs heat => vOk regs heat (fld w 14 7) && vOk regs heat (fld w 7 7) && vOk regs heat (fld w 0 7), issFnma (fld w 14 7) (fld w 7 7) (fld w 0 7)⟩
  | 0x45 => .ok ⟨fun regs heat => vOk regs heat (fld w 14 7) && vOk regs heat (fld w 7 7) && vOk regs heat (fld w 0 7), issFmin (fld w 14 7) (fld w 7 7) (fld w 0 7)⟩
  | 0x46 => .ok ⟨fun regs heat => vOk regs heat (fld w 14 7) && vOk regs heat (fld w 7 7) && vOk regs heat (fld w 0 7), issFmax (fld w 14 7) (fld w 7 7) (fld w 0 7)⟩
  | 0x47 => infoIf (fld w 0 7) ⟨fun regs heat => vOk regs heat (fld w 14 7) && vOk regs heat (fld w 7 7), issFabs (fld w 14 7) (fld w 7 7)⟩
  | 0x48 => infoIf (fld w 0 7) ⟨fun regs heat => vOk regs heat (fld w 14 7) && vOk regs heat (fld w 7 7), issFneg (fld w 14 7) (fld w 7 7)⟩
  | 0x49 => .ok ⟨fun regs heat => vOk regs heat (fld w 14 7) && vOk regs heat (fld w 7 7) && vOk regs heat (fld w 0 7), issFcopysign (fld w 14 7) (fld w 7 7) (fld w 0 7)⟩
  | 0x4a => .ok ⟨fun regs heat => vOk regs heat (fld w 14 7) && vOk regs heat (fld w 7 7) && vOk regs heat (fld w 0 7), issFdot2Bf16 (fld w 14 7) (fld w 7 7) (fld w 0 7)⟩
  | 0x4b => .ok ⟨fun regs heat => vOk regs heat (fld w 14 7) && vOk regs heat (fld w 7 7) && vOk regs heat (fld w 0 7), issFdot4E4m3 (fld w 14 7) (fld w 7 7) (fld w 0 7)⟩
  | 0x4c => .ok ⟨fun regs heat => vOk regs heat (fld w 14 7) && vOk regs heat (fld w 7 7) && vOk regs heat (fld w 0 7), issFdot4E5m2 (fld w 14 7) (fld w 7 7) (fld w 0 7)⟩
  | 0x4d => .ok ⟨fun regs heat => vOk regs heat (fld w 14 7) && vOk regs heat (fld w 7 7) && vOk regs heat (fld w 0 7), issFdot8E2m1 (fld w 14 7) (fld w 7 7) (fld w 0 7)⟩
  | 0x50 => infoIf (fld w 0 7) ⟨fun regs heat => vOk regs heat (fld w 14 7) && vOk regs heat (fld w 7 7), issFrcpa (fld w 14 7) (fld w 7 7)⟩
  | 0x51 => infoIf (fld w 0 7) ⟨fun regs heat => vOk regs heat (fld w 14 7) && vOk regs heat (fld w 7 7), issFrsqa (fld w 14 7) (fld w 7 7)⟩
  | 0x52 => infoIf (fld w 0 7) ⟨fun regs heat => vOk regs heat (fld w 14 7) && vOk regs heat (fld w 7 7), issFexp2a (fld w 14 7) (fld w 7 7)⟩
  | 0x53 => infoIf (fld w 0 7) ⟨fun regs heat => vOk regs heat (fld w 14 7) && vOk regs heat (fld w 7 7), issFlog2a (fld w 14 7) (fld w 7 7)⟩
  | 0x54 => infoIf (fld w 0 7) ⟨fun regs heat => vOk regs heat (fld w 14 7) && vOk regs heat (fld w 7 7), issFsqrt (fld w 14 7) (fld w 7 7)⟩
  | 0x55 => .ok ⟨fun regs heat => vOk regs heat (fld w 14 7) && vOk regs heat (fld w 7 7) && vOk regs heat (fld w 0 7), issFdiv (fld w 14 7) (fld w 7 7) (fld w 0 7)⟩
  | 0x58 => .ok ⟨fun regs heat => vOk regs heat (fld w 14 7) && vOk regs heat (fld w 7 7) && decide ((fld w 0 7) < 6), issCvtF32I32 (fld w 14 7) (fld w 7 7) (fld w 0 7)⟩
  | 0x59 => .ok ⟨fun regs heat => vOk regs heat (fld w 14 7) && vOk regs heat (fld w 7 7) && decide ((fld w 0 7) < 6), issCvtF32N32 (fld w 14 7) (fld w 7 7) (fld w 0 7)⟩
  | 0x5a => .ok ⟨fun regs heat => vOk regs heat (fld w 14 7) && vOk regs heat (fld w 7 7) && decide ((fld w 0 7) < 6), issCvtI32F32 (fld w 14 7) (fld w 7 7) (fld w 0 7)⟩
  | 0x5b => .ok ⟨fun regs heat => vOk regs heat (fld w 14 7) && vOk regs heat (fld w 7 7) && decide ((fld w 0 7) < 6), issCvtN32F32 (fld w 14 7) (fld w 7 7) (fld w 0 7)⟩
  | _ => .error .unassigned

/-- Keys 0x60 to 0x7f, as decodeBlock3. -/
def infoBlock3 (k w l1 l2 : Nat) : Except DecodeErr Info :=
  match k with
  | 0x60 => infoIf (fld w 0 7) ⟨fun regs heat => vOk regs heat (fld w 14 7) && vOk regs heat (fld w 7 7), issNrwBf16 (fld w 14 7) (fld w 7 7)⟩
  | 0x61 => infoIf (fld w 0 7) ⟨fun regs heat => vOk regs heat (fld w 14 7) && vOk regs heat (fld w 7 7), issNrwF16 (fld w 14 7) (fld w 7 7)⟩
  | 0x62 => infoIf (fld w 0 7) ⟨fun regs heat => vOk regs heat (fld w 14 7) && vOk regs heat (fld w 7 7), issNrwE4m3 (fld w 14 7) (fld w 7 7)⟩
  | 0x63 => infoIf (fld w 0 7) ⟨fun regs heat => vOk regs heat (fld w 14 7) && vOk regs heat (fld w 7 7), issNrwE5m2 (fld w 14 7) (fld w 7 7)⟩
  | 0x64 => infoIf (fld w 0 7) ⟨fun regs heat => vOk regs heat (fld w 14 7) && vOk regs heat (fld w 7 7), issNrwE2m1 (fld w 14 7) (fld w 7 7)⟩
  | 0x68 => infoIf (fld w 0 7) ⟨fun regs heat => vOk regs heat (fld w 14 7) && vOk regs heat (fld w 7 7), issFinBf16 (fld w 14 7) (fld w 7 7)⟩
  | 0x69 => infoIf (fld w 0 7) ⟨fun regs heat => vOk regs heat (fld w 14 7) && vOk regs heat (fld w 7 7), issFinF16 (fld w 14 7) (fld w 7 7)⟩
  | 0x6a => infoIf (fld w 0 7) ⟨fun regs heat => vOk regs heat (fld w 14 7) && vOk regs heat (fld w 7 7), issFinE4m3 (fld w 14 7) (fld w 7 7)⟩
  | 0x6b => infoIf (fld w 0 7) ⟨fun regs heat => vOk regs heat (fld w 14 7) && vOk regs heat (fld w 7 7), issFinE5m2 (fld w 14 7) (fld w 7 7)⟩
  | 0x6c => infoIf (fld w 0 7) ⟨fun regs heat => vOk regs heat (fld w 14 7) && vOk regs heat (fld w 7 7), issFinE2m1 (fld w 14 7) (fld w 7 7)⟩
  | 0x70 => .ok ⟨fun regs heat => vOk regs heat (fld w 14 7) && vOk regs heat (fld w 7 7) && vOk regs heat (fld w 0 7), issPack2Bf16 (fld w 14 7) (fld w 7 7) (fld w 0 7)⟩
  | 0x71 => .ok ⟨fun regs heat => vOk regs heat (fld w 14 7) && vOk regs heat (fld w 7 7) && vOk regs heat (fld w 0 7), issPack2F16 (fld w 14 7) (fld w 7 7) (fld w 0 7)⟩
  | 0x72 => infoIf (fld w 0 7) ⟨fun regs heat => vOk regs heat (fld w 14 7) && vSpan regs heat (fld w 7 7) 3, issPack4E4m3 (fld w 14 7) (fld w 7 7)⟩
  | 0x73 => infoIf (fld w 0 7) ⟨fun regs heat => vOk regs heat (fld w 14 7) && vSpan regs heat (fld w 7 7) 3, issPack4E5m2 (fld w 14 7) (fld w 7 7)⟩
  | 0x74 => .ok ⟨fun regs heat => vOk regs heat (fld w 14 7) && vOk regs heat (fld w 7 7) && decide ((fld w 0 7) < 2), issWidBf16 (fld w 14 7) (fld w 7 7) (fld w 0 7)⟩
  | 0x75 => .ok ⟨fun regs heat => vOk regs heat (fld w 14 7) && vOk regs heat (fld w 7 7) && decide ((fld w 0 7) < 2), issWidF16 (fld w 14 7) (fld w 7 7) (fld w 0 7)⟩
  | 0x76 => .ok ⟨fun regs heat => vOk regs heat (fld w 14 7) && vOk regs heat (fld w 7 7) && decide ((fld w 0 7) < 4), issWidE4m3 (fld w 14 7) (fld w 7 7) (fld w 0 7)⟩
  | 0x77 => .ok ⟨fun regs heat => vOk regs heat (fld w 14 7) && vOk regs heat (fld w 7 7) && decide ((fld w 0 7) < 4), issWidE5m2 (fld w 14 7) (fld w 7 7) (fld w 0 7)⟩
  | _ => .error .unassigned

/-- Keys 0x80 to 0x9f, as decodeBlock4. -/
def infoBlock4 (k w l1 l2 : Nat) : Except DecodeErr Info :=
  match k with
  | 0x80 => .ok ⟨fun regs heat => vOk regs heat (fld w 14 7) && vOk regs heat (fld w 7 7) && vOk regs heat (fld w 0 7), issVshfl (fld w 14 7) (fld w 7 7) (fld w 0 7)⟩
  | 0x81 => .ok ⟨fun regs heat => vOk regs heat (fld w 14 7) && vOk regs heat (fld w 7 7) && vOk regs heat (fld w 0 7), issVshflx (fld w 14 7) (fld w 7 7) (fld w 0 7)⟩
  | 0x82 => .ok ⟨fun regs heat => vOk regs heat (fld w 14 7) && vOk regs heat (fld w 7 7) && vOk regs heat (fld w 0 7), issVshfll (fld w 14 7) (fld w 7 7) (fld w 0 7)⟩
  | 0x83 => .ok ⟨fun regs heat => vOk regs heat (fld w 14 7) && vOk regs heat (fld w 7 7) && decide ((fld w 0 7) < 32), issVbcast (fld w 14 7) (fld w 7 7) (fld w 0 7)⟩
  | 0x84 => infoIf (fld w 0 7) ⟨fun regs heat => vOk regs heat (fld w 14 7) && vOk regs heat (fld w 7 7), issVscanI32 (fld w 14 7) (fld w 7 7)⟩
  | 0x85 => infoIf (fld w 0 7) ⟨fun regs heat => vOk regs heat (fld w 14 7) && vOk regs heat (fld w 7 7), issVscanF32 (fld w 14 7) (fld w 7 7)⟩
  | 0x86 => infoIf (fld w 0 7) ⟨fun regs heat => vOk regs heat (fld w 14 7) && vOk regs heat (fld w 7 7), issVredI32 (fld w 14 7) (fld w 7 7)⟩
  | 0x87 => infoIf (fld w 0 7) ⟨fun regs heat => vOk regs heat (fld w 14 7) && vOk regs heat (fld w 7 7), issVredF32 (fld w 14 7) (fld w 7 7)⟩
  | 0x88 => infoIf (fld w 0 7) ⟨fun regs heat => vOk regs heat (fld w 14 7) && vOk regs heat (fld w 7 7), issVredmax (fld w 14 7) (fld w 7 7)⟩
  | 0x89 => infoIf (fld w 0 7) ⟨fun regs heat => vOk regs heat (fld w 14 7) && vOk regs heat (fld w 7 7), issVredmin (fld w 14 7) (fld w 7 7)⟩
  | 0x8a => .ok ⟨fun _ _ => decide ((fld w 14 7) < 8) && decide ((fld w 7 7) < 8) && decide ((fld w 0 7) < 3), issVvote (fld w 14 7) (fld w 7 7) (fld w 0 7)⟩
  | 0x8b => .ok ⟨fun _ _ => decide ((fld w 14 7) < 64) && decide ((fld w 7 7) < 8) && decide ((fld w 0 7) < 2), issVballot (fld w 14 7) (fld w 7 7) (fld w 0 7)⟩
  | 0x8c => infoIf (fld w 0 7) ⟨fun regs heat => vOk regs heat (fld w 14 7) && decide ((fld w 7 7) < 8), issVcount (fld w 14 7) (fld w 7 7)⟩
  | _ => .error .unassigned

/-- Keys 0x100 to 0x11f, as decodeBlock8. -/
def infoBlock8 (k w l1 l2 : Nat) : Except DecodeErr Info :=
  match k with
  | 0x100 => .ok ⟨fun regs heat => vOk regs heat (fld w 14 7) && vOk regs heat (fld w 7 7) && decide ((fld w 4 3) < 8) && decide ((fld w 0 4) < 16), issLdN8 (fld w 14 7) (fld w 7 7) (fld w 4 3) (fld w 0 4)⟩
  | 0x101 => .ok ⟨fun regs heat => vOk regs heat (fld w 14 7) && vOk regs heat (fld w 7 7) && decide ((fld w 4 3) < 8) && decide ((fld w 0 4) < 16), issLdI8 (fld w 14 7) (fld w 7 7) (fld w 4 3) (fld w 0 4)⟩
  | 0x102 => .ok ⟨fun regs heat => vOk regs heat (fld w 14 7) && vOk regs heat (fld w 7 7) && decide ((fld w 4 3) < 8) && decide ((fld w 0 4) < 16), issLdN16 (fld w 14 7) (fld w 7 7) (fld w 4 3) (fld w 0 4)⟩
  | 0x103 => .ok ⟨fun regs heat => vOk regs heat (fld w 14 7) && vOk regs heat (fld w 7 7) && decide ((fld w 4 3) < 8) && decide ((fld w 0 4) < 16), issLdI16 (fld w 14 7) (fld w 7 7) (fld w 4 3) (fld w 0 4)⟩
  | 0x104 => .ok ⟨fun regs heat => vOk regs heat (fld w 14 7) && vOk regs heat (fld w 7 7) && decide ((fld w 4 3) < 8) && decide ((fld w 0 4) < 16), issLdB32 (fld w 14 7) (fld w 7 7) (fld w 4 3) (fld w 0 4)⟩
  | 0x105 => .ok ⟨fun regs heat => vSpan regs heat (fld w 14 7) 1 && vOk regs heat (fld w 7 7) && decide ((fld w 4 3) < 8) && decide ((fld w 0 4) < 16), issLdB64 (fld w 14 7) (fld w 7 7) (fld w 4 3) (fld w 0 4)⟩
  | 0x106 => .ok ⟨fun regs heat => vSpan regs heat (fld w 14 7) 3 && vOk regs heat (fld w 7 7) && decide ((fld w 4 3) < 8) && decide ((fld w 0 4) < 16), issLdB128 (fld w 14 7) (fld w 7 7) (fld w 4 3) (fld w 0 4)⟩
  | 0x108 => .ok ⟨fun regs heat => vOk regs heat (fld w 14 7) && vOk regs heat (fld w 7 7) && decide ((fld w 4 3) < 8) && decide ((fld w 0 4) < 16), issStB8 (fld w 14 7) (fld w 7 7) (fld w 4 3) (fld w 0 4)⟩
  | 0x109 => .ok ⟨fun regs heat => vOk regs heat (fld w 14 7) && vOk regs heat (fld w 7 7) && decide ((fld w 4 3) < 8) && decide ((fld w 0 4) < 16), issStB16 (fld w 14 7) (fld w 7 7) (fld w 4 3) (fld w 0 4)⟩
  | 0x10a => .ok ⟨fun regs heat => vOk regs heat (fld w 14 7) && vOk regs heat (fld w 7 7) && decide ((fld w 4 3) < 8) && decide ((fld w 0 4) < 16), issStB32 (fld w 14 7) (fld w 7 7) (fld w 4 3) (fld w 0 4)⟩
  | 0x10b => .ok ⟨fun regs heat => vSpan regs heat (fld w 14 7) 1 && vOk regs heat (fld w 7 7) && decide ((fld w 4 3) < 8) && decide ((fld w 0 4) < 16), issStB64 (fld w 14 7) (fld w 7 7) (fld w 4 3) (fld w 0 4)⟩
  | 0x10c => .ok ⟨fun regs heat => vSpan regs heat (fld w 14 7) 3 && vOk regs heat (fld w 7 7) && decide ((fld w 4 3) < 8) && decide ((fld w 0 4) < 16), issStB128 (fld w 14 7) (fld w 7 7) (fld w 4 3) (fld w 0 4)⟩
  | 0x110 => .ok ⟨fun regs heat => vOk regs heat (fld w 14 7) && vOk regs heat (fld w 7 7) && decide ((fld w 4 3) < 8) && decide ((fld w 0 4) < 16), issLdBf16 (fld w 14 7) (fld w 7 7) (fld w 4 3) (fld w 0 4)⟩
  | 0x111 => .ok ⟨fun regs heat => vOk regs heat (fld w 14 7) && vOk regs heat (fld w 7 7) && decide ((fld w 4 3) < 8) && decide ((fld w 0 4) < 16), issLdF16 (fld w 14 7) (fld w 7 7) (fld w 4 3) (fld w 0 4)⟩
  | 0x112 => .ok ⟨fun regs heat => vOk regs heat (fld w 14 7) && vOk regs heat (fld w 7 7) && decide ((fld w 4 3) < 8) && decide ((fld w 0 4) < 16), issLdE4m3 (fld w 14 7) (fld w 7 7) (fld w 4 3) (fld w 0 4)⟩
  | 0x113 => .ok ⟨fun regs heat => vOk regs heat (fld w 14 7) && vOk regs heat (fld w 7 7) && decide ((fld w 4 3) < 8) && decide ((fld w 0 4) < 16), issLdE5m2 (fld w 14 7) (fld w 7 7) (fld w 4 3) (fld w 0 4)⟩
  | 0x114 => .ok ⟨fun regs heat => vSpan regs heat (fld w 14 7) 1 && vOk regs heat (fld w 7 7) && decide ((fld w 4 3) < 7) && decide ((fld w 0 4) < 16), issLdZb4 (fld w 14 7) (fld w 7 7) (fld w 4 3) (fld w 0 4)⟩
  | 0x115 => .ok ⟨fun regs heat => vSpan regs heat (fld w 14 7) 1 && vOk regs heat (fld w 7 7) && decide ((fld w 4 3) < 7) && decide ((fld w 0 4) < 16), issLdZb8 (fld w 14 7) (fld w 7 7) (fld w 4 3) (fld w 0 4)⟩
  | 0x118 => .ok ⟨fun regs heat => vOk regs heat (fld w 14 7) && vOk regs heat (fld w 7 7) && decide ((fld w 4 3) < 8) && decide ((fld w 0 4) < 16), issStBf16 (fld w 14 7) (fld w 7 7) (fld w 4 3) (fld w 0 4)⟩
  | 0x119 => .ok ⟨fun regs heat => vOk regs heat (fld w 14 7) && vOk regs heat (fld w 7 7) && decide ((fld w 4 3) < 8) && decide ((fld w 0 4) < 16), issStF16 (fld w 14 7) (fld w 7 7) (fld w 4 3) (fld w 0 4)⟩
  | 0x11a => .ok ⟨fun regs heat => vOk regs heat (fld w 14 7) && vOk regs heat (fld w 7 7) && decide ((fld w 4 3) < 8) && decide ((fld w 0 4) < 16), issStE4m3 (fld w 14 7) (fld w 7 7) (fld w 4 3) (fld w 0 4)⟩
  | 0x11b => .ok ⟨fun regs heat => vOk regs heat (fld w 14 7) && vOk regs heat (fld w 7 7) && decide ((fld w 4 3) < 8) && decide ((fld w 0 4) < 16), issStE5m2 (fld w 14 7) (fld w 7 7) (fld w 4 3) (fld w 0 4)⟩
  | 0x11c => .ok ⟨fun regs heat => vSpan regs heat (fld w 14 7) 1 && vOk regs heat (fld w 7 7) && decide ((fld w 4 3) < 7) && decide ((fld w 0 4) < 16), issStZb4 (fld w 14 7) (fld w 7 7) (fld w 4 3) (fld w 0 4)⟩
  | 0x11d => .ok ⟨fun regs heat => vSpan regs heat (fld w 14 7) 1 && vOk regs heat (fld w 7 7) && decide ((fld w 4 3) < 7) && decide ((fld w 0 4) < 16), issStZb8 (fld w 14 7) (fld w 7 7) (fld w 4 3) (fld w 0 4)⟩
  | 0x11e => .ok ⟨fun regs heat => vOk regs heat (fld w 14 7) && vOk regs heat (fld w 7 7) && decide ((fld w 4 3) < 8) && decide ((fld w 0 4) < 16), issVspill (fld w 14 7) (fld w 7 7) (fld w 4 3) (fld w 0 4)⟩
  | 0x11f => .ok ⟨fun regs heat => vOk regs heat (fld w 14 7) && vOk regs heat (fld w 7 7) && decide ((fld w 4 3) < 8) && decide ((fld w 0 4) < 16), issVfill (fld w 14 7) (fld w 7 7) (fld w 4 3) (fld w 0 4)⟩
  | _ => .error .unassigned

/-- Keys 0x140 to 0x15f, as decodeBlock10. -/
def infoBlock10 (k w l1 l2 : Nat) : Except DecodeErr Info :=
  match k with
  | 0x140 => .ok ⟨fun regs heat => vOk regs heat (fld w 14 7) && vOk regs heat (fld w 7 7) && decide ((fld w 4 3) < 8) && decide ((fld w 0 4) < 16), issLdgB32 (fld w 14 7) (fld w 7 7) (fld w 4 3) (fld w 0 4)⟩
  | 0x141 => .ok ⟨fun regs heat => vSpan regs heat (fld w 14 7) 1 && vOk regs heat (fld w 7 7) && decide ((fld w 4 3) < 8) && decide ((fld w 0 4) < 16), issLdgB64 (fld w 14 7) (fld w 7 7) (fld w 4 3) (fld w 0 4)⟩
  | 0x142 => .ok ⟨fun regs heat => vSpan regs heat (fld w 14 7) 3 && vOk regs heat (fld w 7 7) && decide ((fld w 4 3) < 8) && decide ((fld w 0 4) < 16), issLdgB128 (fld w 14 7) (fld w 7 7) (fld w 4 3) (fld w 0 4)⟩
  | 0x144 => .ok ⟨fun regs heat => vOk regs heat (fld w 14 7) && vOk regs heat (fld w 7 7) && decide ((fld w 4 3) < 8) && decide ((fld w 0 4) < 16), issStgB32 (fld w 14 7) (fld w 7 7) (fld w 4 3) (fld w 0 4)⟩
  | 0x145 => .ok ⟨fun regs heat => vSpan regs heat (fld w 14 7) 1 && vOk regs heat (fld w 7 7) && decide ((fld w 4 3) < 8) && decide ((fld w 0 4) < 16), issStgB64 (fld w 14 7) (fld w 7 7) (fld w 4 3) (fld w 0 4)⟩
  | 0x146 => .ok ⟨fun regs heat => vSpan regs heat (fld w 14 7) 3 && vOk regs heat (fld w 7 7) && decide ((fld w 4 3) < 8) && decide ((fld w 0 4) < 16), issStgB128 (fld w 14 7) (fld w 7 7) (fld w 4 3) (fld w 0 4)⟩
  | 0x148 => .ok ⟨fun regs heat => vOk regs heat (fld w 14 7) && vOk regs heat (fld w 7 7) && decide ((fld w 4 3) < 8) && decide ((fld w 0 4) < 16), issLdgmB32 (fld w 14 7) (fld w 7 7) (fld w 4 3) (fld w 0 4)⟩
  | 0x149 => .ok ⟨fun regs heat => vOk regs heat (fld w 14 7) && vOk regs heat (fld w 7 7) && decide ((fld w 4 3) < 8) && decide ((fld w 0 4) < 16), issStgmB32 (fld w 14 7) (fld w 7 7) (fld w 4 3) (fld w 0 4)⟩
  | 0x150 => infoIf (fld w 4 3) ⟨fun regs heat => vOk regs heat (fld w 14 7) && vOk regs heat (fld w 7 7) && decide ((fld w 0 4) < 16), issTlook (fld w 14 7) (fld w 7 7) (fld w 0 4)⟩
  | 0x151 => infoIf (fld w 4 3) ⟨fun regs heat => vOk regs heat (fld w 14 7) && vOk regs heat (fld w 7 7) && decide ((fld w 0 4) < 16), issTset (fld w 14 7) (fld w 7 7) (fld w 0 4)⟩
  | 0x152 => infoIf (fld w 4 3 + fld w 14 7) ⟨fun regs heat => vOk regs heat (fld w 7 7) && decide ((fld w 0 4) < 16), issTclr (fld w 7 7) (fld w 0 4)⟩
  | _ => .error .unassigned

/-- Keys 0x180 to 0x19f, as decodeBlock12. -/
def infoBlock12 (k w l1 l2 : Nat) : Except DecodeErr Info :=
  match k with
  | 0x180 => .ok ⟨fun regs heat => decide ((fld k 4 2) < 4) && vOk regs heat (fld w 14 7) && vOk regs heat (fld w 7 7) && decide ((fld w 4 3) < 8) && decide ((fld w 0 4) < 16), issAaddI32 (fld k 4 2) (fld w 14 7) (fld w 7 7) (fld w 4 3) (fld w 0 4)⟩
  | 0x181 => .ok ⟨fun regs heat => decide ((fld k 4 2) < 4) && vSpan regs heat (fld w 14 7) 1 && vOk regs heat (fld w 7 7) && decide ((fld w 4 3) < 8) && decide ((fld w 0 4) < 16), issAaddI64 (fld k 4 2) (fld w 14 7) (fld w 7 7) (fld w 4 3) (fld w 0 4)⟩
  | 0x182 => .ok ⟨fun regs heat => decide ((fld k 4 2) < 4) && vOk regs heat (fld w 14 7) && vOk regs heat (fld w 7 7) && decide ((fld w 4 3) < 8) && decide ((fld w 0 4) < 16), issAminI32 (fld k 4 2) (fld w 14 7) (fld w 7 7) (fld w 4 3) (fld w 0 4)⟩
  | 0x183 => .ok ⟨fun regs heat => decide ((fld k 4 2) < 4) && vOk regs heat (fld w 14 7) && vOk regs heat (fld w 7 7) && decide ((fld w 4 3) < 8) && decide ((fld w 0 4) < 16), issAmaxI32 (fld k 4 2) (fld w 14 7) (fld w 7 7) (fld w 4 3) (fld w 0 4)⟩
  | 0x184 => .ok ⟨fun regs heat => decide ((fld k 4 2) < 4) && vOk regs heat (fld w 14 7) && vOk regs heat (fld w 7 7) && decide ((fld w 4 3) < 8) && decide ((fld w 0 4) < 16), issAminN32 (fld k 4 2) (fld w 14 7) (fld w 7 7) (fld w 4 3) (fld w 0 4)⟩
  | 0x185 => .ok ⟨fun regs heat => decide ((fld k 4 2) < 4) && vOk regs heat (fld w 14 7) && vOk regs heat (fld w 7 7) && decide ((fld w 4 3) < 8) && decide ((fld w 0 4) < 16), issAmaxN32 (fld k 4 2) (fld w 14 7) (fld w 7 7) (fld w 4 3) (fld w 0 4)⟩
  | 0x186 => .ok ⟨fun regs heat => decide ((fld k 4 2) < 4) && vOk regs heat (fld w 14 7) && vOk regs heat (fld w 7 7) && decide ((fld w 4 3) < 8) && decide ((fld w 0 4) < 16), issAand (fld k 4 2) (fld w 14 7) (fld w 7 7) (fld w 4 3) (fld w 0 4)⟩
  | 0x187 => .ok ⟨fun regs heat => decide ((fld k 4 2) < 4) && vOk regs heat (fld w 14 7) && vOk regs heat (fld w 7 7) && decide ((fld w 4 3) < 8) && decide ((fld w 0 4) < 16), issAor (fld k 4 2) (fld w 14 7) (fld w 7 7) (fld w 4 3) (fld w 0 4)⟩
  | 0x188 => .ok ⟨fun regs heat => decide ((fld k 4 2) < 4) && vOk regs heat (fld w 14 7) && vOk regs heat (fld w 7 7) && decide ((fld w 4 3) < 8) && decide ((fld w 0 4) < 16), issAxor (fld k 4 2) (fld w 14 7) (fld w 7 7) (fld w 4 3) (fld w 0 4)⟩
  | 0x189 => .ok ⟨fun regs heat => decide ((fld k 4 2) < 4) && vOk regs heat (fld w 14 7) && vOk regs heat (fld w 7 7) && decide ((fld w 4 3) < 8) && decide ((fld w 0 4) < 16), issAxchg (fld k 4 2) (fld w 14 7) (fld w 7 7) (fld w 4 3) (fld w 0 4)⟩
  | 0x18a => .ok ⟨fun regs heat => decide ((fld k 4 2) < 4) && vSpan regs heat (fld w 14 7) 1 && vOk regs heat (fld w 7 7) && decide ((fld w 4 3) < 8) && decide ((fld w 0 4) < 16), issAcas (fld k 4 2) (fld w 14 7) (fld w 7 7) (fld w 4 3) (fld w 0 4)⟩
  | 0x18b => .ok ⟨fun regs heat => decide ((fld k 4 2) < 4) && vOk regs heat (fld w 14 7) && vOk regs heat (fld w 7 7) && decide ((fld w 4 3) < 8) && decide ((fld w 0 4) < 16), issAaddF32U (fld k 4 2) (fld w 14 7) (fld w 7 7) (fld w 4 3) (fld w 0 4)⟩
  | 0x18c => .ok ⟨fun regs heat => vOk regs heat (fld w 14 7) && vOk regs heat (fld w 7 7) && decide ((fld w 4 3) < 8) && decide ((fld w 0 4) < 16), issAaddF32O (fld w 14 7) (fld w 7 7) (fld w 4 3) (fld w 0 4)⟩
  | 0x190 => .ok ⟨fun regs heat => decide ((fld k 4 2) < 4) && vOk regs heat (fld w 14 7) && vOk regs heat (fld w 7 7) && decide ((fld w 4 3) < 8) && decide ((fld w 0 4) < 16), issAaddI32 (fld k 4 2) (fld w 14 7) (fld w 7 7) (fld w 4 3) (fld w 0 4)⟩
  | 0x191 => .ok ⟨fun regs heat => decide ((fld k 4 2) < 4) && vSpan regs heat (fld w 14 7) 1 && vOk regs heat (fld w 7 7) && decide ((fld w 4 3) < 8) && decide ((fld w 0 4) < 16), issAaddI64 (fld k 4 2) (fld w 14 7) (fld w 7 7) (fld w 4 3) (fld w 0 4)⟩
  | 0x192 => .ok ⟨fun regs heat => decide ((fld k 4 2) < 4) && vOk regs heat (fld w 14 7) && vOk regs heat (fld w 7 7) && decide ((fld w 4 3) < 8) && decide ((fld w 0 4) < 16), issAminI32 (fld k 4 2) (fld w 14 7) (fld w 7 7) (fld w 4 3) (fld w 0 4)⟩
  | 0x193 => .ok ⟨fun regs heat => decide ((fld k 4 2) < 4) && vOk regs heat (fld w 14 7) && vOk regs heat (fld w 7 7) && decide ((fld w 4 3) < 8) && decide ((fld w 0 4) < 16), issAmaxI32 (fld k 4 2) (fld w 14 7) (fld w 7 7) (fld w 4 3) (fld w 0 4)⟩
  | 0x194 => .ok ⟨fun regs heat => decide ((fld k 4 2) < 4) && vOk regs heat (fld w 14 7) && vOk regs heat (fld w 7 7) && decide ((fld w 4 3) < 8) && decide ((fld w 0 4) < 16), issAminN32 (fld k 4 2) (fld w 14 7) (fld w 7 7) (fld w 4 3) (fld w 0 4)⟩
  | 0x195 => .ok ⟨fun regs heat => decide ((fld k 4 2) < 4) && vOk regs heat (fld w 14 7) && vOk regs heat (fld w 7 7) && decide ((fld w 4 3) < 8) && decide ((fld w 0 4) < 16), issAmaxN32 (fld k 4 2) (fld w 14 7) (fld w 7 7) (fld w 4 3) (fld w 0 4)⟩
  | 0x196 => .ok ⟨fun regs heat => decide ((fld k 4 2) < 4) && vOk regs heat (fld w 14 7) && vOk regs heat (fld w 7 7) && decide ((fld w 4 3) < 8) && decide ((fld w 0 4) < 16), issAand (fld k 4 2) (fld w 14 7) (fld w 7 7) (fld w 4 3) (fld w 0 4)⟩
  | 0x197 => .ok ⟨fun regs heat => decide ((fld k 4 2) < 4) && vOk regs heat (fld w 14 7) && vOk regs heat (fld w 7 7) && decide ((fld w 4 3) < 8) && decide ((fld w 0 4) < 16), issAor (fld k 4 2) (fld w 14 7) (fld w 7 7) (fld w 4 3) (fld w 0 4)⟩
  | 0x198 => .ok ⟨fun regs heat => decide ((fld k 4 2) < 4) && vOk regs heat (fld w 14 7) && vOk regs heat (fld w 7 7) && decide ((fld w 4 3) < 8) && decide ((fld w 0 4) < 16), issAxor (fld k 4 2) (fld w 14 7) (fld w 7 7) (fld w 4 3) (fld w 0 4)⟩
  | 0x199 => .ok ⟨fun regs heat => decide ((fld k 4 2) < 4) && vOk regs heat (fld w 14 7) && vOk regs heat (fld w 7 7) && decide ((fld w 4 3) < 8) && decide ((fld w 0 4) < 16), issAxchg (fld k 4 2) (fld w 14 7) (fld w 7 7) (fld w 4 3) (fld w 0 4)⟩
  | 0x19a => .ok ⟨fun regs heat => decide ((fld k 4 2) < 4) && vSpan regs heat (fld w 14 7) 1 && vOk regs heat (fld w 7 7) && decide ((fld w 4 3) < 8) && decide ((fld w 0 4) < 16), issAcas (fld k 4 2) (fld w 14 7) (fld w 7 7) (fld w 4 3) (fld w 0 4)⟩
  | 0x19b => .ok ⟨fun regs heat => decide ((fld k 4 2) < 4) && vOk regs heat (fld w 14 7) && vOk regs heat (fld w 7 7) && decide ((fld w 4 3) < 8) && decide ((fld w 0 4) < 16), issAaddF32U (fld k 4 2) (fld w 14 7) (fld w 7 7) (fld w 4 3) (fld w 0 4)⟩
  | 0x19c => .error .reservedOrder
  | _ => .error .unassigned

/-- Keys 0x1a0 to 0x1bf, as decodeBlock13. -/
def infoBlock13 (k w l1 l2 : Nat) : Except DecodeErr Info :=
  match k with
  | 0x1a0 => .ok ⟨fun regs heat => decide ((fld k 4 2) < 4) && vOk regs heat (fld w 14 7) && vOk regs heat (fld w 7 7) && decide ((fld w 4 3) < 8) && decide ((fld w 0 4) < 16), issAaddI32 (fld k 4 2) (fld w 14 7) (fld w 7 7) (fld w 4 3) (fld w 0 4)⟩
  | 0x1a1 => .ok ⟨fun regs heat => decide ((fld k 4 2) < 4) && vSpan regs heat (fld w 14 7) 1 && vOk regs heat (fld w 7 7) && decide ((fld w 4 3) < 8) && decide ((fld w 0 4) < 16), issAaddI64 (fld k 4 2) (fld w 14 7) (fld w 7 7) (fld w 4 3) (fld w 0 4)⟩
  | 0x1a2 => .ok ⟨fun regs heat => decide ((fld k 4 2) < 4) && vOk regs heat (fld w 14 7) && vOk regs heat (fld w 7 7) && decide ((fld w 4 3) < 8) && decide ((fld w 0 4) < 16), issAminI32 (fld k 4 2) (fld w 14 7) (fld w 7 7) (fld w 4 3) (fld w 0 4)⟩
  | 0x1a3 => .ok ⟨fun regs heat => decide ((fld k 4 2) < 4) && vOk regs heat (fld w 14 7) && vOk regs heat (fld w 7 7) && decide ((fld w 4 3) < 8) && decide ((fld w 0 4) < 16), issAmaxI32 (fld k 4 2) (fld w 14 7) (fld w 7 7) (fld w 4 3) (fld w 0 4)⟩
  | 0x1a4 => .ok ⟨fun regs heat => decide ((fld k 4 2) < 4) && vOk regs heat (fld w 14 7) && vOk regs heat (fld w 7 7) && decide ((fld w 4 3) < 8) && decide ((fld w 0 4) < 16), issAminN32 (fld k 4 2) (fld w 14 7) (fld w 7 7) (fld w 4 3) (fld w 0 4)⟩
  | 0x1a5 => .ok ⟨fun regs heat => decide ((fld k 4 2) < 4) && vOk regs heat (fld w 14 7) && vOk regs heat (fld w 7 7) && decide ((fld w 4 3) < 8) && decide ((fld w 0 4) < 16), issAmaxN32 (fld k 4 2) (fld w 14 7) (fld w 7 7) (fld w 4 3) (fld w 0 4)⟩
  | 0x1a6 => .ok ⟨fun regs heat => decide ((fld k 4 2) < 4) && vOk regs heat (fld w 14 7) && vOk regs heat (fld w 7 7) && decide ((fld w 4 3) < 8) && decide ((fld w 0 4) < 16), issAand (fld k 4 2) (fld w 14 7) (fld w 7 7) (fld w 4 3) (fld w 0 4)⟩
  | 0x1a7 => .ok ⟨fun regs heat => decide ((fld k 4 2) < 4) && vOk regs heat (fld w 14 7) && vOk regs heat (fld w 7 7) && decide ((fld w 4 3) < 8) && decide ((fld w 0 4) < 16), issAor (fld k 4 2) (fld w 14 7) (fld w 7 7) (fld w 4 3) (fld w 0 4)⟩
  | 0x1a8 => .ok ⟨fun regs heat => decide ((fld k 4 2) < 4) && vOk regs heat (fld w 14 7) && vOk regs heat (fld w 7 7) && decide ((fld w 4 3) < 8) && decide ((fld w 0 4) < 16), issAxor (fld k 4 2) (fld w 14 7) (fld w 7 7) (fld w 4 3) (fld w 0 4)⟩
  | 0x1a9 => .ok ⟨fun regs heat => decide ((fld k 4 2) < 4) && vOk regs heat (fld w 14 7) && vOk regs heat (fld w 7 7) && decide ((fld w 4 3) < 8) && decide ((fld w 0 4) < 16), issAxchg (fld k 4 2) (fld w 14 7) (fld w 7 7) (fld w 4 3) (fld w 0 4)⟩
  | 0x1aa => .ok ⟨fun regs heat => decide ((fld k 4 2) < 4) && vSpan regs heat (fld w 14 7) 1 && vOk regs heat (fld w 7 7) && decide ((fld w 4 3) < 8) && decide ((fld w 0 4) < 16), issAcas (fld k 4 2) (fld w 14 7) (fld w 7 7) (fld w 4 3) (fld w 0 4)⟩
  | 0x1ab => .ok ⟨fun regs heat => decide ((fld k 4 2) < 4) && vOk regs heat (fld w 14 7) && vOk regs heat (fld w 7 7) && decide ((fld w 4 3) < 8) && decide ((fld w 0 4) < 16), issAaddF32U (fld k 4 2) (fld w 14 7) (fld w 7 7) (fld w 4 3) (fld w 0 4)⟩
  | 0x1ac => .error .reservedOrder
  | 0x1b0 => .ok ⟨fun regs heat => decide ((fld k 4 2) < 4) && vOk regs heat (fld w 14 7) && vOk regs heat (fld w 7 7) && decide ((fld w 4 3) < 8) && decide ((fld w 0 4) < 16), issAaddI32 (fld k 4 2) (fld w 14 7) (fld w 7 7) (fld w 4 3) (fld w 0 4)⟩
  | 0x1b1 => .ok ⟨fun regs heat => decide ((fld k 4 2) < 4) && vSpan regs heat (fld w 14 7) 1 && vOk regs heat (fld w 7 7) && decide ((fld w 4 3) < 8) && decide ((fld w 0 4) < 16), issAaddI64 (fld k 4 2) (fld w 14 7) (fld w 7 7) (fld w 4 3) (fld w 0 4)⟩
  | 0x1b2 => .ok ⟨fun regs heat => decide ((fld k 4 2) < 4) && vOk regs heat (fld w 14 7) && vOk regs heat (fld w 7 7) && decide ((fld w 4 3) < 8) && decide ((fld w 0 4) < 16), issAminI32 (fld k 4 2) (fld w 14 7) (fld w 7 7) (fld w 4 3) (fld w 0 4)⟩
  | 0x1b3 => .ok ⟨fun regs heat => decide ((fld k 4 2) < 4) && vOk regs heat (fld w 14 7) && vOk regs heat (fld w 7 7) && decide ((fld w 4 3) < 8) && decide ((fld w 0 4) < 16), issAmaxI32 (fld k 4 2) (fld w 14 7) (fld w 7 7) (fld w 4 3) (fld w 0 4)⟩
  | 0x1b4 => .ok ⟨fun regs heat => decide ((fld k 4 2) < 4) && vOk regs heat (fld w 14 7) && vOk regs heat (fld w 7 7) && decide ((fld w 4 3) < 8) && decide ((fld w 0 4) < 16), issAminN32 (fld k 4 2) (fld w 14 7) (fld w 7 7) (fld w 4 3) (fld w 0 4)⟩
  | 0x1b5 => .ok ⟨fun regs heat => decide ((fld k 4 2) < 4) && vOk regs heat (fld w 14 7) && vOk regs heat (fld w 7 7) && decide ((fld w 4 3) < 8) && decide ((fld w 0 4) < 16), issAmaxN32 (fld k 4 2) (fld w 14 7) (fld w 7 7) (fld w 4 3) (fld w 0 4)⟩
  | 0x1b6 => .ok ⟨fun regs heat => decide ((fld k 4 2) < 4) && vOk regs heat (fld w 14 7) && vOk regs heat (fld w 7 7) && decide ((fld w 4 3) < 8) && decide ((fld w 0 4) < 16), issAand (fld k 4 2) (fld w 14 7) (fld w 7 7) (fld w 4 3) (fld w 0 4)⟩
  | 0x1b7 => .ok ⟨fun regs heat => decide ((fld k 4 2) < 4) && vOk regs heat (fld w 14 7) && vOk regs heat (fld w 7 7) && decide ((fld w 4 3) < 8) && decide ((fld w 0 4) < 16), issAor (fld k 4 2) (fld w 14 7) (fld w 7 7) (fld w 4 3) (fld w 0 4)⟩
  | 0x1b8 => .ok ⟨fun regs heat => decide ((fld k 4 2) < 4) && vOk regs heat (fld w 14 7) && vOk regs heat (fld w 7 7) && decide ((fld w 4 3) < 8) && decide ((fld w 0 4) < 16), issAxor (fld k 4 2) (fld w 14 7) (fld w 7 7) (fld w 4 3) (fld w 0 4)⟩
  | 0x1b9 => .ok ⟨fun regs heat => decide ((fld k 4 2) < 4) && vOk regs heat (fld w 14 7) && vOk regs heat (fld w 7 7) && decide ((fld w 4 3) < 8) && decide ((fld w 0 4) < 16), issAxchg (fld k 4 2) (fld w 14 7) (fld w 7 7) (fld w 4 3) (fld w 0 4)⟩
  | 0x1ba => .ok ⟨fun regs heat => decide ((fld k 4 2) < 4) && vSpan regs heat (fld w 14 7) 1 && vOk regs heat (fld w 7 7) && decide ((fld w 4 3) < 8) && decide ((fld w 0 4) < 16), issAcas (fld k 4 2) (fld w 14 7) (fld w 7 7) (fld w 4 3) (fld w 0 4)⟩
  | 0x1bb => .ok ⟨fun regs heat => decide ((fld k 4 2) < 4) && vOk regs heat (fld w 14 7) && vOk regs heat (fld w 7 7) && decide ((fld w 4 3) < 8) && decide ((fld w 0 4) < 16), issAaddF32U (fld k 4 2) (fld w 14 7) (fld w 7 7) (fld w 4 3) (fld w 0 4)⟩
  | 0x1bc => .error .reservedOrder
  | _ => .error .unassigned

/-- Keys 0x1c0 to 0x1df, as decodeBlock14. -/
def infoBlock14 (k w l1 l2 : Nat) : Except DecodeErr Info :=
  match k with
  | 0x1c0 => .ok ⟨fun regs heat => vOk regs heat (fld w 14 7) && vOk regs heat (fld w 7 7) && decide ((fld w 4 3) < 8) && decide ((fld w 0 4) < 16), issLdl (fld w 14 7) (fld w 7 7) (fld w 4 3) (fld w 0 4)⟩
  | 0x1c1 => .ok ⟨fun regs heat => vOk regs heat (fld w 14 7) && vOk regs heat (fld w 7 7) && decide ((fld w 4 3) < 8) && decide ((fld w 0 4) < 16), issStul (fld w 14 7) (fld w 7 7) (fld w 4 3) (fld w 0 4)⟩
  | 0x1c2 => .ok ⟨fun regs heat => vOk regs heat (fld w 14 7) && vOk regs heat (fld w 7 7) && decide ((fld w 4 3) < 8) && decide ((fld w 0 4) < 16), issGaddI32 (fld w 14 7) (fld w 7 7) (fld w 4 3) (fld w 0 4)⟩
  | 0x1c3 => .ok ⟨fun regs heat => vOk regs heat (fld w 14 7) && vOk regs heat (fld w 7 7) && decide ((fld w 4 3) < 8) && decide ((fld w 0 4) < 16), issGaddF32 (fld w 14 7) (fld w 7 7) (fld w 4 3) (fld w 0 4)⟩
  | 0x1c4 => .ok ⟨fun regs heat => vOk regs heat (fld w 14 7) && vOk regs heat (fld w 7 7) && decide ((fld w 4 3) < 8) && decide ((fld w 0 4) < 16), issGmaxI32 (fld w 14 7) (fld w 7 7) (fld w 4 3) (fld w 0 4)⟩
  | 0x1c5 => .ok ⟨fun regs heat => vOk regs heat (fld w 14 7) && vOk regs heat (fld w 7 7) && decide ((fld w 4 3) < 8) && decide ((fld w 0 4) < 16), issGxchg (fld w 14 7) (fld w 7 7) (fld w 4 3) (fld w 0 4)⟩
  | 0x1c6 => .ok ⟨fun regs heat => vSpan regs heat (fld w 14 7) 1 && vOk regs heat (fld w 7 7) && decide ((fld w 4 3) < 8) && decide ((fld w 0 4) < 16), issGcas (fld w 14 7) (fld w 7 7) (fld w 4 3) (fld w 0 4)⟩
  | 0x1d0 => infoIf (fld w 0 7) ⟨fun regs heat => decide ((fld w 14 7) < 4) && vOk regs heat (fld w 7 7), issCkaccI32 (fld w 14 7) (fld w 7 7)⟩
  | 0x1d1 => infoIf (fld w 0 7) ⟨fun regs heat => decide ((fld w 14 7) < 4) && vOk regs heat (fld w 7 7), issCkaccF32 (fld w 14 7) (fld w 7 7)⟩
  | 0x1d2 => infoIf (fld w 0 7) ⟨fun regs heat => decide ((fld w 14 7) < 4) && vOk regs heat (fld w 7 7), issCkaccSig (fld w 14 7) (fld w 7 7)⟩
  | _ => .error .unassigned

/-- Keys 0x220 to 0x23f, as decodeBlock17. -/
def infoBlock17 (k w l1 l2 : Nat) : Except DecodeErr Info :=
  match k with
  | 0x220 => infoIf (fld w 0 7) ⟨fun regs heat => vOk regs heat (fld w 14 7) && vOk regs heat (fld w 7 7) && decide (l1 < 4294967296), issVaddiTwin (fld w 14 7) (fld w 7 7) l1⟩
  | 0x224 => infoIf (fld w 0 7) ⟨fun regs heat => vOk regs heat (fld w 14 7) && vOk regs heat (fld w 7 7) && decide (l1 < 4294967296), issVandiTwin (fld w 14 7) (fld w 7 7) l1⟩
  | 0x225 => infoIf (fld w 0 14) ⟨fun regs heat => vOk regs heat (fld w 14 7) && decide (l1 < 4294967296), issVliTwin (fld w 14 7) l1⟩
  | _ => .error .unassigned

/-- Keys 0x300 to 0x31f, as decodeBlock24. -/
def infoBlock24 (k w l1 l2 : Nat) : Except DecodeErr Info :=
  match k with
  | 0x300 => .ok ⟨fun regs heat => vOk regs heat (fld w 14 7) && vOk regs heat (fld w 7 7) && decide ((fld w 4 3) < 8) && decide ((fld w 0 4) < 16) && decide (l1 < 4294967296), issLdN8Twin (fld w 14 7) (fld w 7 7) (fld w 4 3) (fld w 0 4) l1⟩
  | 0x301 => .ok ⟨fun regs heat => vOk regs heat (fld w 14 7) && vOk regs heat (fld w 7 7) && decide ((fld w 4 3) < 8) && decide ((fld w 0 4) < 16) && decide (l1 < 4294967296), issLdI8Twin (fld w 14 7) (fld w 7 7) (fld w 4 3) (fld w 0 4) l1⟩
  | 0x302 => .ok ⟨fun regs heat => vOk regs heat (fld w 14 7) && vOk regs heat (fld w 7 7) && decide ((fld w 4 3) < 8) && decide ((fld w 0 4) < 16) && decide (l1 < 4294967296), issLdN16Twin (fld w 14 7) (fld w 7 7) (fld w 4 3) (fld w 0 4) l1⟩
  | 0x303 => .ok ⟨fun regs heat => vOk regs heat (fld w 14 7) && vOk regs heat (fld w 7 7) && decide ((fld w 4 3) < 8) && decide ((fld w 0 4) < 16) && decide (l1 < 4294967296), issLdI16Twin (fld w 14 7) (fld w 7 7) (fld w 4 3) (fld w 0 4) l1⟩
  | 0x304 => .ok ⟨fun regs heat => vOk regs heat (fld w 14 7) && vOk regs heat (fld w 7 7) && decide ((fld w 4 3) < 8) && decide ((fld w 0 4) < 16) && decide (l1 < 4294967296), issLdB32Twin (fld w 14 7) (fld w 7 7) (fld w 4 3) (fld w 0 4) l1⟩
  | 0x305 => .ok ⟨fun regs heat => vSpan regs heat (fld w 14 7) 1 && vOk regs heat (fld w 7 7) && decide ((fld w 4 3) < 8) && decide ((fld w 0 4) < 16) && decide (l1 < 4294967296), issLdB64Twin (fld w 14 7) (fld w 7 7) (fld w 4 3) (fld w 0 4) l1⟩
  | 0x306 => .ok ⟨fun regs heat => vSpan regs heat (fld w 14 7) 3 && vOk regs heat (fld w 7 7) && decide ((fld w 4 3) < 8) && decide ((fld w 0 4) < 16) && decide (l1 < 4294967296), issLdB128Twin (fld w 14 7) (fld w 7 7) (fld w 4 3) (fld w 0 4) l1⟩
  | 0x308 => .ok ⟨fun regs heat => vOk regs heat (fld w 14 7) && vOk regs heat (fld w 7 7) && decide ((fld w 4 3) < 8) && decide ((fld w 0 4) < 16) && decide (l1 < 4294967296), issStB8Twin (fld w 14 7) (fld w 7 7) (fld w 4 3) (fld w 0 4) l1⟩
  | 0x309 => .ok ⟨fun regs heat => vOk regs heat (fld w 14 7) && vOk regs heat (fld w 7 7) && decide ((fld w 4 3) < 8) && decide ((fld w 0 4) < 16) && decide (l1 < 4294967296), issStB16Twin (fld w 14 7) (fld w 7 7) (fld w 4 3) (fld w 0 4) l1⟩
  | 0x30a => .ok ⟨fun regs heat => vOk regs heat (fld w 14 7) && vOk regs heat (fld w 7 7) && decide ((fld w 4 3) < 8) && decide ((fld w 0 4) < 16) && decide (l1 < 4294967296), issStB32Twin (fld w 14 7) (fld w 7 7) (fld w 4 3) (fld w 0 4) l1⟩
  | 0x30b => .ok ⟨fun regs heat => vSpan regs heat (fld w 14 7) 1 && vOk regs heat (fld w 7 7) && decide ((fld w 4 3) < 8) && decide ((fld w 0 4) < 16) && decide (l1 < 4294967296), issStB64Twin (fld w 14 7) (fld w 7 7) (fld w 4 3) (fld w 0 4) l1⟩
  | 0x30c => .ok ⟨fun regs heat => vSpan regs heat (fld w 14 7) 3 && vOk regs heat (fld w 7 7) && decide ((fld w 4 3) < 8) && decide ((fld w 0 4) < 16) && decide (l1 < 4294967296), issStB128Twin (fld w 14 7) (fld w 7 7) (fld w 4 3) (fld w 0 4) l1⟩
  | 0x310 => .ok ⟨fun regs heat => vOk regs heat (fld w 14 7) && vOk regs heat (fld w 7 7) && decide ((fld w 4 3) < 8) && decide ((fld w 0 4) < 16) && decide (l1 < 4294967296), issLdBf16Twin (fld w 14 7) (fld w 7 7) (fld w 4 3) (fld w 0 4) l1⟩
  | 0x311 => .ok ⟨fun regs heat => vOk regs heat (fld w 14 7) && vOk regs heat (fld w 7 7) && decide ((fld w 4 3) < 8) && decide ((fld w 0 4) < 16) && decide (l1 < 4294967296), issLdF16Twin (fld w 14 7) (fld w 7 7) (fld w 4 3) (fld w 0 4) l1⟩
  | 0x312 => .ok ⟨fun regs heat => vOk regs heat (fld w 14 7) && vOk regs heat (fld w 7 7) && decide ((fld w 4 3) < 8) && decide ((fld w 0 4) < 16) && decide (l1 < 4294967296), issLdE4m3Twin (fld w 14 7) (fld w 7 7) (fld w 4 3) (fld w 0 4) l1⟩
  | 0x313 => .ok ⟨fun regs heat => vOk regs heat (fld w 14 7) && vOk regs heat (fld w 7 7) && decide ((fld w 4 3) < 8) && decide ((fld w 0 4) < 16) && decide (l1 < 4294967296), issLdE5m2Twin (fld w 14 7) (fld w 7 7) (fld w 4 3) (fld w 0 4) l1⟩
  | 0x314 => .ok ⟨fun regs heat => vSpan regs heat (fld w 14 7) 1 && vOk regs heat (fld w 7 7) && decide ((fld w 4 3) < 7) && decide ((fld w 0 4) < 16) && decide (l1 < 4294967296) && l1 % 32 == 0, issLdZb4Twin (fld w 14 7) (fld w 7 7) (fld w 4 3) (fld w 0 4) l1⟩
  | 0x315 => .ok ⟨fun regs heat => vSpan regs heat (fld w 14 7) 1 && vOk regs heat (fld w 7 7) && decide ((fld w 4 3) < 7) && decide ((fld w 0 4) < 16) && decide (l1 < 4294967296) && l1 % 64 == 0, issLdZb8Twin (fld w 14 7) (fld w 7 7) (fld w 4 3) (fld w 0 4) l1⟩
  | 0x318 => .ok ⟨fun regs heat => vOk regs heat (fld w 14 7) && vOk regs heat (fld w 7 7) && decide ((fld w 4 3) < 8) && decide ((fld w 0 4) < 16) && decide (l1 < 4294967296), issStBf16Twin (fld w 14 7) (fld w 7 7) (fld w 4 3) (fld w 0 4) l1⟩
  | 0x319 => .ok ⟨fun regs heat => vOk regs heat (fld w 14 7) && vOk regs heat (fld w 7 7) && decide ((fld w 4 3) < 8) && decide ((fld w 0 4) < 16) && decide (l1 < 4294967296), issStF16Twin (fld w 14 7) (fld w 7 7) (fld w 4 3) (fld w 0 4) l1⟩
  | 0x31a => .ok ⟨fun regs heat => vOk regs heat (fld w 14 7) && vOk regs heat (fld w 7 7) && decide ((fld w 4 3) < 8) && decide ((fld w 0 4) < 16) && decide (l1 < 4294967296), issStE4m3Twin (fld w 14 7) (fld w 7 7) (fld w 4 3) (fld w 0 4) l1⟩
  | 0x31b => .ok ⟨fun regs heat => vOk regs heat (fld w 14 7) && vOk regs heat (fld w 7 7) && decide ((fld w 4 3) < 8) && decide ((fld w 0 4) < 16) && decide (l1 < 4294967296), issStE5m2Twin (fld w 14 7) (fld w 7 7) (fld w 4 3) (fld w 0 4) l1⟩
  | 0x31c => .ok ⟨fun regs heat => vSpan regs heat (fld w 14 7) 1 && vOk regs heat (fld w 7 7) && decide ((fld w 4 3) < 7) && decide ((fld w 0 4) < 16) && decide (l1 < 4294967296) && l1 % 32 == 0, issStZb4Twin (fld w 14 7) (fld w 7 7) (fld w 4 3) (fld w 0 4) l1⟩
  | 0x31d => .ok ⟨fun regs heat => vSpan regs heat (fld w 14 7) 1 && vOk regs heat (fld w 7 7) && decide ((fld w 4 3) < 7) && decide ((fld w 0 4) < 16) && decide (l1 < 4294967296) && l1 % 64 == 0, issStZb8Twin (fld w 14 7) (fld w 7 7) (fld w 4 3) (fld w 0 4) l1⟩
  | 0x31e => .ok ⟨fun regs heat => vOk regs heat (fld w 14 7) && vOk regs heat (fld w 7 7) && decide ((fld w 4 3) < 8) && decide ((fld w 0 4) < 16) && decide (l1 < 4294967296), issVspillTwin (fld w 14 7) (fld w 7 7) (fld w 4 3) (fld w 0 4) l1⟩
  | 0x31f => .ok ⟨fun regs heat => vOk regs heat (fld w 14 7) && vOk regs heat (fld w 7 7) && decide ((fld w 4 3) < 8) && decide ((fld w 0 4) < 16) && decide (l1 < 4294967296), issVfillTwin (fld w 14 7) (fld w 7 7) (fld w 4 3) (fld w 0 4) l1⟩
  | _ => .error .unassigned

/-- Keys 0x400 to 0x41f, as decodeBlock32. -/
def infoBlock32 (k w l1 l2 : Nat) : Except DecodeErr Info :=
  match k with
  | 0x400 => .ok ⟨fun _ _ => decide ((fld w 15 6) < 64) && decide ((fld w 9 6) < 64) && decide ((fld w 3 6) < 64) && decide ((fld w 0 3) < 8), issSadd (fld w 15 6) (fld w 9 6) (fld w 3 6) (fld w 0 3)⟩
  | 0x401 => .ok ⟨fun _ _ => decide ((fld w 15 6) < 64) && decide ((fld w 9 6) < 64) && decide ((fld w 3 6) < 64) && decide ((fld w 0 3) < 8), issSsub (fld w 15 6) (fld w 9 6) (fld w 3 6) (fld w 0 3)⟩
  | 0x402 => .ok ⟨fun _ _ => decide ((fld w 15 6) < 64) && decide ((fld w 9 6) < 64) && decide ((fld w 3 6) < 64) && decide ((fld w 0 3) < 8), issSmul (fld w 15 6) (fld w 9 6) (fld w 3 6) (fld w 0 3)⟩
  | 0x403 => .ok ⟨fun _ _ => decide ((fld w 15 6) < 64) && decide ((fld w 9 6) < 64) && decide ((fld w 3 6) < 64) && decide ((fld w 0 3) < 8), issSmulh (fld w 15 6) (fld w 9 6) (fld w 3 6) (fld w 0 3)⟩
  | 0x404 => .ok ⟨fun _ _ => decide ((fld w 15 6) < 64) && decide ((fld w 9 6) < 64) && decide ((fld w 3 6) < 64) && decide ((fld w 0 3) < 8), issSand (fld w 15 6) (fld w 9 6) (fld w 3 6) (fld w 0 3)⟩
  | 0x405 => .ok ⟨fun _ _ => decide ((fld w 15 6) < 64) && decide ((fld w 9 6) < 64) && decide ((fld w 3 6) < 64) && decide ((fld w 0 3) < 8), issSor (fld w 15 6) (fld w 9 6) (fld w 3 6) (fld w 0 3)⟩
  | 0x406 => .ok ⟨fun _ _ => decide ((fld w 15 6) < 64) && decide ((fld w 9 6) < 64) && decide ((fld w 3 6) < 64) && decide ((fld w 0 3) < 8), issSxor (fld w 15 6) (fld w 9 6) (fld w 3 6) (fld w 0 3)⟩
  | 0x407 => .ok ⟨fun _ _ => decide ((fld w 15 6) < 64) && decide ((fld w 9 6) < 64) && decide ((fld w 3 6) < 64) && decide ((fld w 0 3) < 8), issSshl (fld w 15 6) (fld w 9 6) (fld w 3 6) (fld w 0 3)⟩
  | 0x408 => .ok ⟨fun _ _ => decide ((fld w 15 6) < 64) && decide ((fld w 9 6) < 64) && decide ((fld w 3 6) < 64) && decide ((fld w 0 3) < 8), issSshrN (fld w 15 6) (fld w 9 6) (fld w 3 6) (fld w 0 3)⟩
  | 0x409 => .ok ⟨fun _ _ => decide ((fld w 15 6) < 64) && decide ((fld w 9 6) < 64) && decide ((fld w 3 6) < 64) && decide ((fld w 0 3) < 8), issSshrI (fld w 15 6) (fld w 9 6) (fld w 3 6) (fld w 0 3)⟩
  | 0x40a => .ok ⟨fun _ _ => decide ((fld w 15 6) < 64) && decide ((fld w 9 6) < 64) && decide ((fld w 3 6) < 64) && decide ((fld w 0 3) < 8), issSminI (fld w 15 6) (fld w 9 6) (fld w 3 6) (fld w 0 3)⟩
  | 0x40b => .ok ⟨fun _ _ => decide ((fld w 15 6) < 64) && decide ((fld w 9 6) < 64) && decide ((fld w 3 6) < 64) && decide ((fld w 0 3) < 8), issSmaxI (fld w 15 6) (fld w 9 6) (fld w 3 6) (fld w 0 3)⟩
  | 0x40c => infoIf (fld w 3 6) ⟨fun _ _ => decide ((fld w 15 6) < 64) && decide ((fld w 9 6) < 64) && decide ((fld w 0 3) < 8), issSmov (fld w 15 6) (fld w 9 6) (fld w 0 3)⟩
  | 0x40d => .ok ⟨fun _ _ => decide ((fld w 15 6) < 64) && decide ((fld w 9 6) < 64) && decide ((fld w 3 6) < 64) && decide ((fld w 0 3) < 8), issSsel (fld w 15 6) (fld w 9 6) (fld w 3 6) (fld w 0 3)⟩
  | 0x40e => infoIf (fld w 3 6) ⟨fun _ _ => decide ((fld w 15 6) < 64) && decide ((fld w 9 6) < 64) && decide ((fld w 0 3) < 8), issSpopc (fld w 15 6) (fld w 9 6) (fld w 0 3)⟩
  | 0x40f => infoIf (fld w 3 6) ⟨fun _ _ => decide ((fld w 15 6) < 64) && decide ((fld w 9 6) < 64) && decide ((fld w 0 3) < 8), issSclz (fld w 15 6) (fld w 9 6) (fld w 0 3)⟩
  | 0x410 => .ok ⟨fun _ _ => decide ((fld w 18 3) < 8) && decide ((fld w 15 3) < 8) && decide ((fld w 9 6) < 64) && decide ((fld w 3 6) < 64) && decide ((fld w 0 3) < 8), issScmpI (fld w 18 3) (fld w 15 3) (fld w 9 6) (fld w 3 6) (fld w 0 3)⟩
  | 0x411 => .ok ⟨fun _ _ => decide ((fld w 18 3) < 8) && decide ((fld w 15 3) < 8) && decide ((fld w 9 6) < 64) && decide ((fld w 3 6) < 64) && decide ((fld w 0 3) < 8), issScmpN (fld w 18 3) (fld w 15 3) (fld w 9 6) (fld w 3 6) (fld w 0 3)⟩
  | _ => .error .unassigned

/-- Keys 0x420 to 0x43f, as decodeBlock33. -/
def infoBlock33 (k w l1 l2 : Nat) : Except DecodeErr Info :=
  match k with
  | 0x420 => .ok ⟨fun _ _ => decide ((fld w 15 6) < 64) && decide ((fld w 9 6) < 64) && decide ((fld w 0 9) < 512), issSaddi (fld w 15 6) (fld w 9 6) (fld w 0 9)⟩
  | 0x421 => .ok ⟨fun _ _ => decide ((fld w 15 6) < 64) && decide ((fld w 9 6) < 64) && decide ((fld w 0 9) < 64), issSshli (fld w 15 6) (fld w 9 6) (fld w 0 9)⟩
  | 0x422 => .ok ⟨fun _ _ => decide ((fld w 15 6) < 64) && decide ((fld w 9 6) < 64) && decide ((fld w 0 9) < 512), issSandi (fld w 15 6) (fld w 9 6) (fld w 0 9)⟩
  | 0x423 => infoIf (fld w 9 6) ⟨fun _ _ => decide ((fld w 15 6) < 64) && decide ((fld w 0 9) < 512), issSli (fld w 15 6) (fld w 0 9)⟩
  | 0x428 => infoIf (fld w 9 6) ⟨fun _ _ => decide ((fld w 15 6) < 64) && decide ((fld w 0 9) < 7), issSid (fld w 15 6) (fld w 0 9)⟩
  | 0x429 => .ok ⟨fun _ _ => decide ((fld w 18 3) < 8) && decide ((fld w 15 3) < 8) && decide ((fld w 9 6) < 8) && decide ((fld w 3 6) < 8) && decide ((fld w 0 3) < 8), issQlog (fld w 18 3) (fld w 15 3) (fld w 9 6) (fld w 3 6) (fld w 0 3)⟩
  | _ => .error .unassigned

/-- Keys 0x440 to 0x45f, as decodeBlock34. -/
def infoBlock34 (k w l1 l2 : Nat) : Except DecodeErr Info :=
  match k with
  | 0x440 => .ok ⟨fun _ _ => cDst (fld w 15 6) && decide ((fld w 9 6) < 32) && decide ((fld w 3 6) < 64) && decide ((fld w 0 3) < 8) && (fld w 3 6) % 2 == 0, issCbnd (fld w 15 6) (fld w 9 6) (fld w 3 6) (fld w 0 3)⟩
  | 0x441 => .ok ⟨fun _ _ => cDst (fld w 15 6) && decide ((fld w 9 6) < 32) && decide ((fld w 3 6) < 64) && decide ((fld w 0 3) < 8), issCrgt (fld w 15 6) (fld w 9 6) (fld w 3 6) (fld w 0 3)⟩
  | 0x442 => .ok ⟨fun _ _ => cDst (fld w 15 6) && decide ((fld w 9 6) < 32) && decide ((fld w 3 6) < 64) && decide ((fld w 0 3) < 8), issCcol (fld w 15 6) (fld w 9 6) (fld w 3 6) (fld w 0 3)⟩
  | 0x443 => .ok ⟨fun _ _ => decide ((fld w 15 6) < 64) && decide ((fld w 9 6) < 32) && decide ((fld w 3 6) < 8) && decide ((fld w 0 3) < 8), issCget (fld w 15 6) (fld w 9 6) (fld w 3 6) (fld w 0 3)⟩
  | 0x444 => infoIf (fld w 3 6) ⟨fun _ _ => cDst (fld w 15 6) && decide ((fld w 9 6) < 32) && decide ((fld w 0 3) < 8), issCmov (fld w 15 6) (fld w 9 6) (fld w 0 3)⟩
  | 0x445 => .ok ⟨fun _ _ => cDst (fld w 15 6) && decide ((fld w 10 5) < 32) && decide ((fld w 4 6) < 64) && decide ((fld w 0 4) < 16), issCld (fld w 15 6) (fld w 10 5) (fld w 4 6) (fld w 0 4)⟩
  | 0x446 => .ok ⟨fun _ _ => decide ((fld w 15 6) < 32) && decide ((fld w 10 5) < 32) && decide ((fld w 4 6) < 64) && decide ((fld w 0 4) < 16), issCst (fld w 15 6) (fld w 10 5) (fld w 4 6) (fld w 0 4)⟩
  | 0x447 => .ok ⟨fun _ _ => decide ((fld w 15 6) < 64) && decide ((fld w 10 5) < 32) && decide ((fld w 4 6) < 64) && decide ((fld w 0 4) < 16), issCtag (fld w 15 6) (fld w 10 5) (fld w 4 6) (fld w 0 4)⟩
  | 0x448 => .ok ⟨fun _ _ => decide ((fld w 18 3) < 8) && decide ((fld w 15 3) < 7) && decide ((fld w 9 6) < 32) && decide ((fld w 3 6) < 64) && decide ((fld w 0 3) < 8) && (fld w 3 6) % 2 == 0, issCchk (fld w 18 3) (fld w 15 3) (fld w 9 6) (fld w 3 6) (fld w 0 3)⟩
  | 0x449 => infoIf (fld w 3 12) ⟨fun _ _ => cDst (fld w 15 6) && decide ((fld w 0 3) < 8), issCnull (fld w 15 6) (fld w 0 3)⟩
  | _ => .error .unassigned

/-- Keys 0x460 to 0x47f, as decodeBlock35. -/
def infoBlock35 (k w l1 l2 : Nat) : Except DecodeErr Info :=
  match k with
  | 0x460 => .ok ⟨fun _ _ => decide ((fld w 18 3) < 8) && decide ((fld w 0 18) < 262144), issBq (fld w 18 3) (fld w 0 18)⟩
  | 0x461 => .ok ⟨fun _ _ => decide ((fld w 18 3) < 8) && decide ((fld w 0 18) < 262144), issBqn (fld w 18 3) (fld w 0 18)⟩
  | 0x462 => .ok ⟨fun _ _ => decide ((fld w 18 3) < 8) && decide ((fld w 0 18) < 262144), issBrl (fld w 18 3) (fld w 0 18)⟩
  | 0x463 => .ok ⟨fun _ _ => decide ((fld w 18 3) < 8) && decide ((fld w 0 18) < 262144), issBrln (fld w 18 3) (fld w 0 18)⟩
  | 0x464 => infoIf (fld w 18 3) ⟨fun _ _ => decide ((fld w 0 18) < 262144), issCall (fld w 0 18)⟩
  | 0x465 => infoIf (fld w 3 6 + fld w 15 6) ⟨fun _ _ => decide ((fld w 9 6) < 64) && decide ((fld w 0 3) < 8), issRet (fld w 9 6) (fld w 0 3)⟩
  | 0x466 => .ok ⟨fun _ _ => decide ((fld w 15 6) < 64) && decide ((fld w 9 6) < 32) && decide ((fld w 3 6) < 64) && decide ((fld w 0 3) < 8), issJmpc (fld w 15 6) (fld w 9 6) (fld w 3 6) (fld w 0 3)⟩
  | 0x468 => infoIf (fld w 3 18) ⟨fun _ _ => decide ((fld w 0 3) < 8), issReform (fld w 0 3)⟩
  | 0x469 => infoIf (fld w 0 13) ⟨fun _ _ => decide ((fld w 18 3) < 8) && decide (1 ≤ (fld w 13 5 + 1)) && decide ((fld w 13 5 + 1) ≤ 32) && masksOk (fld w 13 5 + 1) (heatMasks w l1 l2), issHeat (fld w 18 3) (fld w 13 5 + 1) (heatMasks w l1 l2)⟩
  | 0x46a => infoIf (fld w 0 9) ⟨fun _ _ => decide ((fld w 15 6) < 64) && decide ((fld w 9 6) < 64), issHmap (fld w 15 6) (fld w 9 6)⟩
  | 0x46b => infoIf (fld w 3 18) ⟨fun _ _ => decide ((fld w 0 3) < 8), issExit (fld w 0 3)⟩
  | 0x46c => infoIf (fld w 3 18) ⟨fun _ _ => decide ((fld w 0 3) < 8), issNop (fld w 0 3)⟩
  | 0x46d => infoIf (fld w 9 12) ⟨fun _ _ => decide ((fld w 0 9) < 256), issWaitm (fld w 0 9)⟩
  | 0x46e => infoIf (fld w 9 12) ⟨fun _ _ => decide ((fld w 0 9) < 256), issWaits (fld w 0 9)⟩
  | _ => .error .unassigned

/-- Keys 0x480 to 0x49f, as decodeBlock36. -/
def infoBlock36 (k w l1 l2 : Nat) : Except DecodeErr Info :=
  match k with
  | 0x480 => .ok ⟨fun _ _ => decide ((fld w 15 6) < 64) && decide ((fld w 10 5) < 32) && decide ((fld w 4 6) < 64) && decide ((fld w 0 4) < 16), issSldB32 (fld w 15 6) (fld w 10 5) (fld w 4 6) (fld w 0 4)⟩
  | 0x481 => .ok ⟨fun _ _ => decide ((fld w 15 6) < 64) && decide ((fld w 10 5) < 32) && decide ((fld w 4 6) < 64) && decide ((fld w 0 4) < 16), issSldB64 (fld w 15 6) (fld w 10 5) (fld w 4 6) (fld w 0 4)⟩
  | 0x482 => .ok ⟨fun _ _ => decide ((fld w 15 6) < 64) && decide ((fld w 10 5) < 32) && decide ((fld w 4 6) < 64) && decide ((fld w 0 4) < 16), issSstB32 (fld w 15 6) (fld w 10 5) (fld w 4 6) (fld w 0 4)⟩
  | 0x483 => .ok ⟨fun _ _ => decide ((fld w 15 6) < 64) && decide ((fld w 10 5) < 32) && decide ((fld w 4 6) < 64) && decide ((fld w 0 4) < 16), issSstB64 (fld w 15 6) (fld w 10 5) (fld w 4 6) (fld w 0 4)⟩
  | 0x490 => infoFence w
  | 0x491 => infoIf (fld w 9 12) ⟨fun _ _ => decide ((fld w 0 9) < 3), issBar (fld w 0 9)⟩
  | 0x492 => infoIf (fld w 9 12) ⟨fun _ _ => decide ((fld w 0 9) < 3), issBara (fld w 0 9)⟩
  | 0x493 => infoIf (fld w 9 12) ⟨fun _ _ => decide ((fld w 0 9) < 3), issBarw (fld w 0 9)⟩
  | 0x494 => infoIf (fld w 8 13) ⟨fun _ _ => decide (0 < (fld w 0 8)) && decide ((fld w 0 8) < 256), issGstep (fld w 0 8)⟩
  | 0x495 => infoIf (fld w 0 4 + fld w 9 6) ⟨fun _ _ => decide ((fld w 15 6) < 64) && decide ((fld w 4 5) < 8), issGcfg (fld w 15 6) (fld w 4 5)⟩
  | _ => .error .unassigned

/-- Keys 0x4a0 to 0x4bf, as decodeBlock37. -/
def infoBlock37 (k w l1 l2 : Nat) : Except DecodeErr Info :=
  match k with
  | 0x4a0 => .ok ⟨fun _ _ => blockReg (fld w 15 6) && decide ((fld w 9 6) < 32) && decide ((fld w 4 5) < 32) && decide ((fld w 0 4) < 16), issCpy (fld w 15 6) (fld w 9 6) (fld w 4 5) (fld w 0 4)⟩
  | 0x4a1 => .ok ⟨fun _ _ => decide ((fld w 15 6) < 32) && decide ((fld w 9 6) < 64) && decide ((fld w 4 5) < 4) && decide ((fld w 0 4) < 16), issCpyc (fld w 15 6) (fld w 9 6) (fld w 4 5) (fld w 0 4)⟩
  | 0x4a2 => .ok ⟨fun _ _ => blockReg (fld w 15 6) && decide ((fld w 9 6) < 32) && decide ((fld w 4 5) < 32) && decide ((fld w 0 4) < 16), issCpym (fld w 15 6) (fld w 9 6) (fld w 4 5) (fld w 0 4)⟩
  | 0x4a3 => infoIf (fld w 4 11) ⟨fun _ _ => blockReg (fld w 15 6) && decide ((fld w 0 4) < 16), issHalo (fld w 15 6) (fld w 0 4)⟩
  | 0x4a4 => infoIf (fld w 0 15) ⟨fun _ _ => decide ((fld w 15 6) < 64), issCbseal (fld w 15 6)⟩
  | 0x4a5 => infoIf (fld w 9 12) ⟨fun _ _ => decide ((fld w 0 9) < 256), issCbwait (fld w 0 9)⟩
  | 0x4a8 => infoIf (fld w 0 9) ⟨fun _ _ => decide (8 ≤ (fld w 15 6)) && decide ((fld w 15 6) < 16) && decide ((fld w 9 6) < 64), issTlsig (fld w 15 6) (fld w 9 6)⟩
  | 0x4a9 => infoIf (fld w 0 9) ⟨fun _ _ => tOk (fld w 15 6) && decide ((fld w 9 6) < 64), issTlwait (fld w 15 6) (fld w 9 6)⟩
  | 0x4aa => infoIf (fld w 0 9) ⟨fun _ _ => decide ((fld w 15 6) < 64) && tOk (fld w 9 6), issTlrd (fld w 15 6) (fld w 9 6)⟩
  | _ => .error .unassigned

/-- Keys 0x4c0 to 0x4df, as decodeBlock38. -/
def infoBlock38 (k w l1 l2 : Nat) : Except DecodeErr Info :=
  match k with
  | 0x4c0 => infoIf (fld w 4 11) ⟨fun _ _ => decide ((fld w 15 6) < 64) && decide ((fld w 0 4) < 16), issMwld (fld w 15 6) (fld w 0 4)⟩
  | 0x4c1 => infoIf (fld w 4 11) ⟨fun _ _ => decide ((fld w 15 6) < 64) && decide ((fld w 0 4) < 16), issMmul (fld w 15 6) (fld w 0 4)⟩
  | 0x4c2 => infoIf (fld w 4 11) ⟨fun _ _ => decide ((fld w 15 6) < 64) && decide ((fld w 0 4) < 16), issMclr (fld w 15 6) (fld w 0 4)⟩
  | 0x4c3 => infoIf (fld w 4 11) ⟨fun _ _ => decide ((fld w 15 6) < 64) && decide ((fld w 0 4) < 16), issMrd (fld w 15 6) (fld w 0 4)⟩
  | 0x4c4 => infoIf (fld w 4 11) ⟨fun _ _ => decide ((fld w 15 6) < 64) && decide ((fld w 0 4) < 16), issMstg (fld w 15 6) (fld w 0 4)⟩
  | 0x4c5 => infoIf (fld w 0 4 + fld w 9 6) ⟨fun _ _ => decide ((fld w 15 6) < 64) && decide ((fld w 4 5) < 2), issMstat (fld w 15 6) (fld w 4 5)⟩
  | 0x4c6 => infoIf (fld w 4 11) ⟨fun _ _ => decide ((fld w 15 6) < 64) && decide ((fld w 0 4) < 16), issMspl (fld w 15 6) (fld w 0 4)⟩
  | 0x4d0 => .ok ⟨fun _ _ => decide ((fld w 15 6) < 32) && decide ((fld w 9 6) < 64) && decide ((fld w 4 5) < 29) && decide ((fld w 0 4) < 16), issRlrun (fld w 15 6) (fld w 9 6) (fld w 4 5) (fld w 0 4)⟩
  | 0x4d1 => infoIf (fld w 4 17) ⟨fun _ _ => decide ((fld w 0 4) < 16), issRlinv (fld w 0 4)⟩
  | 0x4d2 => infoIf (fld w 0 15) ⟨fun _ _ => decide ((fld w 15 6) < 64), issRlstat (fld w 15 6)⟩
  | 0x4d8 => infoIf (fld w 0 4) ⟨fun _ _ => decide ((fld w 15 6) < 4) && decide ((fld w 9 6) < 4) && decide ((fld w 4 5) < 8), issCkchk (fld w 15 6) (fld w 9 6) (fld w 4 5)⟩
  | 0x4d9 => .ok ⟨fun _ _ => decide ((fld w 15 6) < 64) && decide ((fld w 9 6) < 4) && decide ((fld w 3 6) < 6) && decide ((fld w 0 3) < 8), issCkrd (fld w 15 6) (fld w 9 6) (fld w 3 6) (fld w 0 3)⟩
  | 0x4da => infoIf (fld w 9 6) ⟨fun _ _ => decide ((fld w 15 6) < 4) && decide ((fld w 3 6) < 3) && decide ((fld w 0 3) < 8), issCkclr (fld w 15 6) (fld w 3 6) (fld w 0 3)⟩
  | _ => .error .unassigned

/-- Keys 0x4e0 to 0x4ff, as decodeBlock39. -/
def infoBlock39 (k w l1 l2 : Nat) : Except DecodeErr Info :=
  match k with
  | 0x4e0 => infoIf (fld w 3 12) ⟨fun _ _ => decide ((fld w 15 6) < 64) && decide ((fld w 0 3) < 8), issVclk (fld w 15 6) (fld w 0 3)⟩
  | 0x4e1 => infoIf (fld w 0 4 + fld w 6 3) ⟨fun _ _ => decide ((fld w 15 6) < 4) && decide ((fld w 9 6) < 64) && decide ((fld w 5 1) < 2) && decide ((fld w 4 1) < 2) && ((fld w 5 1) == 0 || (fld w 9 6) % 2 == 0), issTmarm (fld w 15 6) (fld w 9 6) (fld w 5 1) (fld w 4 1)⟩
  | 0x4e2 => infoIf (fld w 0 15) ⟨fun _ _ => decide ((fld w 15 6) < 4), issTmwait (fld w 15 6)⟩
  | 0x4e3 => infoIf (fld w 0 15) ⟨fun _ _ => decide ((fld w 15 6) < 4), issTmcan (fld w 15 6)⟩
  | 0x4e4 => infoIf (fld w 9 6) ⟨fun _ _ => quadReg (fld w 15 6) && decide ((fld w 3 6) < 8) && decide ((fld w 0 3) < 8), issEvpop (fld w 15 6) (fld w 3 6) (fld w 0 3)⟩
  | 0x4e5 => infoIf (fld w 9 6) ⟨fun _ _ => decide ((fld w 15 6) < 64) && decide ((fld w 0 9) < 12), issPcnt (fld w 15 6) (fld w 0 9)⟩
  | 0x4e6 => infoIf (fld w 9 6) ⟨fun _ _ => decide ((fld w 15 6) < 64) && decide ((fld w 0 9) < 6), issCsrr (fld w 15 6) (fld w 0 9)⟩
  | 0x4e7 => infoIf (fld w 15 6) ⟨fun _ _ => decide ((fld w 9 6) < 64) && decide ((fld w 0 9) < 2), issCsrw (fld w 9 6) (fld w 0 9)⟩
  | 0x4e8 => infoIf (fld w 9 12) ⟨fun _ _ => decide ((fld w 0 9) < 256), issTrap (fld w 0 9)⟩
  | 0x4e9 => infoSysc w
  | 0x4ea => infoIf (fld w 9 12) ⟨fun _ _ => decide ((fld w 0 9) < 256), issBrk (fld w 0 9)⟩
  | 0x4f0 => infoIf (fld w 0 4) ⟨fun _ _ => decide ((fld w 15 6) < 64) && decide ((fld w 10 5) < 25) && decide ((fld w 4 6) < 56), issSpawn (fld w 15 6) (fld w 10 5) (fld w 4 6)⟩
  | _ => .error .unassigned

/-- Keys 0x620 to 0x63f, as decodeBlock49. -/
def infoBlock49 (k w l1 l2 : Nat) : Except DecodeErr Info :=
  match k with
  | 0x620 => infoIf (fld w 0 9) ⟨fun _ _ => decide ((fld w 15 6) < 64) && decide ((fld w 9 6) < 64) && decide (l1 < 4294967296), issSaddiTwin (fld w 15 6) (fld w 9 6) l1⟩
  | 0x623 => infoIf (fld w 0 15) ⟨fun _ _ => decide ((fld w 15 6) < 64) && decide (l1 < 4294967296), issSliTwin (fld w 15 6) l1⟩
  | 0x624 => infoIf (fld w 0 15) ⟨fun _ _ => decide ((fld w 15 6) < 64) && decide (l1 < 4294967296) && decide (l2 < 4294967296), issSli64 (fld w 15 6) l1 l2⟩
  | _ => .error .unassigned

/-- Keys 0x680 to 0x69f, as decodeBlock52. -/
def infoBlock52 (k w l1 l2 : Nat) : Except DecodeErr Info :=
  match k with
  | 0x680 => .ok ⟨fun _ _ => decide ((fld w 15 6) < 64) && decide ((fld w 10 5) < 32) && decide ((fld w 4 6) < 64) && decide ((fld w 0 4) < 16) && decide (l1 < 4294967296), issSldB32Twin (fld w 15 6) (fld w 10 5) (fld w 4 6) (fld w 0 4) l1⟩
  | 0x681 => .ok ⟨fun _ _ => decide ((fld w 15 6) < 64) && decide ((fld w 10 5) < 32) && decide ((fld w 4 6) < 64) && decide ((fld w 0 4) < 16) && decide (l1 < 4294967296), issSldB64Twin (fld w 15 6) (fld w 10 5) (fld w 4 6) (fld w 0 4) l1⟩
  | 0x682 => .ok ⟨fun _ _ => decide ((fld w 15 6) < 64) && decide ((fld w 10 5) < 32) && decide ((fld w 4 6) < 64) && decide ((fld w 0 4) < 16) && decide (l1 < 4294967296), issSstB32Twin (fld w 15 6) (fld w 10 5) (fld w 4 6) (fld w 0 4) l1⟩
  | 0x683 => .ok ⟨fun _ _ => decide ((fld w 15 6) < 64) && decide ((fld w 10 5) < 32) && decide ((fld w 4 6) < 64) && decide ((fld w 0 4) < 16) && decide (l1 < 4294967296), issSstB64Twin (fld w 15 6) (fld w 10 5) (fld w 4 6) (fld w 0 4) l1⟩
  | _ => .error .unassigned

/-- The info tables. -/
def infoFast (k w l1 l2 : Nat) : Except DecodeErr Info :=
  match k / 32 with
  | 0 => infoBlock0 k w l1 l2
  | 1 => infoBlock1 k w l1 l2
  | 2 => infoBlock2 k w l1 l2
  | 3 => infoBlock3 k w l1 l2
  | 4 => infoBlock4 k w l1 l2
  | 8 => infoBlock8 k w l1 l2
  | 10 => infoBlock10 k w l1 l2
  | 12 => infoBlock12 k w l1 l2
  | 13 => infoBlock13 k w l1 l2
  | 14 => infoBlock14 k w l1 l2
  | 17 => infoBlock17 k w l1 l2
  | 24 => infoBlock24 k w l1 l2
  | 32 => infoBlock32 k w l1 l2
  | 33 => infoBlock33 k w l1 l2
  | 34 => infoBlock34 k w l1 l2
  | 35 => infoBlock35 k w l1 l2
  | 36 => infoBlock36 k w l1 l2
  | 37 => infoBlock37 k w l1 l2
  | 38 => infoBlock38 k w l1 l2
  | 39 => infoBlock39 k w l1 l2
  | 49 => infoBlock49 k w l1 l2
  | 52 => infoBlock52 k w l1 l2
  | _ => .error .unassigned

theorem zeroThen_map (z : Nat) (i : Instr) : (zeroThen z i).map infoI = infoIf z (infoI i) := by
  unfold zeroThen infoIf
  split <;> rfl

theorem infoFence_eq (w : Nat) : (decodeFence w).map infoI = infoFence w := by
  unfold decodeFence infoFence
  repeat' split
  all_goals rfl

theorem infoSysc_eq (w : Nat) : (decodeSysc w).map infoI = infoSysc w := by
  simp only [decodeSysc, infoSysc]
  repeat' split
  all_goals rfl

theorem infoBlock0_eq (k w l1 l2 : Nat) : (decodeBlock0 k w l1 l2).map infoI = infoBlock0 k w l1 l2 := by
  unfold decodeBlock0 infoBlock0
  split <;> first | rfl | exact zeroThen_map _ _ | exact infoFence_eq _ | exact infoSysc_eq _ | (split <;> first | rfl | contradiction)

theorem infoBlock1_eq (k w l1 l2 : Nat) : (decodeBlock1 k w l1 l2).map infoI = infoBlock1 k w l1 l2 := by
  unfold decodeBlock1 infoBlock1
  split <;> first | rfl | exact zeroThen_map _ _ | exact infoFence_eq _ | exact infoSysc_eq _ | (split <;> first | rfl | contradiction)

theorem infoBlock2_eq (k w l1 l2 : Nat) : (decodeBlock2 k w l1 l2).map infoI = infoBlock2 k w l1 l2 := by
  unfold decodeBlock2 infoBlock2
  split <;> first | rfl | exact zeroThen_map _ _ | exact infoFence_eq _ | exact infoSysc_eq _ | (split <;> first | rfl | contradiction)

theorem infoBlock3_eq (k w l1 l2 : Nat) : (decodeBlock3 k w l1 l2).map infoI = infoBlock3 k w l1 l2 := by
  unfold decodeBlock3 infoBlock3
  split <;> first | rfl | exact zeroThen_map _ _ | exact infoFence_eq _ | exact infoSysc_eq _ | (split <;> first | rfl | contradiction)

theorem infoBlock4_eq (k w l1 l2 : Nat) : (decodeBlock4 k w l1 l2).map infoI = infoBlock4 k w l1 l2 := by
  unfold decodeBlock4 infoBlock4
  split <;> first | rfl | exact zeroThen_map _ _ | exact infoFence_eq _ | exact infoSysc_eq _ | (split <;> first | rfl | contradiction)

theorem infoBlock8_eq (k w l1 l2 : Nat) : (decodeBlock8 k w l1 l2).map infoI = infoBlock8 k w l1 l2 := by
  unfold decodeBlock8 infoBlock8
  split <;> first | rfl | exact zeroThen_map _ _ | exact infoFence_eq _ | exact infoSysc_eq _ | (split <;> first | rfl | contradiction)

theorem infoBlock10_eq (k w l1 l2 : Nat) : (decodeBlock10 k w l1 l2).map infoI = infoBlock10 k w l1 l2 := by
  unfold decodeBlock10 infoBlock10
  split <;> first | rfl | exact zeroThen_map _ _ | exact infoFence_eq _ | exact infoSysc_eq _ | (split <;> first | rfl | contradiction)

theorem infoBlock12_eq (k w l1 l2 : Nat) : (decodeBlock12 k w l1 l2).map infoI = infoBlock12 k w l1 l2 := by
  unfold decodeBlock12 infoBlock12
  split <;> first | rfl | exact zeroThen_map _ _ | exact infoFence_eq _ | exact infoSysc_eq _ | (split <;> first | rfl | contradiction)

theorem infoBlock13_eq (k w l1 l2 : Nat) : (decodeBlock13 k w l1 l2).map infoI = infoBlock13 k w l1 l2 := by
  unfold decodeBlock13 infoBlock13
  split <;> first | rfl | exact zeroThen_map _ _ | exact infoFence_eq _ | exact infoSysc_eq _ | (split <;> first | rfl | contradiction)

theorem infoBlock14_eq (k w l1 l2 : Nat) : (decodeBlock14 k w l1 l2).map infoI = infoBlock14 k w l1 l2 := by
  unfold decodeBlock14 infoBlock14
  split <;> first | rfl | exact zeroThen_map _ _ | exact infoFence_eq _ | exact infoSysc_eq _ | (split <;> first | rfl | contradiction)

theorem infoBlock17_eq (k w l1 l2 : Nat) : (decodeBlock17 k w l1 l2).map infoI = infoBlock17 k w l1 l2 := by
  unfold decodeBlock17 infoBlock17
  split <;> first | rfl | exact zeroThen_map _ _ | exact infoFence_eq _ | exact infoSysc_eq _ | (split <;> first | rfl | contradiction)

theorem infoBlock24_eq (k w l1 l2 : Nat) : (decodeBlock24 k w l1 l2).map infoI = infoBlock24 k w l1 l2 := by
  unfold decodeBlock24 infoBlock24
  split <;> first | rfl | exact zeroThen_map _ _ | exact infoFence_eq _ | exact infoSysc_eq _ | (split <;> first | rfl | contradiction)

theorem infoBlock32_eq (k w l1 l2 : Nat) : (decodeBlock32 k w l1 l2).map infoI = infoBlock32 k w l1 l2 := by
  unfold decodeBlock32 infoBlock32
  split <;> first | rfl | exact zeroThen_map _ _ | exact infoFence_eq _ | exact infoSysc_eq _ | (split <;> first | rfl | contradiction)

theorem infoBlock33_eq (k w l1 l2 : Nat) : (decodeBlock33 k w l1 l2).map infoI = infoBlock33 k w l1 l2 := by
  unfold decodeBlock33 infoBlock33
  split <;> first | rfl | exact zeroThen_map _ _ | exact infoFence_eq _ | exact infoSysc_eq _ | (split <;> first | rfl | contradiction)

theorem infoBlock34_eq (k w l1 l2 : Nat) : (decodeBlock34 k w l1 l2).map infoI = infoBlock34 k w l1 l2 := by
  unfold decodeBlock34 infoBlock34
  split <;> first | rfl | exact zeroThen_map _ _ | exact infoFence_eq _ | exact infoSysc_eq _ | (split <;> first | rfl | contradiction)

theorem infoBlock35_eq (k w l1 l2 : Nat) : (decodeBlock35 k w l1 l2).map infoI = infoBlock35 k w l1 l2 := by
  unfold decodeBlock35 infoBlock35
  split <;> first | rfl | exact zeroThen_map _ _ | exact infoFence_eq _ | exact infoSysc_eq _ | (split <;> first | rfl | contradiction)

theorem infoBlock36_eq (k w l1 l2 : Nat) : (decodeBlock36 k w l1 l2).map infoI = infoBlock36 k w l1 l2 := by
  unfold decodeBlock36 infoBlock36
  split <;> first | rfl | exact zeroThen_map _ _ | exact infoFence_eq _ | exact infoSysc_eq _ | (split <;> first | rfl | contradiction)

theorem infoBlock37_eq (k w l1 l2 : Nat) : (decodeBlock37 k w l1 l2).map infoI = infoBlock37 k w l1 l2 := by
  unfold decodeBlock37 infoBlock37
  split <;> first | rfl | exact zeroThen_map _ _ | exact infoFence_eq _ | exact infoSysc_eq _ | (split <;> first | rfl | contradiction)

theorem infoBlock38_eq (k w l1 l2 : Nat) : (decodeBlock38 k w l1 l2).map infoI = infoBlock38 k w l1 l2 := by
  unfold decodeBlock38 infoBlock38
  split <;> first | rfl | exact zeroThen_map _ _ | exact infoFence_eq _ | exact infoSysc_eq _ | (split <;> first | rfl | contradiction)

theorem infoBlock39_eq (k w l1 l2 : Nat) : (decodeBlock39 k w l1 l2).map infoI = infoBlock39 k w l1 l2 := by
  unfold decodeBlock39 infoBlock39
  split <;> first | rfl | exact zeroThen_map _ _ | exact infoFence_eq _ | exact infoSysc_eq _ | (split <;> first | rfl | contradiction)

theorem infoBlock49_eq (k w l1 l2 : Nat) : (decodeBlock49 k w l1 l2).map infoI = infoBlock49 k w l1 l2 := by
  unfold decodeBlock49 infoBlock49
  split <;> first | rfl | exact zeroThen_map _ _ | exact infoFence_eq _ | exact infoSysc_eq _ | (split <;> first | rfl | contradiction)

theorem infoBlock52_eq (k w l1 l2 : Nat) : (decodeBlock52 k w l1 l2).map infoI = infoBlock52 k w l1 l2 := by
  unfold decodeBlock52 infoBlock52
  split <;> first | rfl | exact zeroThen_map _ _ | exact infoFence_eq _ | exact infoSysc_eq _ | (split <;> first | rfl | contradiction)

@[csimp] theorem infoOf_eq_fast : @infoOf = @infoFast := by
  funext k w l1 l2
  unfold infoOf decodeOp infoFast
  split
  · first | (rename_i h; simp only [h]; exact infoBlock0_eq k w l1 l2) | exact infoBlock0_eq k w l1 l2
  · first | (rename_i h; simp only [h]; exact infoBlock1_eq k w l1 l2) | exact infoBlock1_eq k w l1 l2
  · first | (rename_i h; simp only [h]; exact infoBlock2_eq k w l1 l2) | exact infoBlock2_eq k w l1 l2
  · first | (rename_i h; simp only [h]; exact infoBlock3_eq k w l1 l2) | exact infoBlock3_eq k w l1 l2
  · first | (rename_i h; simp only [h]; exact infoBlock4_eq k w l1 l2) | exact infoBlock4_eq k w l1 l2
  · first | (rename_i h; simp only [h]; exact infoBlock8_eq k w l1 l2) | exact infoBlock8_eq k w l1 l2
  · first | (rename_i h; simp only [h]; exact infoBlock10_eq k w l1 l2) | exact infoBlock10_eq k w l1 l2
  · first | (rename_i h; simp only [h]; exact infoBlock12_eq k w l1 l2) | exact infoBlock12_eq k w l1 l2
  · first | (rename_i h; simp only [h]; exact infoBlock13_eq k w l1 l2) | exact infoBlock13_eq k w l1 l2
  · first | (rename_i h; simp only [h]; exact infoBlock14_eq k w l1 l2) | exact infoBlock14_eq k w l1 l2
  · first | (rename_i h; simp only [h]; exact infoBlock17_eq k w l1 l2) | exact infoBlock17_eq k w l1 l2
  · first | (rename_i h; simp only [h]; exact infoBlock24_eq k w l1 l2) | exact infoBlock24_eq k w l1 l2
  · first | (rename_i h; simp only [h]; exact infoBlock32_eq k w l1 l2) | exact infoBlock32_eq k w l1 l2
  · first | (rename_i h; simp only [h]; exact infoBlock33_eq k w l1 l2) | exact infoBlock33_eq k w l1 l2
  · first | (rename_i h; simp only [h]; exact infoBlock34_eq k w l1 l2) | exact infoBlock34_eq k w l1 l2
  · first | (rename_i h; simp only [h]; exact infoBlock35_eq k w l1 l2) | exact infoBlock35_eq k w l1 l2
  · first | (rename_i h; simp only [h]; exact infoBlock36_eq k w l1 l2) | exact infoBlock36_eq k w l1 l2
  · first | (rename_i h; simp only [h]; exact infoBlock37_eq k w l1 l2) | exact infoBlock37_eq k w l1 l2
  · first | (rename_i h; simp only [h]; exact infoBlock38_eq k w l1 l2) | exact infoBlock38_eq k w l1 l2
  · first | (rename_i h; simp only [h]; exact infoBlock39_eq k w l1 l2) | exact infoBlock39_eq k w l1 l2
  · first | (rename_i h; simp only [h]; exact infoBlock49_eq k w l1 l2) | exact infoBlock49_eq k w l1 l2
  · first | (rename_i h; simp only [h]; exact infoBlock52_eq k w l1 l2) | exact infoBlock52_eq k w l1 l2
  · first | rfl | (split <;> first | rfl | contradiction)

end Sys2Proof.Machine
end

