-- ==== Sys2Proof/Machine/Finaliser.lean ====
section
/-! DEFINITION. The Zarush Portable Form and the on-chip finaliser (04_encoding R90 to R94, 02_conventions R33, 17_launch R416): checks, HEAT masks,
la fields, the promise, and the native image. -/
namespace Sys2Proof.Machine

/-- Failures of a ZPF load (R93). -/
inductive ZErr where
  | format | encoding | target | heat | promise | resource | table
deriving DecidableEq, Repr

/-- The status a load returns. -/
def ZErr.code : ZErr → Nat
  | .format => 1 | .encoding => 2 | .target => 3 | .heat => 4 | .promise => 5 | .resource => 6 | .table => 7

/-- Order-sensitive instructions, by key and first word (R416). -/
def orderSensitive (k w : Nat) : Bool :=
  (decide (0x180 ≤ k) && decide (k < 0x1C0) && k != 0x18C) || (decide (0x1C0 ≤ k) && decide (k ≤ 0x1C6))
    || [0x080, 0x081, 0x083, 0x1D2, 0x4AA, 0x4C5, 0x4D2, 0x4E0, 0x4E2, 0x4E3, 0x4E4, 0x4E5].contains k
    || (k == 0x01E && fld w 0 7 == 0) || (k == 0x08B && fld w 0 7 == 1) || (k == 0x4E6 && fld w 0 9 == 5)

/-- A UB branch's offset in words (R79). -/
def branchOffset (k w : Nat) : Option Int :=
  if 0x460 ≤ k ∧ k ≤ 0x464 then some (if fld w 17 1 = 1 then (fld w 0 18 : Int) - 262144 else fld w 0 18) else none

/-- One instruction of the code: its word index, key, words, annotation, how it issues, and whether it stands in a heat. -/
structure Item where
  at_ : Nat
  key : Nat
  word : Nat
  lits : Nat
  ann : Nat
  iss : Iss
  inHeat : Bool

/-- The image's code words and annotation bytes. -/
structure Code where
  words : List Nat
  anns : List Nat
deriving DecidableEq, Repr

def Code.word (c : Code) (i : Nat) : Nat := c.words.getD i 0
def Code.ann (c : Code) (i : Nat) : Nat := c.anns.getD i 0

/-- The masks of a HEAT at word i with n instructions, from the path bits of the instructions that follow it (R92). -/
def pathMasks (c : Code) (i : Nat) : Nat → Nat
  | 0 => 0
  | n + 1 =>
    let w := c.word i
    c.ann i % 4 + 4 * pathMasks c (i + 1 + litWords (keyOf w) w) n

/-- A mask word in which each of n instructions runs for both paths: HEAT's own check sees no fault of the masks, which the finaliser builds. -/
def fullMasks : Nat → Nat
  | 0 => 0
  | n + 1 => 3 + 4 * fullMasks n

/-- Decode word i as a first word. regs: `.regs`; h: in a heat. -/
def itemAt (c : Code) (regs i : Nat) (h : Bool) : Except ZErr Item :=
  let w := c.word i
  let k := keyOf w
  let n := litWords k w
  if !assigned k || decide (c.words.length < i + 1 + n) then .error .encoding else
  let m := fullMasks (fld w 13 5 + 1)
  let l1 := if k = 0x469 then m % 4294967296 else c.word (i + 1)
  let l2 := if k = 0x469 then m / 4294967296 else c.word (i + 2)
  match infoOf k w l1 l2 with
  | .error _ => .error .encoding
  | .ok info => if info.wf regs h then .ok ⟨i, k, w, n, c.ann i, info.iss, h⟩ else .error .encoding

/-- Every instruction of the code. fuel: words; left: instructions of the open heat still to come. The flag says that a heat was
violated: a forbidden instruction in it, a path of 0b00 in it, path bits outside it, or it is unclosed. -/
def walk (c : Code) (regs : Nat) : Nat → Nat → Nat → Except ZErr (List Item × Bool)
  | 0, _, left => .ok ([], decide (left ≠ 0))
  | fuel + 1, i, left =>
    if c.words.length ≤ i then .ok ([], decide (left ≠ 0)) else
    match itemAt c regs i (decide (left ≠ 0)) with
    | .error e => .error e
    | .ok it =>
      let next := if left ≠ 0 then left - 1 else if it.key = 0x469 then fld it.word 13 5 + 1 else 0
      let litPath := (List.range it.lits).any fun j => c.ann (i + 1 + j) % 4 != 0
      let bad := (if left ≠ 0 then it.iss.forbid || it.ann % 4 == 0 else it.ann % 4 != 0) || litPath
      match walk c regs fuel (i + 1 + it.lits) next with
      | .error e => .error e
      | .ok (r, b) => .ok (it :: r, b || bad)

/-- The word a branch goes to. -/
def Item.target (it : Item) : Option Int := (branchOffset it.key it.word).map fun o => it.at_ + o

/-- A branch goes to an instruction of the code that does not stand in a heat body (R88). -/
def targetOk (items : List Item) (t : Int) : Bool := items.any fun it => (it.at_ : Int) == t && !it.inHeat

/-! ### The la rule (R33) -/

/-- A context of one thread, by which names are compared by the numbers written: lane 0 of wave 0, no heat, every register 0. -/
def nameLane : Lane := ⟨0, 0, 0, Thread.init, 0, Wave.init, false⟩
/-- That context. -/
def nameCtx : Ctx where
  gkey := 0
  tk := 0
  gk := 0
  lk := 0
  g := ⟨[0], 0, .ready, none, [], [], [], 0, 0, none, false⟩
  gang := startGang 0 1 0
  team := startTeam (queuedLaunch 0 0 (.host 0) 0 1 1 0 0 0 0 0) 0
  launch := queuedLaunch 0 0 (.host 0) 0 1 1 0 0 0 0 0
  fn := Fn.init
  lanes := [nameLane]
  all := [nameLane]
  subs := [⟨0, 0, Wave.init, [nameLane]⟩]
  xact := 0
  word := 0
  lit := 0

/-- Is a lane register. -/
def RegName.isV : RegName → Bool
  | .v .. => true
  | _ => false
/-- Is a lane register field of 120 to 127. -/
def RegName.isH : RegName → Bool
  | .v _ r => decide (120 ≤ r)
  | _ => false

/-- MRD's destination is a number in its command word, which no instruction word names. -/
def dropV (k : Nat) (ns : List RegName) : List RegName := if k = 0x4C3 then ns.filter fun n => !n.isV else ns
/-- The registers an instruction writes as a long-latency instruction, and all that it reads or writes. -/
def Item.writes (it : Item) : List RegName := dropV it.key (it.iss.dests nameCtx)
def Item.touches (it : Item) : List RegName := dropV it.key (it.iss.names nameCtx)

/-- y reads or writes a register that x writes; an h-name conflicts with every lane register (R33). -/
def clash (x y : Item) : Bool :=
  let xs := x.writes
  let ys := y.touches
  (xs.any fun n => ys.contains n)
    || (xs.any RegName.isV && ys.any RegName.isV && ((x.inHeat && xs.any RegName.isH) || (y.inHeat && ys.any RegName.isH)))

/-- A window end of R112's list: BQ, BQN, BRL, BRLN, CALL, RET, JMPC, REFORM, HEAT, EXIT. Instructions that only wait as at one (GSTEP, GCFG, TRAP,
BRK) are not among them. -/
def windowEnd (k : Nat) : Bool := [0x460, 0x461, 0x462, 0x463, 0x464, 0x465, 0x466, 0x468, 0x469, 0x46B].contains k

/-- The largest window of x over the instructions that follow it, at most `most` of them. -/
def window (targets : List Int) (x : Item) : Nat → List Item → Nat
  | 0, _ => 0
  | _, [] => 0
  | most + 1, y :: t =>
    if targets.contains (y.at_ : Int) || clash x y then 0
    else if windowEnd y.key then 1
    else 1 + window targets x most t

/-- The words of the native image: la written where it was not explicit, HEAT masks rebuilt (R92). -/
def emit (c : Code) (targets : List Int) : List Item → List Nat
  | [] => []
  | it :: t =>
    let first := if it.iss.la.isSome && !bit it.ann 2 then it.word / 16 * 16 + window targets it 15 t else it.word
    let m := pathMasks c (it.at_ + 1 + it.lits) (fld it.word 13 5 + 1)
    let lits := (List.range it.lits).map fun j => if it.key = 0x469 then m / 2 ^ (32 * j) % 2 ^ 32 else c.word (it.at_ + 1 + j)
    first :: lits ++ emit c targets t

/-! ### The header and the tables (R90) -/

/-- A field of the portable image at address src. -/
def zfld (mem : List Host.Cell) (src o n : Nat) : Nat := readLE mem (src + o) n

/-- A region entry, none when a field has no legal value. -/
def zRegion (mem : List Host.Cell) (src k : Nat) : Option RegionDecl :=
  let f := fun o n => zfld mem src (0x20 + 8 * k + o) n
  if f 0 1 ≤ 7 ∧ 1 ≤ f 1 1 ∧ f 1 1 ≤ 128 ∧ (f 2 1 = 1 ∨ f 2 1 = 2) ∧ f 3 1 ≤ 1 ∧ f 4 1 ≤ 5 ∧ f 5 1 ≤ 1 ∧ f 6 2 = 0 ∧ (f 4 1 = 0 ↔ f 2 1 = 1) then
    some ⟨f 0 1, f 1 1, f 2 1, f 3 1 == 1, f 4 1, f 5 1 == 1⟩
  else none

/-- A section entry at offset o: kind, register, size, offset of its contents. -/
structure ZSection where
  const : Bool
  reg : Nat
  size : Nat
  off : Nat
deriving DecidableEq, Repr

/-- A section entry, none when a field has no legal value or its contents lie outside the image. -/
def zSection (mem : List Host.Cell) (src len o : Nat) : Option ZSection :=
  let f := fun k n => zfld mem src (o + k) n
  if (f 0 1 = 1 ∨ f 0 1 = 2) ∧ f 2 2 = 0 ∧ f 8 8 + f 4 4 ≤ len then some ⟨f 0 1 == 2, f 1 1, f 4 4, f 8 8⟩ else none

/-- A list of options, all present. -/
def allSome {α : Type} : List (Option α) → Option (List α)
  | [] => some []
  | none :: _ => none
  | some a :: t => (allSome t).map (a :: ·)

/-- The image's parts. -/
structure Zpf where
  flags : Nat
  teams : Nat
  waves : Nat
  regs : Nat
  ordered : Nat
  omask : Nat
  regions : List RegionDecl
  sections : List ZSection
  code : Code
deriving DecidableEq, Repr

/-- Check and read the header and the tables (FORMAT, then RESOURCE, which a tagged region of a size that R254 rules out and a second one take too:
DEDUCED, log 31). The bytes that pad the annotations, and region entries past the count, which the spec does not say must be zero, are not read (DESIGN
CHOICE, log 31). -/
def zHeader (mem : List Host.Cell) (src len : Nat) : Except ZErr Zpf :=
  let f := zfld mem src
  if len < 0x60 then .error .format else
  let w := f 0x10 4
  let ns := f 0x14 4
  let tab := 0x60 + 4 * w + (w + 7) / 8 * 8
  if f 0 4 ≠ 0x3146505A ∨ f 4 2 ≠ 1 ∨ 8 ≤ f 6 2 ∨ f 8 1 = 0 ∨ 4 < f 8 1 ∨ f 9 1 = 0 ∨ 64 < f 9 1 ∨ ([32, 64, 96, 128].contains (f 0xA 1)) = false ∨ 8 < f 0xB 1
      ∨ f 0x18 4 % 2 = 1 ∨ bit (f 0x18 4) 31 ∨ f 0x1C 4 ≠ 0 ∨ w = 0 ∨ len < tab + 16 * ns then .error .format else
  match allSome ((List.range (f 0xB 1)).map (zRegion mem src)), allSome ((List.range ns).map fun k => zSection mem src len (tab + 16 * k)) with
  | some rs, some ss =>
    let anns := (List.range w).map fun i => f (0x60 + 4 * w + i) 1
    if anns.any fun a => decide (8 ≤ a) then .error .format
    else if 128 < (rs.map fun r => r.units * r.planes).sum || !noRepeats (rs.map (·.idx))
        || (rs.any fun r => r.tagged && !lineOk r.units) || decide (1 < (rs.filter (·.tagged)).length) || !noRepeats (ss.map (·.reg))
        || ss.any fun s => decide (s.reg < 7) || decide (29 < s.reg) then .error .resource
    else .ok ⟨f 6 2, f 8 1, f 9 1, f 0xA 1, f 0xC 4, f 0x18 4, rs, ss, ⟨(List.range w).map fun i => f (0x60 + 4 * i) 4, anns⟩⟩
  | _, _ => .error .format

/-! ### The finaliser (R92) -/

/-- The native words, and the promise D. -/
structure Native where
  words : List Nat
  promiseD : Bool
  matrix : Bool
deriving DecidableEq, Repr

/-- Decode, check branch targets and heats, rebuild masks and la fields, compute the promise. Flags bit 1 without bit 0 says nothing: the spec gives it no
status (DESIGN CHOICE, log 31). -/
def finalise (z : Zpf) : Except ZErr Native :=
  match walk z.code z.regs z.code.words.length 0 0 with
  | .error e => .error e
  | .ok (items, heatBad) =>
    let targets := items.filterMap Item.target
    let d := !(items.any fun it => orderSensitive it.key it.word)
    if !targets.all (targetOk items) then .error .target
    else if heatBad then .error .heat
    else if bit z.flags 0 && bit z.flags 1 != d then .error .promise
    else .ok ⟨emit z.code targets items, d, items.any fun it => decide (0x4C0 ≤ it.key) && decide (it.key ≤ 0x4C6)⟩

/-- The image table's entry for a finalised image (R404): code in one object, section i in object sectionObj + i. -/
def nativeImage (z : Zpf) (n : Native) (codeObj sectionObj : Nat) : NativeImage where
  codeObj := codeObj
  codeBytes := 4 * n.words.length
  teams := z.teams
  waves := z.waves
  regs := z.regs
  regions := z.regions
  ordered := z.ordered
  omask := z.omask
  promiseD := n.promiseD
  cohort := bit z.flags 2
  sections := z.sections.zipIdx.map fun p => ⟨p.1.reg, p.1.const, p.1.size, sectionObj + p.2⟩
  matrix := n.matrix
  portable := true

/-! ### ZPF_LOAD -/

/-- Write bytes into an object page by page: none where a page does not translate; frames are written with the loader's own rights. -/
def loadBytes (f : Fn) (obj : Nat) : State → Nat → List Nat → Option State
  | s, _, [] => some s
  | s, off, b :: t => match translate s.mem f obj off false with
    | .ok p => loadBytes f obj (s.writeMem p.phys 1 b) (off + 1) t
    | _ => none

/-- Write each section into its object. -/
def loadSections (f : Fn) (src : Nat) : State → Nat → List ZSection → Option State
  | s, _, [] => some s
  | s, obj, z :: t => match loadBytes f obj s 0 ((List.range z.size).map fun i => zfld s.mem src (z.off + i) 1) with
    | some s2 => loadSections f src s2 (obj + 1) t
    | none => none

/-- The bytes of the native image that its measurement covers (log 5): the code words. -/
def nativeBytes (n : Native) : List Byte := (n.words.flatMap fun w => bytesOf w 4).map (BitVec.ofNat 8)

/-- The loader runtime's status of a load. -/
def zReport (s : State) (code : Nat) : State := { s with reports := (3, code) :: s.reports }

/-- The n lowest handles of a function that name no entry of its capability table. -/
def freeHandles (f : Fn) (n : Nat) : List Nat :=
  ((List.range (f.caps.length + n)).map (· + 1)).filter (fun h => (f.caps.find h).isNone && decide (h < 65536)) |>.take n

/-- The image enters the function's image table, and the capabilities of its sections the capability table, in order, at the lowest free handles (R39,
R404; which handles they take is DESIGN CHOICE, log 31). -/
def Fn.withImage (f : Fn) (handle : Nat) (i : NativeImage) : Fn :=
  { f with
    images := f.images.put handle i
    caps := ((freeHandles f i.sections.length).zip i.sections).foldl (fun t p => t.put p.1 p.2.cap) f.caps }

/-- ZPF_LOAD (R92 to R94, R98): the image of len bytes at address src, under a handle of the function's image table; its native code goes to
the object codeObj and section i to sectionObj + i, whose pages the loader has mapped, and which no other image has (R89, R94). A handle that holds an
image has been loaded. -/
def execZpfLoad (fn src len handle codeObj sectionObj : Nat) (s : State) : Out := match s.fns.find fn with
  | none => notNow
  | some f =>
    if s.boot ≠ .ready || handle == 0 || decide (65535 < handle) then notNow
    else if !f.tableReset then .next (zReport s ZErr.table.code)
    else if (f.images.find handle).isSome then .next (zReport s 0)
    else if !(physExists src && (len == 0 || physExists (src + (len - 1)))) then .fault .noMemory
    else match zHeader s.mem src len with
      | .error e => .next (zReport s e.code)
      | .ok z => match finalise z with
        | .error e => .next (zReport s e.code)
        | .ok n => if !freshObjs s f (nativeImage z n codeObj sectionObj) then notNow else match loadBytes f codeObj s 0 (n.words.flatMap fun w => bytesOf w 4) with
          | none => notNow
          | some s2 => match loadSections f src s2 sectionObj z.sections with
            | none => notNow
            | some s3 =>
              let i := nativeImage z n codeObj sectionObj
              .next (zReport ((mapImage s3 f i).setFn fn fun f =>
                { f.withImage handle i with measure := extend f.measure (Config.sha512 (nativeBytes n)) }) 0)

end Sys2Proof.Machine
end

