-- ==== Sys2Proof/Machine/Device.lean ====
section
/-! DEFINITION. The module (23_device R440 to R450): resets and boot, thermal actions, firmware update, attestation, sensors; the loadable decode
table (04_encoding R95 to R97); and the trap of a word that the table leaves unassigned (R85). -/
namespace Sys2Proof.Machine

/-! ### UNASSIGNED_OPCODE (R85, R86 steps 2 and 4) -/

/-- The current group takes ILLEGAL_INSTRUCTION at the fetched word; the lowest-ranked thread of the group is named. -/
def illegalWord (s : State) : Out := match ctx? s with
  | none => .refused .noGroup
  | some c => .next (takeTrap s c.gkey (c.trapArgs .illegalInstruction (lowLane c.all)))

/-- UNASSIGNED_OPCODE (R85). -/
def execUnassignedOpcode (s : State) : Out := illegalWord s

/-! ### DECODE_TABLE_LOAD (R95 to R97) -/

/-- An entry the command accepts: bits 14:11 zero, and an operation that the reset table holds valid. -/
def entryOk (e : Nat) : Bool := e / 2048 % 16 == 0 && assigned (e % 2048)

/-- The entries that differ from the reset table, from key k on. -/
def tableDiff : Nat → List Nat → Tab Nat
  | _, [] => []
  | k, e :: t => if e = resetEntry k then tableDiff (k + 1) t else (k, e) :: tableDiff (k + 1) t

/-- The command's status to firmware: 0 accepted, 1 BUSY, 2 BADENTRY. -/
def tableReport (s : State) (code : Nat) : State := { s with reports := (4, code) :: s.reports }

/-- DECODE_TABLE_LOAD (R96, R97): all 2,048 entries at once, while the function has no gang. -/
def execDecodeTableLoad (fn : Nat) (entries : List Nat) (s : State) : Out := match s.fns.find fn with
  | none => notNow
  | some _ =>
    if s.boot ≠ .ready || entries.length != 2048 || entries.any fun e => decide (65536 ≤ e) then notNow
    else if s.gangs.any fun p => s.fnOf (launchOfGang p.1) == fn then .next (tableReport s 1)
    else if !entries.all entryOk then .next (tableReport s 2)
    else .next (tableReport (s.setFn fn fun f =>
      { f with table := tableDiff 0 entries, measure := extend f.measure (Config.sha512 ((entries.flatMap fun e => bytesOf e 2).map (BitVec.ofNat 8))) }) 0)

/-! ### Firmware images and boot (R444, R445) -/

/-- n bytes of an image from offset o, little-endian. -/
def imgLE (image : List Nat) (o n : Nat) : Nat := numOf ((image.drop o).take n)
/-- Bytes of an image. -/
def imgBytes (image : List Nat) (o n : Nat) : List Byte := ((image.drop o).take n).map (BitVec.ofNat 8)

/-- The image in a slot that holds these bytes (R445). -/
def FwImage.ofBytes (image : List Nat) : FwImage where
  magicOk := decide (256 ≤ image.length) && imgLE image 0 4 == 0x3157464B
  svn := imgLE image 4 4
  size := imgLE image 8 8
  digest := BitVec.ofNat 512 (imgLE image 0x10 64)
  sig := imgBytes image 0x50 132
  head := imgBytes image 0 0x50
  body := imgBytes image 256 (imgLE image 8 8)

/-- The digest of a body, as the 64 bytes of a header field. -/
def digestOf (body : List Byte) : BitVec 512 := Config.sha512 body

/-- A valid image (R445). -/
def FwImage.ok (i : FwImage) (minSvn : Nat) : Bool :=
  i.magicOk && i.body.length == i.size && i.digest == digestOf i.body && Config.firmwareSigOk i.head i.sig && decide (minSvn ≤ i.svn)

/-- The image of a slot verifies. -/
def slotOk (s : State) (slot : Nat) : Bool := match s.slots.find slot with
  | some i => i.ok s.fusedSvn
  | none => false

/-- The other of the two slots. -/
def otherSlot (slot : Nat) : Nat := 1 - slot

/-- The physical function, as it exists from Ready on, and in Recovery: no quad belongs to another function yet (R421). -/
def Fn.physical : Fn := { Fn.init with quads := List.range Config.quads }

/-- BOOT_ROM_START (R444): one transition of the boot ROM. At Verified the other 31 service cores start; in Recovery the physical function alone exists. -/
def execBootRomStart (s : State) : Out := match s.boot with
  | .rom => .next { s with boot := .checking s.activeSlot }
  | .checking slot => if slotOk s slot then .next { s with boot := .verified, runningSlot := slot } else .next { s with boot := .fallback }
  | .fallback =>
    let slot := otherSlot s.activeSlot
    if slotOk s slot then .next { s with boot := .verified, runningSlot := slot } else .next { s with boot := .recovery, fns := [(0, Fn.physical)] }
  | .verified => match s.slots.find s.runningSlot with
    | some i => .next { s with boot := .initialising, runningSvn := i.svn, m0 := extend s.m0 i.digest, serviceCores := List.range 32 }
    | none => notNow
  | _ => notNow

/-- TRAINING_DONE (R444, R143, R95): every granule colour 0 and validity bits clear, decode tables at reset, the host link up. -/
def execTrainingDone (s : State) : Out :=
  if s.boot = .initialising then .next { s with boot := .ready, colours := [], valid := [], fns := [(0, Fn.physical)] } else notNow

/-! ### Resets (R443) -/

/-- What a reset leaves: the flash and the fuses; what stands outside the module or has been sent out of it; the schedule and the
counter of free values, which are the model's. -/
def resetModule (s : State) : State :=
  { State.reset with
    mem := s.mem.filter fun c => decide (2 ^ 64 ≤ c.1)
    slots := s.slots
    activeSlot := s.activeSlot
    fusedSvn := s.fusedSvn
    replies := s.replies
    reports := s.reports
    hostEvents := s.hostEvents
    free := s.free
    schedule := s.schedule }

/-- COLD_RESET (R443). -/
def execColdReset (s : State) : Out := .next (resetModule s)

/-- Every function ends as step 5 of R422 gives. -/
def resetAll : List Nat → State → Out
  | [], s => .next s
  | fn :: t, s => match s.fns.find fn with
    | none => resetAll t s
    | some f => match resetLaunches f (openLaunches s fn) s with
      | .next s2 => resetAll t s2
      | o => o

/-- MODULE_RESET (R443, R449): while firmware serves it; in Recovery only firmware-update commands are accepted (R444). -/
def execModuleReset (s : State) : Out :=
  if s.boot ≠ .ready then .next s else match resetAll s.fns.keys s with
    | .next s2 => .next (resetModule s2)
    | o => o

/-! ### Temperatures (R442) -/

/-! Sensor numbers: 0 module power; 16 + die: junction; 32, 33: coolant inlet, outlet; 48 + stack: HBM. -/

/-- No other die's junction reads hotter. -/
def hottest (s : State) (die temp : Nat) : Bool :=
  decide (die < Config.dies) && (List.range Config.dies).all fun d => d == die || decide (sget 0 s.sensors (dieSensor d) ≤ temp)

/-- The die's temperature as read. -/
def readDie (s : State) (die temp : Nat) : State := { s with sensors := sset 0 s.sensors (dieSensor die) temp }

/-- The quads of a die. -/
def dieQuads (die : Nat) : List Nat := (List.range Config.quadsPerDie).map (die * Config.quadsPerDie + ·)

/-- As R415, hottest quads first: every divider named rises, some if any quad of the hottest die still can, and none of another die rises while one of
those runs at full rate (a die has one junction sensor, so its quads are the hottest: DEDUCED, log 31). -/
def cools (s : State) (die : Nat) (ds : List (Nat × Nat)) : Bool :=
  let t := setDividers s ds
  (ds.all fun p => decide (s.divider p.1 < p.2)) && (!ds.isEmpty || (dieQuads die).all fun q => s.divider q == 8)
    && ds.all fun p => dieOfQuad p.1 == die || (dieQuads die).all fun q => decide (1 < t.divider q)

/-- THERMAL_THROTTLE (R442): 100 °C to below 105 °C: the power manager slows quads. A die in the over-temperature action leaves that below 103 °C. -/
def execThermalThrottle (die temp : Nat) (dividers : List (Nat × Nat)) (s : State) : Out :=
  if hottest s die temp && decide (100 ≤ temp) && decide (temp < 105)
      && (sget .cool s.thermal die == .cool || decide (103 ≤ temp)) && dividersOk dividers && cools s die dividers then
    .next (setDividers (readDie s die temp) dividers)
  else notNow

/-- OVER_TEMPERATURE (R442): 105 °C to 115 °C: every quad of the hottest die at divider 8, and the event to both management paths and the driver. -/
def execOverTemperature (die temp : Nat) (s : State) : Out :=
  if hottest s die temp && decide (105 ≤ temp) && decide (temp ≤ 115) && sget .cool s.thermal die == .cool then
    let s1 := { readDie s die temp with thermal := sset .cool s.thermal die .hot }
    .next { setDividers s1 ((dieQuads die).map (·, 8)) with reports := (1, die) :: s.reports }
  else notNow

/-- The temperature of the hottest die, as last read. -/
def topTemp (s : State) : Nat := (List.range Config.dies).foldl (fun m d => max m (sget 0 s.sensors (dieSensor d))) 0

/-- The action of the row that the hottest die's temperature t stands in is in force, coming from state s (R442): none below 100 °C; below 105 °C the power
manager has set dividers, where it was as hot before; from there on a hottest die is in the over-temperature action. -/
def rowHolds (s t : State) : Bool :=
  decide (topTemp t < 100) || (decide (topTemp t < 105) && decide (100 ≤ topTemp s)) ||
  (decide (topTemp t ≤ 115) && (List.range Config.dies).any fun d => sget 0 t.sensors (dieSensor d) == topTemp t && sget .cool t.thermal d == .hot)

/-- OVER_TEMPERATURE_CLEAR (R442): the die leaves the action below 103 °C; the power manager sets its quads' dividers again (R415). -/
def execOverTemperatureClear (die temp : Nat) (s : State) : Out :=
  let s1 := { readDie s die temp with thermal := sset .cool s.thermal die .cool }
  if sget .cool s.thermal die = .hot ∧ temp < 103 ∧ rowHolds s s1 then .next s1 else notNow

/-- THERMAL_TRIP (R442): above 115 °C all issue stops, the host link drops, and only a cold reset leaves the state. -/
def execThermalTrip (die temp : Nat) (s : State) : Out :=
  if die < Config.dies ∧ 115 < temp then .next { readDie s die temp with boot := .tripped } else notNow

/-! ### Firmware update (R446) -/

/-- PLDM_FIRMWARE_UPDATE (R446): the bytes written into the slot that is not active, checked when the last has been written; the flag changes
only after that check. In Ready and Recovery only (R444). -/
def execPldmFirmwareUpdate (image : List Nat) (s : State) : Out :=
  if (s.boot ≠ .ready ∧ s.boot ≠ .recovery) ∨ 67108864 < image.length then .next s
  else
    let slot := otherSlot s.activeSlot
    let s1 := { s with slots := s.slots.put slot (FwImage.ofBytes image) }
    if slotOk s1 slot then .next { s1 with activeSlot := slot } else .next s1

/-- ACTIVATE_COMMIT (R446): the fused minimum rises to the running image's svn. -/
def execActivateCommit (s : State) : Out :=
  if s.boot = .ready then .next { s with fusedSvn := max s.fusedSvn s.runningSvn } else .next s

/-! ### Management messages (R448, R449) -/

/-- A message is served in Ready, and its reply sent; before Ready and in Recovery there is none (R444). -/
def reply (s : State) (bytes : List Byte) : Out := if s.boot = .ready then .next { s with replies := bytes :: s.replies } else .next s

/-- The quads that the power manager throttles. -/
def throttledQuads (s : State) : Nat := (s.dividers.filter fun p => decide (1 < p.2)).length

/-- A sensor that only its device knows: its number in State.sensors; none: no such sensor. index: the die, the side, the stack. -/
def sensorKey (sensor index : Nat) : Option Nat := match sensor with
  | 1 => if index < 4 then some (dieSensor index) else none
  | 2 => if index < 2 then some (32 + index) else none
  | 3 => if index < 8 then some (48 + index) else none
  | _ => none

/-- A junction may read so (R442): the action of the row is in force, and a die leaves the over-temperature action only by its own event. -/
def junctionOk (s : State) (die reading : Nat) : Bool :=
  (sget .cool s.thermal die == .cool || decide (103 ≤ reading)) && rowHolds s (readDie s die reading)

/-- PLDM_PLATFORM_MONITORING (R449): 0 module power, 4 the errors of a stack (index 2 × stack, with 1 added for the uncorrectable ones), 5 throttled quads;
1 to 3 as sensorKey, with what the device reads. A junction reads what its action allows. -/
def execPldmPlatformMonitoring (sensor index reading : Nat) (s : State) : Out :=
  if sensor = 0 then reply s (numBytes (sget 0 s.sensors 0) 8)
  else if sensor = 4 then (if index < 16 then reply s (numBytes (sget 0 s.errorCounts index) 8) else .next s)
  else if sensor = 5 then reply s (numBytes (throttledQuads s) 8)
  else match sensorKey sensor index with
    | none => .next s
    | some k =>
      if sensor = 1 ∧ !junctionOk s index reading then notNow
      else reply { s with sensors := sset 0 s.sensors k reading } (numBytes reading 8)

/-- GET_VERSION (R448). -/
def execGetVersion (s : State) : Out := reply s (Config.spdmReply 0)
/-- GET_CAPABILITIES (R448). -/
def execGetCapabilities (s : State) : Out := reply s (Config.spdmReply 1)

/-- NEGOTIATE_ALGORITHMS (R448): offered bit 0 ECDSA P-521, bit 1 SHA-512; the reply selects of these what is offered. -/
def execNegotiateAlgorithms (offered : Nat) (s : State) : Out := reply s (numBytes (offered % 4) 1)

/-- GET_DIGESTS (R448): the digest of the certificate chain. -/
def execGetDigests (s : State) : Out := reply s (numBytes (Config.sha512 Config.certificateChain).toNat 64)

/-- GET_CERTIFICATE (R448): len bytes of the chain from an offset. -/
def execGetCertificate (off len : Nat) (s : State) : Out := reply s ((Config.certificateChain.drop off).take len)

/-- A measurement register (R447); none: no register has the index. That of a function not yet created is zero. -/
def measurement (s : State) (index : Nat) : Option (BitVec 512) := match index with
  | 1 => some s.m0
  | 2 => some s.m1
  | n => if 16 ≤ n ∧ n ≤ 80 then some (((s.fns.find (n - 16)).map (·.measure)).getD 0) else none

/-- The indices of all registers. -/
def measurementIndices : List Nat := [1, 2] ++ (List.range 65).map (16 + ·)

/-- The registers a request names: index 255 all, else one. -/
def measurementsFor (index : Nat) : List Nat := if index = 255 then measurementIndices else measurementIndices.filter (· == index)

/-- What the response to GET_MEASUREMENTS signs: the verifier's nonce and a snapshot of every register it reports. -/
def measurementMessage (s : State) (index nonce : Nat) : List Byte :=
  numBytes nonce 32 ++ (measurementsFor index).flatMap fun k => numBytes k 1 ++ numBytes ((measurement s k).getD 0).toNat 64

/-- GET_MEASUREMENTS (R448): the signed snapshot, taken at one instant. -/
def execGetMeasurements (index nonce : Nat) (s : State) : Out :=
  reply s (measurementMessage s index nonce ++ Config.attestSign s.runningSvn (measurementMessage s index nonce))

end Sys2Proof.Machine
end

