-- ==== Sys2Proof/Machine/Dispatch.lean ====
section
/-! DEFINITION. The dispatch: one arm per constructor of Instr, each a call of its meaning. -/
namespace Sys2Proof.Machine

/-- Run one instruction or event. -/
def exec (i : Instr) (s : State) : Host.Outcome State Fault Refusal :=
  match i with
  | .groupFormation core => Sys2Proof.Machine.execGroupFormation core s
  | .binAgeLimit team bin => Sys2Proof.Machine.execBinAgeLimit team bin s
  | .thinGroupYield core => Sys2Proof.Machine.execThinGroupYield core s
  | .loadSectorReturn ret => Sys2Proof.Machine.execLoadSectorReturn ret s
  | .atomicPerformed acc => Sys2Proof.Machine.execAtomicPerformed acc s
  | .storeAcknowledged acc => Sys2Proof.Machine.execStoreAcknowledged acc s
  | .storeRefused acc => Sys2Proof.Machine.execStoreRefused acc s
  | .orderedValidate acc => Sys2Proof.Machine.execOrderedValidate acc s
  | .memorySideFault acc => Sys2Proof.Machine.execMemorySideFault acc s
  | .faultEntersLog acc => Sys2Proof.Machine.execFaultEntersLog acc s
  | .faultReplay acc => Sys2Proof.Machine.execFaultReplay acc s
  | .faultDeclaredFatal acc => Sys2Proof.Machine.execFaultDeclaredFatal acc s
  | .cancel port slot pc => Sys2Proof.Machine.execCancel port slot pc s
  | .memoryPortInvalidate fn change => Sys2Proof.Machine.execMemoryPortInvalidate fn change s
  | .trapResume rec => Sys2Proof.Machine.execTrapResume rec s
  | .trapDeclareFatal rec => Sys2Proof.Machine.execTrapDeclareFatal rec s
  | .scoreboardEntryRetire team entry => Sys2Proof.Machine.execScoreboardEntryRetire team entry s
  | .gstepArrivalsComplete team wide => Sys2Proof.Machine.execGstepArrivalsComplete team wide s
  | .gstepDrained team wide => Sys2Proof.Machine.execGstepDrained team wide s
  | .gcfgArrivalsComplete team region => Sys2Proof.Machine.execGcfgArrivalsComplete team region s
  | .gcfgDrained team region => Sys2Proof.Machine.execGcfgDrained team region s
  | .barrierPhaseComplete level key => Sys2Proof.Machine.execBarrierPhaseComplete level key s
  | .copyOperationStart gang chan start => Sys2Proof.Machine.execCopyOperationStart gang chan start s
  | .copyOperationFinish gang chan => Sys2Proof.Machine.execCopyOperationFinish gang chan s
  | .copyOperationAbort gang chan => Sys2Proof.Machine.execCopyOperationAbort gang chan s
  | .chainRecordWalk gang walk => Sys2Proof.Machine.execChainRecordWalk gang walk s
  | .cpymFollowIssue gang chan => Sys2Proof.Machine.execCpymFollowIssue gang chan s
  | .macroCommandStart team mac => Sys2Proof.Machine.execMacroCommandStart team mac s
  | .macroCommandFinish team mac => Sys2Proof.Machine.execMacroCommandFinish team mac s
  | .relayRunStart read => Sys2Proof.Machine.execRelayRunStart read s
  | .relaySend read => Sys2Proof.Machine.execRelaySend read s
  | .relayRecv gang => Sys2Proof.Machine.execRelayRecv gang s
  | .relayRrs gang => Sys2Proof.Machine.execRelayRrs gang s
  | .relayRrd gang => Sys2Proof.Machine.execRelayRrd gang s
  | .relayCopy read => Sys2Proof.Machine.execRelayCopy read s
  | .relayWait gang => Sys2Proof.Machine.execRelayWait gang s
  | .relayLoop gang => Sys2Proof.Machine.execRelayLoop gang s
  | .relayEnd gang => Sys2Proof.Machine.execRelayEnd gang s
  | .relayChunkArrival chunk fn coll signature n sender target len bytes => Sys2Proof.Machine.execRelayChunkArrival chunk fn coll signature n sender target len bytes s
  | .flitLanded gang => Sys2Proof.Machine.execFlitLanded gang s
  | .reduceKernelDispatch gang core => Sys2Proof.Machine.execReduceKernelDispatch gang core s
  | .relayAbortNotice gang coll status => Sys2Proof.Machine.execRelayAbortNotice gang coll status s
  | .relayPatienceExpired gang => Sys2Proof.Machine.execRelayPatienceExpired gang s
  | .holdNotice notice => Sys2Proof.Machine.execHoldNotice notice s
  | .resumeNotice notice => Sys2Proof.Machine.execResumeNotice notice s
  | .timerExpiry gang timer => Sys2Proof.Machine.execTimerExpiry gang timer s
  | .inboxEventArrival gang kind source length p0 p1 => Sys2Proof.Machine.execInboxEventArrival gang kind source length p0 p1 s
  | .hostEventStore fn bytes => Sys2Proof.Machine.execHostEventStore fn bytes s
  | .spawnWindowStore fn off size bytes => Sys2Proof.Machine.execSpawnWindowStore fn off size bytes s
  | .launchHeadCheck fn queue => Sys2Proof.Machine.execLaunchHeadCheck fn queue s
  | .dependenceMet fn queue => Sys2Proof.Machine.execDependenceMet fn queue s
  | .launchAdmit fn queue => Sys2Proof.Machine.execLaunchAdmit fn queue s
  | .headAging fn queue => Sys2Proof.Machine.execHeadAging fn queue s
  | .gangPlace launch gang quad cores => Sys2Proof.Machine.execGangPlace launch gang quad cores s
  | .priorityPreemption fn queue => Sys2Proof.Machine.execPriorityPreemption fn queue s
  | .timeSliceExpiry gang gang2 => Sys2Proof.Machine.execTimeSliceExpiry gang gang2 s
  | .gangStop gang reason => Sys2Proof.Machine.execGangStop gang reason s
  | .gangSaved gang => Sys2Proof.Machine.execGangSaved gang s
  | .gangResume gang quad seating => Sys2Proof.Machine.execGangResume gang quad seating s
  | .gangPack gang die => Sys2Proof.Machine.execGangPack gang die s
  | .gangMigrateAccept gang => Sys2Proof.Machine.execGangMigrateAccept gang s
  | .gangRetire gang => Sys2Proof.Machine.execGangRetire gang s
  | .launchComplete launch => Sys2Proof.Machine.execLaunchComplete launch s
  | .launchReplay launch => Sys2Proof.Machine.execLaunchReplay launch s
  | .snapshotPageCopy acc frame => Sys2Proof.Machine.execSnapshotPageCopy acc frame s
  | .scrubSector sector version => Sys2Proof.Machine.execScrubSector sector version s
  | .linkFailure link => Sys2Proof.Machine.execLinkFailure link s
  | .powerSample rates dividers => Sys2Proof.Machine.execPowerSample rates dividers s
  | .functionReset fn => Sys2Proof.Machine.execFunctionReset fn s
  | .flowClosed peer fn => Sys2Proof.Machine.execFlowClosed peer fn s
  | .settingWrite fn setting value => Sys2Proof.Machine.execSettingWrite fn setting value s
  | .hostMemoryAccess fn object off size op data => Sys2Proof.Machine.execHostMemoryAccess fn object off size op data s
  | .zpfLoad fn src len handle codeObj sectionObj => Sys2Proof.Machine.execZpfLoad fn src len handle codeObj sectionObj s
  | .decodeTableLoad fn entries => Sys2Proof.Machine.execDecodeTableLoad fn entries s
  | .coldReset => Sys2Proof.Machine.execColdReset s
  | .moduleReset => Sys2Proof.Machine.execModuleReset s
  | .bootRomStart => Sys2Proof.Machine.execBootRomStart s
  | .trainingDone => Sys2Proof.Machine.execTrainingDone s
  | .thermalThrottle die temp dividers => Sys2Proof.Machine.execThermalThrottle die temp dividers s
  | .overTemperature die temp => Sys2Proof.Machine.execOverTemperature die temp s
  | .overTemperatureClear die temp => Sys2Proof.Machine.execOverTemperatureClear die temp s
  | .thermalTrip die temp => Sys2Proof.Machine.execThermalTrip die temp s
  | .pldmFirmwareUpdate image => Sys2Proof.Machine.execPldmFirmwareUpdate image s
  | .activateCommit => Sys2Proof.Machine.execActivateCommit s
  | .pldmPlatformMonitoring sensor index reading => Sys2Proof.Machine.execPldmPlatformMonitoring sensor index reading s
  | .getVersion => Sys2Proof.Machine.execGetVersion s
  | .getCapabilities => Sys2Proof.Machine.execGetCapabilities s
  | .negotiateAlgorithms offered => Sys2Proof.Machine.execNegotiateAlgorithms offered s
  | .getDigests => Sys2Proof.Machine.execGetDigests s
  | .getCertificate off len => Sys2Proof.Machine.execGetCertificate off len s
  | .getMeasurements index nonce => Sys2Proof.Machine.execGetMeasurements index nonce s
  | .unassignedOpcode => Sys2Proof.Machine.execUnassignedOpcode s
  | .serviceCallReply call status r0 r1 r2 r3 => Sys2Proof.Machine.execServiceCallReply call status r0 r1 r2 r3 s
  | .peerModuleAccess src ordered seq op addr data => Sys2Proof.Machine.execPeerModuleAccess src ordered seq op addr data s
  | .vadd d a b => Sys2Proof.Machine.execVadd d a b s
  | .vsub d a b => Sys2Proof.Machine.execVsub d a b s
  | .vmul d a b => Sys2Proof.Machine.execVmul d a b s
  | .vmulhI32 d a b => Sys2Proof.Machine.execVmulhI32 d a b s
  | .vmulhN32 d a b => Sys2Proof.Machine.execVmulhN32 d a b s
  | .vmad d a b => Sys2Proof.Machine.execVmad d a b s
  | .vaddsI32 d a b => Sys2Proof.Machine.execVaddsI32 d a b s
  | .vsubsI32 d a b => Sys2Proof.Machine.execVsubsI32 d a b s
  | .vaddsN32 d a b => Sys2Proof.Machine.execVaddsN32 d a b s
  | .vsubsN32 d a b => Sys2Proof.Machine.execVsubsN32 d a b s
  | .vand d a b => Sys2Proof.Machine.execVand d a b s
  | .vor d a b => Sys2Proof.Machine.execVor d a b s
  | .vxor d a b => Sys2Proof.Machine.execVxor d a b s
  | .vandn d a b => Sys2Proof.Machine.execVandn d a b s
  | .vshl d a b => Sys2Proof.Machine.execVshl d a b s
  | .vshrN32 d a b => Sys2Proof.Machine.execVshrN32 d a b s
  | .vshrI32 d a b => Sys2Proof.Machine.execVshrI32 d a b s
  | .vminI32 d a b => Sys2Proof.Machine.execVminI32 d a b s
  | .vminN32 d a b => Sys2Proof.Machine.execVminN32 d a b s
  | .vmaxI32 d a b => Sys2Proof.Machine.execVmaxI32 d a b s
  | .vmaxN32 d a b => Sys2Proof.Machine.execVmaxN32 d a b s
  | .vabsI32 d a => Sys2Proof.Machine.execVabsI32 d a s
  | .vpopc d a => Sys2Proof.Machine.execVpopc d a s
  | .vclz d a => Sys2Proof.Machine.execVclz d a s
  | .vbfx d a b => Sys2Proof.Machine.execVbfx d a b s
  | .vbfi d a b => Sys2Proof.Machine.execVbfi d a b s
  | .vdot4I8 d a b => Sys2Proof.Machine.execVdot4I8 d a b s
  | .vdot4N8 d a b => Sys2Proof.Machine.execVdot4N8 d a b s
  | .vmov d a => Sys2Proof.Machine.execVmov d a s
  | .vmovs d a h => Sys2Proof.Machine.execVmovs d a h s
  | .vid d sc => Sys2Proof.Machine.execVid d sc s
  | .vaddi d a k => Sys2Proof.Machine.execVaddi d a k s
  | .vaddiTwin d a w => Sys2Proof.Machine.execVaddiTwin d a w s
  | .vshli d a k => Sys2Proof.Machine.execVshli d a k s
  | .vshriN32 d a k => Sys2Proof.Machine.execVshriN32 d a k s
  | .vshriI32 d a k => Sys2Proof.Machine.execVshriI32 d a k s
  | .vandi d a k => Sys2Proof.Machine.execVandi d a k s
  | .vandiTwin d a w => Sys2Proof.Machine.execVandiTwin d a w s
  | .vli d k => Sys2Proof.Machine.execVli d k s
  | .vliTwin d w => Sys2Proof.Machine.execVliTwin d w s
  | .icmpI32 p c a b => Sys2Proof.Machine.execIcmpI32 p c a b s
  | .icmpN32 p c a b => Sys2Proof.Machine.execIcmpN32 p c a b s
  | .fcmpF32 p c a b => Sys2Proof.Machine.execFcmpF32 p c a b s
  | .fcmpX p c a b => Sys2Proof.Machine.execFcmpX p c a b s
  | .plog p o a b => Sys2Proof.Machine.execPlog p o a b s
  | .vtop p a => Sys2Proof.Machine.execVtop p a s
  | .vfromp d b => Sys2Proof.Machine.execVfromp d b s
  | .vsel k d a b => Sys2Proof.Machine.execVsel k d a b s
  | .fadd d a b => Sys2Proof.Machine.execFadd d a b s
  | .fsub d a b => Sys2Proof.Machine.execFsub d a b s
  | .fmul d a b => Sys2Proof.Machine.execFmul d a b s
  | .fma d a b => Sys2Proof.Machine.execFma d a b s
  | .fnma d a b => Sys2Proof.Machine.execFnma d a b s
  | .fmin d a b => Sys2Proof.Machine.execFmin d a b s
  | .fmax d a b => Sys2Proof.Machine.execFmax d a b s
  | .fabs d a => Sys2Proof.Machine.execFabs d a s
  | .fneg d a => Sys2Proof.Machine.execFneg d a s
  | .fcopysign d a b => Sys2Proof.Machine.execFcopysign d a b s
  | .fdot2Bf16 d a b => Sys2Proof.Machine.execFdot2Bf16 d a b s
  | .fdot4E4m3 d a b => Sys2Proof.Machine.execFdot4E4m3 d a b s
  | .fdot4E5m2 d a b => Sys2Proof.Machine.execFdot4E5m2 d a b s
  | .fdot8E2m1 d a b => Sys2Proof.Machine.execFdot8E2m1 d a b s
  | .frcpa d a => Sys2Proof.Machine.execFrcpa d a s
  | .frsqa d a => Sys2Proof.Machine.execFrsqa d a s
  | .fexp2a d a => Sys2Proof.Machine.execFexp2a d a s
  | .flog2a d a => Sys2Proof.Machine.execFlog2a d a s
  | .fsqrt d a => Sys2Proof.Machine.execFsqrt d a s
  | .fdiv d a b => Sys2Proof.Machine.execFdiv d a b s
  | .cvtF32I32 d a r => Sys2Proof.Machine.execCvtF32I32 d a r s
  | .cvtF32N32 d a r => Sys2Proof.Machine.execCvtF32N32 d a r s
  | .cvtI32F32 d a r => Sys2Proof.Machine.execCvtI32F32 d a r s
  | .cvtN32F32 d a r => Sys2Proof.Machine.execCvtN32F32 d a r s
  | .nrwBf16 d a => Sys2Proof.Machine.execNrwBf16 d a s
  | .nrwF16 d a => Sys2Proof.Machine.execNrwF16 d a s
  | .nrwE4m3 d a => Sys2Proof.Machine.execNrwE4m3 d a s
  | .nrwE5m2 d a => Sys2Proof.Machine.execNrwE5m2 d a s
  | .nrwE2m1 d a => Sys2Proof.Machine.execNrwE2m1 d a s
  | .finBf16 d a => Sys2Proof.Machine.execFinBf16 d a s
  | .finF16 d a => Sys2Proof.Machine.execFinF16 d a s
  | .finE4m3 d a => Sys2Proof.Machine.execFinE4m3 d a s
  | .finE5m2 d a => Sys2Proof.Machine.execFinE5m2 d a s
  | .finE2m1 d a => Sys2Proof.Machine.execFinE2m1 d a s
  | .pack2Bf16 d a b => Sys2Proof.Machine.execPack2Bf16 d a b s
  | .pack2F16 d a b => Sys2Proof.Machine.execPack2F16 d a b s
  | .pack4E4m3 d a => Sys2Proof.Machine.execPack4E4m3 d a s
  | .pack4E5m2 d a => Sys2Proof.Machine.execPack4E5m2 d a s
  | .widBf16 d a k => Sys2Proof.Machine.execWidBf16 d a k s
  | .widF16 d a k => Sys2Proof.Machine.execWidF16 d a k s
  | .widE4m3 d a k => Sys2Proof.Machine.execWidE4m3 d a k s
  | .widE5m2 d a k => Sys2Proof.Machine.execWidE5m2 d a k s
  | .vshfl d a b => Sys2Proof.Machine.execVshfl d a b s
  | .vshflx d a b => Sys2Proof.Machine.execVshflx d a b s
  | .vshfll d a b => Sys2Proof.Machine.execVshfll d a b s
  | .vbcast d a n => Sys2Proof.Machine.execVbcast d a n s
  | .vscanI32 d a => Sys2Proof.Machine.execVscanI32 d a s
  | .vscanF32 d a => Sys2Proof.Machine.execVscanF32 d a s
  | .vredI32 d a => Sys2Proof.Machine.execVredI32 d a s
  | .vredF32 d a => Sys2Proof.Machine.execVredF32 d a s
  | .vredmax d a => Sys2Proof.Machine.execVredmax d a s
  | .vredmin d a => Sys2Proof.Machine.execVredmin d a s
  | .vvote d a m => Sys2Proof.Machine.execVvote d a m s
  | .vballot d a m => Sys2Proof.Machine.execVballot d a m s
  | .vcount d a => Sys2Proof.Machine.execVcount d a s
  | .ldN8 t x sc l => Sys2Proof.Machine.execLdN8 t x sc l s
  | .ldN8Twin t x sc l w => Sys2Proof.Machine.execLdN8Twin t x sc l w s
  | .ldI8 t x sc l => Sys2Proof.Machine.execLdI8 t x sc l s
  | .ldI8Twin t x sc l w => Sys2Proof.Machine.execLdI8Twin t x sc l w s
  | .ldN16 t x sc l => Sys2Proof.Machine.execLdN16 t x sc l s
  | .ldN16Twin t x sc l w => Sys2Proof.Machine.execLdN16Twin t x sc l w s
  | .ldI16 t x sc l => Sys2Proof.Machine.execLdI16 t x sc l s
  | .ldI16Twin t x sc l w => Sys2Proof.Machine.execLdI16Twin t x sc l w s
  | .ldB32 t x sc l => Sys2Proof.Machine.execLdB32 t x sc l s
  | .ldB32Twin t x sc l w => Sys2Proof.Machine.execLdB32Twin t x sc l w s
  | .ldB64 t x sc l => Sys2Proof.Machine.execLdB64 t x sc l s
  | .ldB64Twin t x sc l w => Sys2Proof.Machine.execLdB64Twin t x sc l w s
  | .ldB128 t x sc l => Sys2Proof.Machine.execLdB128 t x sc l s
  | .ldB128Twin t x sc l w => Sys2Proof.Machine.execLdB128Twin t x sc l w s
  | .stB8 t x sc l => Sys2Proof.Machine.execStB8 t x sc l s
  | .stB8Twin t x sc l w => Sys2Proof.Machine.execStB8Twin t x sc l w s
  | .stB16 t x sc l => Sys2Proof.Machine.execStB16 t x sc l s
  | .stB16Twin t x sc l w => Sys2Proof.Machine.execStB16Twin t x sc l w s
  | .stB32 t x sc l => Sys2Proof.Machine.execStB32 t x sc l s
  | .stB32Twin t x sc l w => Sys2Proof.Machine.execStB32Twin t x sc l w s
  | .stB64 t x sc l => Sys2Proof.Machine.execStB64 t x sc l s
  | .stB64Twin t x sc l w => Sys2Proof.Machine.execStB64Twin t x sc l w s
  | .stB128 t x sc l => Sys2Proof.Machine.execStB128 t x sc l s
  | .stB128Twin t x sc l w => Sys2Proof.Machine.execStB128Twin t x sc l w s
  | .ldBf16 t x sc l => Sys2Proof.Machine.execLdBf16 t x sc l s
  | .ldBf16Twin t x sc l w => Sys2Proof.Machine.execLdBf16Twin t x sc l w s
  | .ldF16 t x sc l => Sys2Proof.Machine.execLdF16 t x sc l s
  | .ldF16Twin t x sc l w => Sys2Proof.Machine.execLdF16Twin t x sc l w s
  | .ldE4m3 t x sc l => Sys2Proof.Machine.execLdE4m3 t x sc l s
  | .ldE4m3Twin t x sc l w => Sys2Proof.Machine.execLdE4m3Twin t x sc l w s
  | .ldE5m2 t x sc l => Sys2Proof.Machine.execLdE5m2 t x sc l s
  | .ldE5m2Twin t x sc l w => Sys2Proof.Machine.execLdE5m2Twin t x sc l w s
  | .ldZb4 t x sc l => Sys2Proof.Machine.execLdZb4 t x sc l s
  | .ldZb4Twin t x sc l w => Sys2Proof.Machine.execLdZb4Twin t x sc l w s
  | .ldZb8 t x sc l => Sys2Proof.Machine.execLdZb8 t x sc l s
  | .ldZb8Twin t x sc l w => Sys2Proof.Machine.execLdZb8Twin t x sc l w s
  | .stBf16 t x sc l => Sys2Proof.Machine.execStBf16 t x sc l s
  | .stBf16Twin t x sc l w => Sys2Proof.Machine.execStBf16Twin t x sc l w s
  | .stF16 t x sc l => Sys2Proof.Machine.execStF16 t x sc l s
  | .stF16Twin t x sc l w => Sys2Proof.Machine.execStF16Twin t x sc l w s
  | .stE4m3 t x sc l => Sys2Proof.Machine.execStE4m3 t x sc l s
  | .stE4m3Twin t x sc l w => Sys2Proof.Machine.execStE4m3Twin t x sc l w s
  | .stE5m2 t x sc l => Sys2Proof.Machine.execStE5m2 t x sc l s
  | .stE5m2Twin t x sc l w => Sys2Proof.Machine.execStE5m2Twin t x sc l w s
  | .stZb4 t x sc l => Sys2Proof.Machine.execStZb4 t x sc l s
  | .stZb4Twin t x sc l w => Sys2Proof.Machine.execStZb4Twin t x sc l w s
  | .stZb8 t x sc l => Sys2Proof.Machine.execStZb8 t x sc l s
  | .stZb8Twin t x sc l w => Sys2Proof.Machine.execStZb8Twin t x sc l w s
  | .vspill t x sc l => Sys2Proof.Machine.execVspill t x sc l s
  | .vspillTwin t x sc l w => Sys2Proof.Machine.execVspillTwin t x sc l w s
  | .vfill t x sc l => Sys2Proof.Machine.execVfill t x sc l s
  | .vfillTwin t x sc l w => Sys2Proof.Machine.execVfillTwin t x sc l w s
  | .ldgB32 t x sc l => Sys2Proof.Machine.execLdgB32 t x sc l s
  | .ldgB64 t x sc l => Sys2Proof.Machine.execLdgB64 t x sc l s
  | .ldgB128 t x sc l => Sys2Proof.Machine.execLdgB128 t x sc l s
  | .stgB32 t x sc l => Sys2Proof.Machine.execStgB32 t x sc l s
  | .stgB64 t x sc l => Sys2Proof.Machine.execStgB64 t x sc l s
  | .stgB128 t x sc l => Sys2Proof.Machine.execStgB128 t x sc l s
  | .ldgmB32 t x sc l => Sys2Proof.Machine.execLdgmB32 t x sc l s
  | .stgmB32 t x sc l => Sys2Proof.Machine.execStgmB32 t x sc l s
  | .tlook t x l => Sys2Proof.Machine.execTlook t x l s
  | .tset t x l => Sys2Proof.Machine.execTset t x l s
  | .tclr x l => Sys2Proof.Machine.execTclr x l s
  | .aaddI32 r t x sc l => Sys2Proof.Machine.execAaddI32 r t x sc l s
  | .aaddI64 r t x sc l => Sys2Proof.Machine.execAaddI64 r t x sc l s
  | .aminI32 r t x sc l => Sys2Proof.Machine.execAminI32 r t x sc l s
  | .amaxI32 r t x sc l => Sys2Proof.Machine.execAmaxI32 r t x sc l s
  | .aminN32 r t x sc l => Sys2Proof.Machine.execAminN32 r t x sc l s
  | .amaxN32 r t x sc l => Sys2Proof.Machine.execAmaxN32 r t x sc l s
  | .aand r t x sc l => Sys2Proof.Machine.execAand r t x sc l s
  | .aor r t x sc l => Sys2Proof.Machine.execAor r t x sc l s
  | .axor r t x sc l => Sys2Proof.Machine.execAxor r t x sc l s
  | .axchg r t x sc l => Sys2Proof.Machine.execAxchg r t x sc l s
  | .acas r t x sc l => Sys2Proof.Machine.execAcas r t x sc l s
  | .aaddF32U r t x sc l => Sys2Proof.Machine.execAaddF32U r t x sc l s
  | .aaddF32O t x sc l => Sys2Proof.Machine.execAaddF32O t x sc l s
  | .ldl t x sc l => Sys2Proof.Machine.execLdl t x sc l s
  | .stul t x sc l => Sys2Proof.Machine.execStul t x sc l s
  | .gaddI32 t x sc l => Sys2Proof.Machine.execGaddI32 t x sc l s
  | .gaddF32 t x sc l => Sys2Proof.Machine.execGaddF32 t x sc l s
  | .gmaxI32 t x sc l => Sys2Proof.Machine.execGmaxI32 t x sc l s
  | .gxchg t x sc l => Sys2Proof.Machine.execGxchg t x sc l s
  | .gcas t x sc l => Sys2Proof.Machine.execGcas t x sc l s
  | .ckaccI32 d a => Sys2Proof.Machine.execCkaccI32 d a s
  | .ckaccF32 d a => Sys2Proof.Machine.execCkaccF32 d a s
  | .ckaccSig d a => Sys2Proof.Machine.execCkaccSig d a s
  | .sadd d a b g => Sys2Proof.Machine.execSadd d a b g s
  | .ssub d a b g => Sys2Proof.Machine.execSsub d a b g s
  | .smul d a b g => Sys2Proof.Machine.execSmul d a b g s
  | .smulh d a b g => Sys2Proof.Machine.execSmulh d a b g s
  | .sand d a b g => Sys2Proof.Machine.execSand d a b g s
  | .sor d a b g => Sys2Proof.Machine.execSor d a b g s
  | .sxor d a b g => Sys2Proof.Machine.execSxor d a b g s
  | .sshl d a b g => Sys2Proof.Machine.execSshl d a b g s
  | .sshrN d a b g => Sys2Proof.Machine.execSshrN d a b g s
  | .sshrI d a b g => Sys2Proof.Machine.execSshrI d a b g s
  | .sminI d a b g => Sys2Proof.Machine.execSminI d a b g s
  | .smaxI d a b g => Sys2Proof.Machine.execSmaxI d a b g s
  | .smov d a g => Sys2Proof.Machine.execSmov d a g s
  | .ssel d a b g => Sys2Proof.Machine.execSsel d a b g s
  | .spopc d a g => Sys2Proof.Machine.execSpopc d a g s
  | .sclz d a g => Sys2Proof.Machine.execSclz d a g s
  | .scmpI q c a b g => Sys2Proof.Machine.execScmpI q c a b g s
  | .scmpN q c a b g => Sys2Proof.Machine.execScmpN q c a b g s
  | .saddi d a k => Sys2Proof.Machine.execSaddi d a k s
  | .saddiTwin d a w => Sys2Proof.Machine.execSaddiTwin d a w s
  | .sshli d a k => Sys2Proof.Machine.execSshli d a k s
  | .sandi d a k => Sys2Proof.Machine.execSandi d a k s
  | .sli d k => Sys2Proof.Machine.execSli d k s
  | .sliTwin d w => Sys2Proof.Machine.execSliTwin d w s
  | .sli64 d w w2 => Sys2Proof.Machine.execSli64 d w w2 s
  | .sid d sc => Sys2Proof.Machine.execSid d sc s
  | .qlog q o a b g => Sys2Proof.Machine.execQlog q o a b g s
  | .cbnd d a b g => Sys2Proof.Machine.execCbnd d a b g s
  | .crgt d a b g => Sys2Proof.Machine.execCrgt d a b g s
  | .ccol d a b g => Sys2Proof.Machine.execCcol d a b g s
  | .cget d a b g => Sys2Proof.Machine.execCget d a b g s
  | .cmov d a g => Sys2Proof.Machine.execCmov d a g s
  | .cld d c b l => Sys2Proof.Machine.execCld d c b l s
  | .cst d c b l => Sys2Proof.Machine.execCst d c b l s
  | .ctag d c b l => Sys2Proof.Machine.execCtag d c b l s
  | .cchk q r a b g => Sys2Proof.Machine.execCchk q r a b g s
  | .cnull d g => Sys2Proof.Machine.execCnull d g s
  | .bq k o => Sys2Proof.Machine.execBq k o s
  | .bqn k o => Sys2Proof.Machine.execBqn k o s
  | .brl k o => Sys2Proof.Machine.execBrl k o s
  | .brln k o => Sys2Proof.Machine.execBrln k o s
  | .call o => Sys2Proof.Machine.execCall o s
  | .ret a g => Sys2Proof.Machine.execRet a g s
  | .jmpc d a b g => Sys2Proof.Machine.execJmpc d a b g s
  | .reform g => Sys2Proof.Machine.execReform g s
  | .heat k n m => Sys2Proof.Machine.execHeat k n m s
  | .hmap a b => Sys2Proof.Machine.execHmap a b s
  | .exit g => Sys2Proof.Machine.execExit g s
  | .nop g => Sys2Proof.Machine.execNop g s
  | .waitm n => Sys2Proof.Machine.execWaitm n s
  | .waits n => Sys2Proof.Machine.execWaits n s
  | .sldB32 d c b l => Sys2Proof.Machine.execSldB32 d c b l s
  | .sldB32Twin d c b l w => Sys2Proof.Machine.execSldB32Twin d c b l w s
  | .sldB64 d c b l => Sys2Proof.Machine.execSldB64 d c b l s
  | .sldB64Twin d c b l w => Sys2Proof.Machine.execSldB64Twin d c b l w s
  | .sstB32 d c b l => Sys2Proof.Machine.execSstB32 d c b l s
  | .sstB32Twin d c b l w => Sys2Proof.Machine.execSstB32Twin d c b l w s
  | .sstB64 d c b l => Sys2Proof.Machine.execSstB64 d c b l s
  | .sstB64Twin d c b l w => Sys2Proof.Machine.execSstB64Twin d c b l w s
  | .fenceAcq sc => Sys2Proof.Machine.execFenceAcq sc s
  | .fenceRel sc => Sys2Proof.Machine.execFenceRel sc s
  | .fenceFull sc => Sys2Proof.Machine.execFenceFull sc s
  | .bar l => Sys2Proof.Machine.execBar l s
  | .bara l => Sys2Proof.Machine.execBara l s
  | .barw l => Sys2Proof.Machine.execBarw l s
  | .gstep m => Sys2Proof.Machine.execGstep m s
  | .gcfg a k => Sys2Proof.Machine.execGcfg a k s
  | .cpy a b k l => Sys2Proof.Machine.execCpy a b k l s
  | .cpyc a b k l => Sys2Proof.Machine.execCpyc a b k l s
  | .cpym a b k l => Sys2Proof.Machine.execCpym a b k l s
  | .halo a l => Sys2Proof.Machine.execHalo a l s
  | .cbseal d => Sys2Proof.Machine.execCbseal d s
  | .cbwait n => Sys2Proof.Machine.execCbwait n s
  | .tlsig a b => Sys2Proof.Machine.execTlsig a b s
  | .tlwait a b => Sys2Proof.Machine.execTlwait a b s
  | .tlrd a b => Sys2Proof.Machine.execTlrd a b s
  | .mwld a l => Sys2Proof.Machine.execMwld a l s
  | .mmul a l => Sys2Proof.Machine.execMmul a l s
  | .mclr a l => Sys2Proof.Machine.execMclr a l s
  | .mrd a l => Sys2Proof.Machine.execMrd a l s
  | .mstg a l => Sys2Proof.Machine.execMstg a l s
  | .mstat d m => Sys2Proof.Machine.execMstat d m s
  | .mspl a l => Sys2Proof.Machine.execMspl a l s
  | .rlrun a b d l => Sys2Proof.Machine.execRlrun a b d l s
  | .rlinv l => Sys2Proof.Machine.execRlinv l s
  | .rlstat a => Sys2Proof.Machine.execRlstat a s
  | .ckchk a b m => Sys2Proof.Machine.execCkchk a b m s
  | .ckrd d a b g => Sys2Proof.Machine.execCkrd d a b g s
  | .ckclr d b g => Sys2Proof.Machine.execCkclr d b g s
  | .vclk d g => Sys2Proof.Machine.execVclk d g s
  | .tmarm a b p sc => Sys2Proof.Machine.execTmarm a b p sc s
  | .tmwait a => Sys2Proof.Machine.execTmwait a s
  | .tmcan a => Sys2Proof.Machine.execTmcan a s
  | .evpop d b g => Sys2Proof.Machine.execEvpop d b g s
  | .pcnt d sc => Sys2Proof.Machine.execPcnt d sc s
  | .csrr d k => Sys2Proof.Machine.execCsrr d k s
  | .csrw a k => Sys2Proof.Machine.execCsrw a k s
  | .trap n => Sys2Proof.Machine.execTrap n s
  | .syscNull d a => Sys2Proof.Machine.execSyscNull d a s
  | .syscPostPeerEvent d a => Sys2Proof.Machine.execSyscPostPeerEvent d a s
  | .syscPostHostEvent d a => Sys2Proof.Machine.execSyscPostHostEvent d a s
  | .syscEndLaunch d a => Sys2Proof.Machine.execSyscEndLaunch d a s
  | .syscReserved d a c => Sys2Proof.Machine.execSyscReserved d a c s
  | .syscHold d a => Sys2Proof.Machine.execSyscHold d a s
  | .syscEvict d a => Sys2Proof.Machine.execSyscEvict d a s
  | .syscRuntimeService d a c => Sys2Proof.Machine.execSyscRuntimeService d a c s
  | .brk n => Sys2Proof.Machine.execBrk n s
  | .spawn d k b => Sys2Proof.Machine.execSpawn d k b s

end Sys2Proof.Machine
end

