-- ==== Sys2Proof/Machine/Fetch.lean ====
section
/-! DEFINITION. Fetching, decoding and issuing a group's next instruction (04_encoding R86 to R88, R95; 09_global_memory R216). -/
namespace Sys2Proof.Machine

/-- The instruction is an event: it has no words. -/
def isEvent (i : Instr) : Bool := (encode i).isEmpty

/-! ### The fetch -/

/-- What a fetch of a word yields. -/
inductive Fetched where
  | word (w : Nat)
  | trap (c : Cause) (object offset : Nat)
  /-- Parked at offset off for n bytes. -/
  | park (c : Cause) (object off n guest : Nat)
  | bad
deriving DecidableEq, Repr

/-- The code capability of the group that is to issue: its first lane's wave's, as it stands (where another group's JMPC has changed that of one of its
waves, the spec does not say through which the group is fetched: DESIGN CHOICE, log 31). -/
def Ctx.code (c : Ctx) : Cap := match c.all with
  | l :: _ => l.wv.getC 31
  | [] => Cap.null

/-- The n bytes of a fetch within one sector (R86 step 1, R216). -/
def fetchPart (s : State) (c : Ctx) (obj off n : Nat) : Fetched := match memCheck s c.fn (dieOfCore c.team.core) obj off n 0 .fetch with
  | .ok p => .word (readLE s.mem p.phys n)
  | .fail .pageNotPresent g => .park .pageNotPresent obj off n g
  | .fail .stage2 g => .park .stage2 obj off n g
  | .fail .uncorrectable g => if c.launch.replayable then .park .uncorrectable obj off n g else .trap .uncorrectable 0 0
  | .fail e _ => .trap e 0 0
  | .snap => .word 0
  | .bad => .bad

/-- The word at a PC, through c31 (R86 steps 1 and 3). A code base that is no multiple of 4 may put a word across two sectors. -/
def fetchWord (s : State) (c : Ctx) (pc : Nat) : Fetched :=
  let k := c.code
  let off := (k.base + pc) % 2 ^ 64
  if !k.valid then .trap .capInvalid k.object off
  else if !k.has .x then .trap .capRights k.object off
  else if k.length < pc + 4 then .trap .capBounds k.object off
  else
    let n := min 4 (32 - off % 32)
    match fetchPart s c k.object off n with
    | .word lo => if n = 4 then .word lo else match fetchPart s c k.object (off + n) (4 - n) with
      | .word hi => .word (lo + 256 ^ n * hi)
      | o => o
    | o => o

/-- A fetch that does not give a word: the group traps at its instruction, with the first word if it has been read (R87), or its fetch
parks (R86 step 1). -/
def fetchFails (s : State) (c : Ctx) (word : Nat) : Fetched → Out
  | .trap cause obj off => .next (takeTrap s c.gkey { c.trapArgs cause (lowLane c.all) with word := word, object := obj, offset := off })
  | .park cause obj off n guest =>
    let a : Access :=
      { team := c.tk, xact := c.xact, kind := .fetch, obj := obj, off := off, size := n, colour := 0, threads := [lowLane c.all]
        info := { c.issued [] with word := word }, st := .resolving cause, logged := false, guest := guest, cap := c.code, seq := s.nextId, rel := []
        acq := false, pins := [], foreseen := 0 }
    let s1 := { s with accesses := s.accesses.put s.nextId a, nextId := s.nextId + 1 }.setGroup c.gkey fun g => { g with status := .fetching s.nextId, word := word }
    .next (if cause = .uncorrectable then s1.consume c.lk else s1)
  | .bad => .fault .noMemory
  | .word _ => .refused .notEnabled

/-! ### Decode and run -/

/-- Run the instruction with key k and these words for `.regs` and a place in a heat (R86 steps 2 and 4 on). -/
noncomputable def runWord (k w l1 l2 regs : Nat) (heat : Bool) (s : State) : Out := match decodeOp k w l1 l2 with
  | .error _ => exec .unassignedOpcode s
  | .ok i => if i.wellFormed regs heat then exec i s else exec .unassignedOpcode s

/-- The same from the info tables, which build no instruction. -/
def runWordFast (k w l1 l2 regs : Nat) (heat : Bool) (s : State) : Out := match infoFast k w l1 l2 with
  | .error _ => illegalWord s
  | .ok x => if x.wf regs heat then issue x.iss s else illegalWord s

/-- An encoded instruction's meaning is its issue. -/
theorem exec_encoded (i : Instr) (s : State) : isEvent i = false → exec i s = issue (issOf i) s := by
  cases i <;> first | (intro _; rfl) | (intro h; exact absurd h (by decide)) | (intro h; cases h)

theorem zeroThen_encoded {z : Nat} {i j : Instr} (hi : isEvent i = false) (h : zeroThen z i = .ok j) : isEvent j = false := by
  unfold zeroThen at h
  split at h
  · cases h; exact hi
  · cases h

theorem decodeFence_encoded {w : Nat} {i : Instr} (h : decodeFence w = .ok i) : isEvent i = false := by
  unfold decodeFence at h
  repeat' split at h
  all_goals first | (cases h; rfl) | cases h

theorem decodeSysc_encoded {w : Nat} {i : Instr} (h : decodeSysc w = .ok i) : isEvent i = false := by
  simp only [decodeSysc] at h
  repeat' split at h
  all_goals first | (cases h; rfl) | cases h

theorem heat_encoded (k n m : Nat) : isEvent (.heat k n m) = false := by
  show (heatWords _ n m).isEmpty = false
  unfold heatWords
  split <;> rfl

theorem decodeBlock0_encoded {k w l1 l2 : Nat} {i : Instr} (h : decodeBlock0 k w l1 l2 = .ok i) : isEvent i = false := by
  unfold decodeBlock0 at h
  split at h <;> first | (cases h; rfl) | cases h | exact zeroThen_encoded rfl h | exact decodeFence_encoded h | exact decodeSysc_encoded h | exact zeroThen_encoded (heat_encoded _ _ _) h | (cases h; exact heat_encoded _ _ _)

theorem decodeBlock1_encoded {k w l1 l2 : Nat} {i : Instr} (h : decodeBlock1 k w l1 l2 = .ok i) : isEvent i = false := by
  unfold decodeBlock1 at h
  split at h <;> first | (cases h; rfl) | cases h | exact zeroThen_encoded rfl h | exact decodeFence_encoded h | exact decodeSysc_encoded h | exact zeroThen_encoded (heat_encoded _ _ _) h | (cases h; exact heat_encoded _ _ _)

theorem decodeBlock2_encoded {k w l1 l2 : Nat} {i : Instr} (h : decodeBlock2 k w l1 l2 = .ok i) : isEvent i = false := by
  unfold decodeBlock2 at h
  split at h <;> first | (cases h; rfl) | cases h | exact zeroThen_encoded rfl h | exact decodeFence_encoded h | exact decodeSysc_encoded h | exact zeroThen_encoded (heat_encoded _ _ _) h | (cases h; exact heat_encoded _ _ _)

theorem decodeBlock3_encoded {k w l1 l2 : Nat} {i : Instr} (h : decodeBlock3 k w l1 l2 = .ok i) : isEvent i = false := by
  unfold decodeBlock3 at h
  split at h <;> first | (cases h; rfl) | cases h | exact zeroThen_encoded rfl h | exact decodeFence_encoded h | exact decodeSysc_encoded h | exact zeroThen_encoded (heat_encoded _ _ _) h | (cases h; exact heat_encoded _ _ _)

theorem decodeBlock4_encoded {k w l1 l2 : Nat} {i : Instr} (h : decodeBlock4 k w l1 l2 = .ok i) : isEvent i = false := by
  unfold decodeBlock4 at h
  split at h <;> first | (cases h; rfl) | cases h | exact zeroThen_encoded rfl h | exact decodeFence_encoded h | exact decodeSysc_encoded h | exact zeroThen_encoded (heat_encoded _ _ _) h | (cases h; exact heat_encoded _ _ _)

theorem decodeBlock8_encoded {k w l1 l2 : Nat} {i : Instr} (h : decodeBlock8 k w l1 l2 = .ok i) : isEvent i = false := by
  unfold decodeBlock8 at h
  split at h <;> first | (cases h; rfl) | cases h | exact zeroThen_encoded rfl h | exact decodeFence_encoded h | exact decodeSysc_encoded h | exact zeroThen_encoded (heat_encoded _ _ _) h | (cases h; exact heat_encoded _ _ _)

theorem decodeBlock10_encoded {k w l1 l2 : Nat} {i : Instr} (h : decodeBlock10 k w l1 l2 = .ok i) : isEvent i = false := by
  unfold decodeBlock10 at h
  split at h <;> first | (cases h; rfl) | cases h | exact zeroThen_encoded rfl h | exact decodeFence_encoded h | exact decodeSysc_encoded h | exact zeroThen_encoded (heat_encoded _ _ _) h | (cases h; exact heat_encoded _ _ _)

theorem decodeBlock12_encoded {k w l1 l2 : Nat} {i : Instr} (h : decodeBlock12 k w l1 l2 = .ok i) : isEvent i = false := by
  unfold decodeBlock12 at h
  split at h <;> first | (cases h; rfl) | cases h | exact zeroThen_encoded rfl h | exact decodeFence_encoded h | exact decodeSysc_encoded h | exact zeroThen_encoded (heat_encoded _ _ _) h | (cases h; exact heat_encoded _ _ _)

theorem decodeBlock13_encoded {k w l1 l2 : Nat} {i : Instr} (h : decodeBlock13 k w l1 l2 = .ok i) : isEvent i = false := by
  unfold decodeBlock13 at h
  split at h <;> first | (cases h; rfl) | cases h | exact zeroThen_encoded rfl h | exact decodeFence_encoded h | exact decodeSysc_encoded h | exact zeroThen_encoded (heat_encoded _ _ _) h | (cases h; exact heat_encoded _ _ _)

theorem decodeBlock14_encoded {k w l1 l2 : Nat} {i : Instr} (h : decodeBlock14 k w l1 l2 = .ok i) : isEvent i = false := by
  unfold decodeBlock14 at h
  split at h <;> first | (cases h; rfl) | cases h | exact zeroThen_encoded rfl h | exact decodeFence_encoded h | exact decodeSysc_encoded h | exact zeroThen_encoded (heat_encoded _ _ _) h | (cases h; exact heat_encoded _ _ _)

theorem decodeBlock17_encoded {k w l1 l2 : Nat} {i : Instr} (h : decodeBlock17 k w l1 l2 = .ok i) : isEvent i = false := by
  unfold decodeBlock17 at h
  split at h <;> first | (cases h; rfl) | cases h | exact zeroThen_encoded rfl h | exact decodeFence_encoded h | exact decodeSysc_encoded h | exact zeroThen_encoded (heat_encoded _ _ _) h | (cases h; exact heat_encoded _ _ _)

theorem decodeBlock24_encoded {k w l1 l2 : Nat} {i : Instr} (h : decodeBlock24 k w l1 l2 = .ok i) : isEvent i = false := by
  unfold decodeBlock24 at h
  split at h <;> first | (cases h; rfl) | cases h | exact zeroThen_encoded rfl h | exact decodeFence_encoded h | exact decodeSysc_encoded h | exact zeroThen_encoded (heat_encoded _ _ _) h | (cases h; exact heat_encoded _ _ _)

theorem decodeBlock32_encoded {k w l1 l2 : Nat} {i : Instr} (h : decodeBlock32 k w l1 l2 = .ok i) : isEvent i = false := by
  unfold decodeBlock32 at h
  split at h <;> first | (cases h; rfl) | cases h | exact zeroThen_encoded rfl h | exact decodeFence_encoded h | exact decodeSysc_encoded h | exact zeroThen_encoded (heat_encoded _ _ _) h | (cases h; exact heat_encoded _ _ _)

theorem decodeBlock33_encoded {k w l1 l2 : Nat} {i : Instr} (h : decodeBlock33 k w l1 l2 = .ok i) : isEvent i = false := by
  unfold decodeBlock33 at h
  split at h <;> first | (cases h; rfl) | cases h | exact zeroThen_encoded rfl h | exact decodeFence_encoded h | exact decodeSysc_encoded h | exact zeroThen_encoded (heat_encoded _ _ _) h | (cases h; exact heat_encoded _ _ _)

theorem decodeBlock34_encoded {k w l1 l2 : Nat} {i : Instr} (h : decodeBlock34 k w l1 l2 = .ok i) : isEvent i = false := by
  unfold decodeBlock34 at h
  split at h <;> first | (cases h; rfl) | cases h | exact zeroThen_encoded rfl h | exact decodeFence_encoded h | exact decodeSysc_encoded h | exact zeroThen_encoded (heat_encoded _ _ _) h | (cases h; exact heat_encoded _ _ _)

theorem decodeBlock35_encoded {k w l1 l2 : Nat} {i : Instr} (h : decodeBlock35 k w l1 l2 = .ok i) : isEvent i = false := by
  unfold decodeBlock35 at h
  split at h <;> first | (cases h; rfl) | cases h | exact zeroThen_encoded rfl h | exact decodeFence_encoded h | exact decodeSysc_encoded h | exact zeroThen_encoded (heat_encoded _ _ _) h | (cases h; exact heat_encoded _ _ _)

theorem decodeBlock36_encoded {k w l1 l2 : Nat} {i : Instr} (h : decodeBlock36 k w l1 l2 = .ok i) : isEvent i = false := by
  unfold decodeBlock36 at h
  split at h <;> first | (cases h; rfl) | cases h | exact zeroThen_encoded rfl h | exact decodeFence_encoded h | exact decodeSysc_encoded h | exact zeroThen_encoded (heat_encoded _ _ _) h | (cases h; exact heat_encoded _ _ _)

theorem decodeBlock37_encoded {k w l1 l2 : Nat} {i : Instr} (h : decodeBlock37 k w l1 l2 = .ok i) : isEvent i = false := by
  unfold decodeBlock37 at h
  split at h <;> first | (cases h; rfl) | cases h | exact zeroThen_encoded rfl h | exact decodeFence_encoded h | exact decodeSysc_encoded h | exact zeroThen_encoded (heat_encoded _ _ _) h | (cases h; exact heat_encoded _ _ _)

theorem decodeBlock38_encoded {k w l1 l2 : Nat} {i : Instr} (h : decodeBlock38 k w l1 l2 = .ok i) : isEvent i = false := by
  unfold decodeBlock38 at h
  split at h <;> first | (cases h; rfl) | cases h | exact zeroThen_encoded rfl h | exact decodeFence_encoded h | exact decodeSysc_encoded h | exact zeroThen_encoded (heat_encoded _ _ _) h | (cases h; exact heat_encoded _ _ _)

theorem decodeBlock39_encoded {k w l1 l2 : Nat} {i : Instr} (h : decodeBlock39 k w l1 l2 = .ok i) : isEvent i = false := by
  unfold decodeBlock39 at h
  split at h <;> first | (cases h; rfl) | cases h | exact zeroThen_encoded rfl h | exact decodeFence_encoded h | exact decodeSysc_encoded h | exact zeroThen_encoded (heat_encoded _ _ _) h | (cases h; exact heat_encoded _ _ _)

theorem decodeBlock49_encoded {k w l1 l2 : Nat} {i : Instr} (h : decodeBlock49 k w l1 l2 = .ok i) : isEvent i = false := by
  unfold decodeBlock49 at h
  split at h <;> first | (cases h; rfl) | cases h | exact zeroThen_encoded rfl h | exact decodeFence_encoded h | exact decodeSysc_encoded h | exact zeroThen_encoded (heat_encoded _ _ _) h | (cases h; exact heat_encoded _ _ _)

theorem decodeBlock52_encoded {k w l1 l2 : Nat} {i : Instr} (h : decodeBlock52 k w l1 l2 = .ok i) : isEvent i = false := by
  unfold decodeBlock52 at h
  split at h <;> first | (cases h; rfl) | cases h | exact zeroThen_encoded rfl h | exact decodeFence_encoded h | exact decodeSysc_encoded h | exact zeroThen_encoded (heat_encoded _ _ _) h | (cases h; exact heat_encoded _ _ _)

/-- What the decoder gives is an encoded instruction. -/
theorem decodeOp_encoded {k w l1 l2 : Nat} {i : Instr} (h : decodeOp k w l1 l2 = .ok i) : isEvent i = false := by
  unfold decodeOp at h
  split at h
  · exact decodeBlock0_encoded h
  · exact decodeBlock1_encoded h
  · exact decodeBlock2_encoded h
  · exact decodeBlock3_encoded h
  · exact decodeBlock4_encoded h
  · exact decodeBlock8_encoded h
  · exact decodeBlock10_encoded h
  · exact decodeBlock12_encoded h
  · exact decodeBlock13_encoded h
  · exact decodeBlock14_encoded h
  · exact decodeBlock17_encoded h
  · exact decodeBlock24_encoded h
  · exact decodeBlock32_encoded h
  · exact decodeBlock33_encoded h
  · exact decodeBlock34_encoded h
  · exact decodeBlock35_encoded h
  · exact decodeBlock36_encoded h
  · exact decodeBlock37_encoded h
  · exact decodeBlock38_encoded h
  · exact decodeBlock39_encoded h
  · exact decodeBlock49_encoded h
  · exact decodeBlock52_encoded h
  · cases h

@[csimp] theorem runWord_eq_fast : @runWord = @runWordFast := by
  funext k w l1 l2 regs heat s
  have hx : infoFast k w l1 l2 = (decodeOp k w l1 l2).map infoI := by rw [← infoOf_eq_fast]; rfl
  unfold runWord runWordFast
  rw [hx]
  cases h : decodeOp k w l1 l2 with
  | error e => rfl
  | ok i =>
    show (if i.wellFormed regs heat then exec i s else illegalWord s) = (if i.wellFormed regs heat then issue (issOf i) s else illegalWord s)
    rw [exec_encoded i s (decodeOp_encoded h)]

/-- The group's words have been fetched. -/
def State.withWords (s : State) (w l1 l2 : Nat) : State := { s with fetched := some (w, l1, l2) }

/-- Steps 2 to 7 of R86 on a first word: the decode table, the literal words, and the instruction. -/
def afterFirst (s : State) (c : Ctx) (w : Nat) : Out :=
  let e := tableEntry c.fn (keyOf w)
  let k := e % 2048
  let n := litWords k w
  let h := c.inHeat
  if e < 32768 then exec .unassignedOpcode (s.withWords w 0 0)
  else if n = 0 then runWord k w 0 0 c.team.regs h (s.withWords w 0 0)
  else match fetchWord s c (c.g.pc + 4) with
    | .word l1 =>
      if n = 1 then runWord k w l1 0 c.team.regs h (s.withWords w l1 0)
      else match fetchWord s c (c.g.pc + 8) with
        | .word l2 => runWord k w l1 l2 c.team.regs h (s.withWords w l1 l2)
        | o => fetchFails s c w o
    | o => fetchFails s c w o

/-- A group issues its next instruction. -/
def runGroup (gkey : Nat) (s : State) : Out :=
  let s := { s with cur := some gkey, fetched := none }
  match ctx? s with
  | none => .refused .noGroup
  | some c => match fetchWord s c c.g.pc with
    | .word w => afterFirst s c w
    | o => fetchFails s c 0 o

end Sys2Proof.Machine
end

