-- ==== Sys2Proof/Machine/Service.lean ====
section
/-! DEFINITION. Service contexts at work on the service cores (01_machine R10; 04_encoding R85): what a word does to the files of a context. -/
namespace Sys2Proof.Machine

/-- A context's one wave as an instruction sees it: one lane, in which its files stand. -/
def serviceCtx (w : Wave) : Ctx :=
  let l : Lane := { nameLane with wv := w }
  { nameCtx with lanes := [l], all := [l], subs := [⟨0, 0, w, [l]⟩] }

/-- Operations that act on a context's own files alone: uniform arithmetic, comparisons, moves and constants, capability derivations, checksums, NOP, and
the reading and writing of %mode and %flags. -/
def filesOnly (k w : Nat) : Bool :=
  (decide (0x400 ≤ k % 0x800) && decide (k % 0x200 < 0x40) && k != 0x428)
    || [0x440, 0x441, 0x442, 0x443, 0x444, 0x448, 0x449, 0x46C, 0x4D9, 0x4DA].contains k || ((k == 0x4E6 || k == 0x4E7) && decide (fld w 0 9 ≤ 1))

/-- Operations that a context performs as a thread by itself would: branches, calls and returns, HMAP, the waits for its own accesses, FENCE, TRAP, BRK, and,
of a function's context, uniform loads and stores and CLD, CST and CTAG in its address space. -/
def asThread (context k : Nat) : Bool :=
  [0x460, 0x461, 0x462, 0x463, 0x464, 0x465, 0x466, 0x46A, 0x46D, 0x46E, 0x490, 0x4E8, 0x4EA].contains k
    || (decide (context ≤ 64) && [0x445, 0x446, 0x447, 0x480, 0x481, 0x482, 0x483, 0x680, 0x681, 0x682, 0x683].contains k)

/-- Operations that read what no service context has: a lane's or gang's numbers, clocks, counters and timelines, and the status of engines. -/
def readsOther (k : Nat) : Bool := [0x428, 0x4AA, 0x4C5, 0x4D2, 0x4E0, 0x4E5, 0x4E6].contains k

/-- A service context after an instruction on its files, or the cause of its trap. The effect is that of a wave-of-origin (R101) under the guard (R78). -/
def serviceEff (x : Service) (I : Iss) (s : State) : Service ⊕ Cause :=
  let c := (serviceCtx x.file).guarded I.guard
  if c.subs.isEmpty then .inl x
  else match I.eff c { s with waves := [(0, x.file)] } with
    | .done t => .inl { x with file := t.wave 0 }
    | .trap a => .inr a.cause
    | _ => .inl x

/-- A context goes on behind an instruction. -/
def Service.past (x : Service) (I : Iss) : Service := { x with pc := (x.pc + 4 * (1 + I.lits)) % 2 ^ 64 }

/-! ### A context as a thread by itself -/

/-- The state with a context set up as the one thread, group, team and gang of a launch of its function under number 0, which no launch has. -/
def onStage (s : State) (context : Nat) (x : Service) : State :=
  { s with
    launches := s.launches.put 0 { nameCtx.launch with fn := context }
    gangs := s.gangs.put 0 nameCtx.gang
    teams := s.teams.put 0 nameCtx.team
    waves := s.waves.put 0 x.file
    threads := s.threads.put 0 { Thread.init with agent := x.agent }
    groups := s.groups.put 0 { nameCtx.g with pc := x.pc }
    cur := some 0 }

/-- The state without it, and the context as it then is. -/
def offStage (s t : State) (context : Nat) (x : Service) : State :=
  let y : Service := { x with file := t.wave 0, agent := (t.thread 0).agent, pc := ((t.groups.find 0).map (·.pc)).getD x.pc }
  { t with
    launches := t.launches.del 0
    gangs := t.gangs.del 0
    teams := t.teams.del 0
    waves := t.waves.del 0
    threads := t.threads.del 0
    groups := t.groups.del 0
    traps := s.traps
    cur := s.cur
    services := t.services.put context y }

/-- The event that performs an access, or one granule of a CTAG. -/
def performOne (s : State) (id : Nat) (a : Access) : Out := match a.kind with
  | .load _ => exec (.loadSectorReturn ⟨id, []⟩) s
  | _ => exec (.storeAcknowledged id) s

/-- Perform the access under a number, at once: a load returns, a store is acknowledged, a CTAG granule by granule. The error is the fault it meets. -/
def performNow (id : Nat) : Nat → State → Except Cause Out
  | 0, s => .ok (.next s)
  | n + 1, s => match accOf s id with
    | none => .ok (.next s)
    | some (a, f) => match checkAccess s f a with
      | .fail c _ => .error c
      | _ => match performOne s id a with
        | .next t => performNow id n t
        | o => .ok o

/-- The granules that an access's performing takes. -/
def Access.steps (a : Access) : Nat := match a.kind with
  | .tag g _ => g
  | _ => 1

/-- What the context has been given to do, done: the access it makes, if any, is performed at once. -/
def serviceDone (t : State) : Except Cause Out := match t.accesses.find? fun p => p.2.team == 0 with
  | some p => performNow p.1 p.2.steps t
  | none => .ok (.next t)

/-- The cause of the trap that has stopped the context's group. -/
def stageTrap (t : State) : Option Cause := (t.groups.find 0).bind fun g => match g.status with
  | .trapped r => (t.traps.find r).map (·.cause)
  | _ => none

/-- The operation of a context's decode table that a word names (R95); none: its entry is not valid. A context of Kamver firmware has the map's own. -/
def serviceOp (s : State) (context w : Nat) : Option Nat :=
  let e := if context ≤ 64 then ((s.fns.find context).map fun f => tableEntry f (keyOf w)).getD 0 else resetEntry (keyOf w)
  if e < 32768 then none else some (e % 2048)

/-- A context runs: that of a function once the module is Ready; that of Kamver firmware's privileged level on a service core, from 65 up, once its core
has started (R10, R444). -/
def serviceRuns (s : State) (context : Nat) : Bool :=
  if context ≤ 64 then s.boot == .ready && (s.fns.find context).isSome else s.boot != .tripped && s.serviceCores.contains (context - 65)

/-- A service context reaches an instruction. A word of the lane set, one that its table leaves unassigned and an ill-encoded one raise
ILLEGAL_INSTRUCTION in it, as the system extension does outside the privileged level, where the spec does not give its encodings (R85). An
operation on its files has its effect, and one that a thread by itself can do is done so; one that reads what the spec gives no service context gives a free
value, and one that acts on engines, barriers, timers or other threads has no effect (log 29). -/
def execService (context word : Nat) (lits : List Nat) (s : State) : Out :=
  let x := (s.services.find context).getD Service.init
  let put (x : Service) : Out := .next { s with services := s.services.put context x }
  let trap (c : Cause) : Out := put { x with traps := (c, word) :: x.traps }
  if !serviceRuns s context then notNow
  else if 0x500 ≤ keyOf word ∧ keyOf word < 0x580 ∧ 65 ≤ context then .refused .privilegedExtension
  else match serviceOp s context word with
    | none => trap .illegalInstruction
    | some k =>
      if k < 0x400 then trap .illegalInstruction
      else match infoOf k word (lits.getD 0 0) (lits.getD 1 0) with
        | .error _ => trap .illegalInstruction
        | .ok i =>
          if !i.wf 128 false then trap .illegalInstruction
          else if filesOnly k word then match serviceEff x i.iss s with
            | .inl x2 => put (x2.past i.iss)
            | .inr c => trap c
          else if asThread context k then match runWord k word (lits.getD 0 0) (lits.getD 1 0) 128 false (onStage s context x) with
            | .next t => match stageTrap t with
              | some c => trap c
              | none => match serviceDone t with
                | .ok (.next u) => .next (offStage s u context x)
                | .ok o => o
                | .error c => trap c
            | o => o
          else if readsOther k && !((serviceCtx x.file).guarded i.iss.guard).subs.isEmpty then
            .next { s with
              services := s.services.put context ({ x with file := x.file.setS (fld word 15 6) ((Config.freeValue s.free).truncate 64) }.past i.iss)
              free := s.free + 1 }
          else put (x.past i.iss)

end Sys2Proof.Machine
end

