-- ==== Sys2Proof/Machine/Policy.lean ====
section
/-! DEFINITION. What the schedule may ask for: acts in the order of R134 (R377, R412), groups in turn (05_control R103), what falls due before time
passes (timers, R379; the ends of HOLDs, R432; bins and formations, R105 to R108), a debugger's step (R41); and what happens next where the schedule
says nothing (log 2): an internal event that can happen, else the next ready group, else a tick passes. Claims about every state hold for every schedule. -/
namespace Sys2Proof.Machine

/-! ### Internal events -/

/-- The service context gives back the page of an object at which something of the launch is parked, if it evicted it (R437). -/
def pageBack (s : State) (lk obj page : Nat) : List Instr :=
  if evictedPage s lk obj page then [.memoryPortInvalidate (s.fnOf lk) ⟨[], [], [(lk, obj, page)]⟩] else []

/-- What a parked access waits for: its page given back, or its replay. -/
def restoreEvents (s : State) (id : Nat) (a : Access) : List Instr :=
  match pageBack s (launchOfGang (gangOfTeam a.team)) a.obj (a.off / 65536), fnOfTeam s a.team with
  | [], some f => (match checkAccess s f a with
      | .ok _ => [.faultReplay id]
      | _ => [])
  | es, _ => es

/-- Where the default takes the frame of a snapshot copy: from the top of the HBM down. -/
def snapshotFrame (s : State) : Nat := Config.hbmBytes - 65536 * (1 + (s.launches.vals.map fun l => l.snaps.length).sum)

/-- Events of accesses in flight. -/
def accessEvents (s : State) : List Instr := s.accesses.flatMap fun p => match p.2.st with
  | .issued => (match p.2.kind with
      | .load _ => [.loadSectorReturn ⟨p.1, []⟩]
      | .atomic .. => [.atomicPerformed p.1]
      | .ordered .. => [.orderedValidate p.1]
      | _ => [.storeAcknowledged p.1]) ++ [.memorySideFault p.1, .snapshotPageCopy p.1 (snapshotFrame s)]
  | .queued .. => [.faultEntersLog p.1]
  | .resolving _ => restoreEvents s p.1 p.2
  | .refused .. => [.storeRefused p.1]
  | .faulted .. => []

/-- Events of a team's core. -/
def teamEvents (s : State) : List Instr := s.teams.flatMap fun p =>
  (p.2.board.keys.map fun e => Instr.scoreboardEntryRetire p.1 e) ++
  [.macroCommandFinish p.1 0, .macroCommandFinish p.1 1, .macroCommandStart p.1 0, .macroCommandStart p.1 1,
   .gstepDrained p.1 0, .gstepDrained p.1 1, .gstepArrivalsComplete p.1 0, .gstepArrivalsComplete p.1 1, .barrierPhaseComplete 0 p.1] ++
  (List.range 8).flatMap fun k => [Instr.gcfgDrained p.1 k, Instr.gcfgArrivalsComplete p.1 k]

/-- Evicted pages at which an operation of an engine is parked. -/
def engineRestores (s : State) : List Instr := s.gangs.flatMap fun p =>
  (p.2.channels.vals.filterMap (fun ch => ch.op.bind (·.parked)) ++ (p.2.relay.current.bind (·.parked)).toList).flatMap fun x =>
    if x.1 == .pageNotPresent then pageBack s (launchOfGang p.1) x.2.1 (x.2.2 / 65536) else []

/-- Events of a gang's channels. -/
def channelEvents (s : State) : List Instr := s.gangs.flatMap fun p => p.2.channels.keys.flatMap fun k =>
  [.copyOperationFinish p.1 k, .cpymFollowIssue p.1 k, .copyOperationAbort p.1 k, .chainRecordWalk p.1 ⟨k, [], []⟩, .copyOperationStart p.1 k ⟨[], []⟩]
    ++ (match (p.2.channels.find k).bind (·.op) with | some o => [Instr.snapshotPageCopy o.id (snapshotFrame s)] | none => [])

/-- Events of a gang's relay engine. -/
def relayEvents (s : State) : List Instr := s.gangs.flatMap fun p =>
  if p.2.relay.active.isNone && p.2.relay.queue.isEmpty then p.2.relay.aborts.map fun c => Instr.relayAbortNotice p.1 c 3
  else
    (p.2.relay.aborts.map fun c => Instr.relayAbortNotice p.1 c 3) ++
    [.relayAbortNotice p.1 ((p.2.relay.active.map (·.coll)).getD 0) 4, .relayRunStart ⟨p.1, []⟩, .relaySend ⟨p.1, []⟩, .relayRecv p.1, .relayRrs p.1, .relayRrd p.1,
     .relayCopy ⟨p.1, []⟩, .relayWait p.1, .relayLoop p.1, .relayEnd p.1, .flitLanded p.1, .relayPatienceExpired p.1]
    ++ (p.2.relay.active.map fun r => Instr.snapshotPageCopy r.id (snapshotFrame s)).toList
    ++ ((List.range (Config.quads * Config.coresPerQuad)).find? fun c => dieOfCore c == dieOfQuad p.2.quad && (teamsOn s c).isEmpty).toList.map fun c =>
        Instr.reduceKernelDispatch p.1 c

/-- Chunks, notices, posts and replies on their way. The default runtime offers services 16 and 17 only: any other answers 1, unchanged (R401). -/
def messageEvents (s : State) : List Instr :=
  (s.chunks.map fun c => Instr.relayChunkArrival c.id c.fn c.coll c.signature.toNat c.n c.sender c.target c.len c.bytes) ++
  ((List.range s.notices.length).flatMap fun i => [Instr.holdNotice (.here i), Instr.resumeNotice (.here i)]) ++
  (s.posts.map fun x => Instr.inboxEventArrival x.gang x.kind x.source x.length x.p0.toNat x.p1.toNat) ++
  (s.calls.map fun c => Instr.serviceCallReply c.1 1 ((c.2.args.getD 0 0).toNat) ((c.2.args.getD 1 0).toNat) ((c.2.args.getD 2 0).toNat)
    ((c.2.args.getD 3 0).toNat))

/-- The default handler (R392): BREAKPOINT goes on, every other cause is fatal; an uncorrectable record ends its launch by itself (R424). -/
def handlerEvents (s : State) : List Instr := (s.traps.filter fun p => !p.2.done && p.2.cause != .uncorrectable).map fun p =>
  if p.2.cause = .breakpoint && !p.2.fatal then .trapResume p.1 else .trapDeclareFatal p.1

/-- The restart of a suspended gang, and of its cohort with it, where there is room. -/
def resumeEvent (s : State) (gk : Nat) : Option Instr :=
  let lk := launchOfGang gk
  let ks := stopSet s gk
  match s.launches.find lk, s.fnFor lk with
  | some l, some f => match seatsFor f lk l (launchQuads s f l) ks (gk :: ks.filter (· != gk)) s with
    | some (x :: rest) => some (.gangResume gk x.quad ⟨x.cores, rest⟩)
    | _ => none
  | _, _ => none

/-- Events of a gang as the schedulers see it. -/
def gangEvents (s : State) : List Instr := s.gangs.flatMap fun p =>
  let lk := launchOfGang p.1
  [.barrierPhaseComplete 1 p.1, .gangSaved p.1, .gangMigrateAccept p.1, .gangStop p.1 5, .gangRetire p.1] ++
  (if p.2.status = .suspended then (resumeEvent s p.1).toList else match s.launches.find lk with
    | some l => if l.det && p.2.status == .resident then
        (((s.gangs.filter fun q => launchOfGang q.1 == lk && q.2.status == .suspended).map (·.1)).head?.toList ++ [gangKey lk l.placed]).map fun g2 =>
          Instr.timeSliceExpiry p.1 g2
      else []
    | none => [])

/-- Events of launches. -/
def launchEvents (s : State) : List Instr := s.launches.flatMap fun p => if p.2.status = .done then [] else
  [.barrierPhaseComplete 2 p.1, .launchReplay p.1, .launchComplete p.1] ++
  (match s.fnFor p.1 with
    | some f => if p.2.placed < p.2.gangs ∧ (p.2.status = .admitting ∨ p.2.status = .running) then
        ((if p.2.cohort then byDie (launchQuads s f p.2) else [launchQuads s f p.2]).filterMap fun qs => findRoom s f p.1 p.2 p.2.needs qs).map fun r =>
          Instr.gangPlace p.1 p.2.placed r.1 r.2
      else []
    | none => [])

/-- Events of the queues. -/
def queueEvents (s : State) : List Instr := s.fns.flatMap fun p => p.2.queues.keys.flatMap fun q =>
  [.launchHeadCheck p.1 q, .dependenceMet p.1 q, .headAging p.1 q, .launchAdmit p.1 q, .priorityPreemption p.1 q]

/-- Events of the cores on which a team stands. -/
def coreEvents (s : State) : List Instr :=
  (s.teams.flatMap fun p => p.2.bins.map fun b => Instr.binAgeLimit p.1 b.seq) ++
  ((s.teams.vals.map (·.core)).eraseDups.flatMap fun c => [Instr.groupFormation c, Instr.thinGroupYield c])

/-- The events that may happen of themselves, in the default order. -/
def candidates (s : State) : List Instr :=
  if s.boot ≠ .ready then [.bootRomStart, .trainingDone]
  else accessEvents s ++ engineRestores s ++ teamEvents s ++ channelEvents s ++ relayEvents s ++ messageEvents s ++ handlerEvents s ++ gangEvents s ++ launchEvents s
    ++ queueEvents s ++ coreEvents s

/-- The event happens and changes something. -/
def happens (s : State) (i : Instr) : Bool := match exec i s with
  | .next t => decide (t ≠ s)
  | _ => false

/-! ### The order of acts in a core cycle (R134) -/

/-- The rank of an event that R134 orders: stops 0, traps and faults 1, completions 2. An issue has rank 3; other events have none (log 2). -/
def actRank : Instr → Option Nat
  | .gangStop _ _ | .priorityPreemption _ _ | .timeSliceExpiry _ _ => some 0
  | .memorySideFault _ | .faultEntersLog _ | .faultDeclaredFatal _ | .storeRefused _ | .cancel _ _ _ | .copyOperationAbort _ _ | .relayAbortNotice _ _ _ | .relayPatienceExpired _
  | .trapDeclareFatal _ => some 1
  | .loadSectorReturn _ | .atomicPerformed _ | .storeAcknowledged _ | .orderedValidate _ | .faultReplay _ | .trapResume _ | .scoreboardEntryRetire _ _
  | .gstepArrivalsComplete _ _ | .gstepDrained _ _ | .gcfgArrivalsComplete _ _ | .gcfgDrained _ _ | .barrierPhaseComplete _ _ | .copyOperationFinish _ _
  | .macroCommandFinish _ _ | .relayEnd _ | .flitLanded _ | .serviceCallReply _ _ _ _ _ _ => some 2
  | _ => none

/-- The rank of an event here: whatever takes a trap is one (R134). -/
def rankIn (s : State) (i : Instr) : Option Nat := match exec i s with
  | .next t => if s.traps.length < t.traps.length then some 1 else actRank i
  | _ => actRank i

/-- The quad at which an event of R134 takes effect; none: at no one quad. -/
def eventQuad (s : State) (i : Instr) : Option Nat :=
  let gang (k : Nat) : Option Nat := (s.gangs.find k).map (·.quad)
  let acc (id : Nat) : Option Nat := (s.accesses.find id).bind fun a => gang (gangOfTeam a.team)
  match i with
  | .gangStop g _ | .copyOperationAbort g _ | .relayAbortNotice g _ _ | .relayPatienceExpired g | .copyOperationFinish g _ | .relayEnd g | .flitLanded g => gang g
  | .memorySideFault a | .faultEntersLog a | .faultDeclaredFatal a | .storeRefused a | .atomicPerformed a | .storeAcknowledged a | .orderedValidate a
  | .faultReplay a => acc a
  | .loadSectorReturn r => acc r.acc
  | .trapDeclareFatal r | .trapResume r => (s.traps.find r).bind fun x => gang x.owner
  | .scoreboardEntryRetire t _ | .gstepArrivalsComplete t _ | .gstepDrained t _ | .gcfgArrivalsComplete t _ | .gcfgDrained t _ | .macroCommandFinish t _
  | .barrierPhaseComplete 0 t => gang (gangOfTeam t)
  | .barrierPhaseComplete 1 g => gang g
  | .serviceCallReply c _ _ _ _ _ => (s.calls.find c).bind fun x => gang (gangOfTeam (teamOfGroup x.group))
  | _ => none

/-- Units until what happened last under a key leaves room for an act of a rank, in a cycle of so many units. -/
def actWait (s : State) (r key cycle : Nat) : Nat := match s.acts.find key with
  | some (t, q) => if q ≤ r ∨ t / cycle ≠ s.now / cycle then 0 else cycle - s.now % cycle
  | none => 0

/-- Units until an act of a rank may happen at a quad: nothing of a lower rank comes after one of a higher rank in one core cycle of the quad (R134,
R415) or in one real tick (R377). An act at no one quad waits for every quad. -/
def rankWait (s : State) (r : Nat) (quad : Option Nat) : Nat :=
  max (actWait s r 0 5) (match quad with
    | some q => max (actWait s r 1 (s.cycle q)) (actWait s r (q + 2) (s.cycle q))
    | none => (s.acts.keys.filter (decide <| 1 ≤ ·)).foldl (fun n k => max n (actWait s r k (if k = 1 then 2 else s.cycle (k - 2)))) 0)

/-- An act of a rank has happened at a quad. -/
def State.ranked (s : State) (r : Nat) (quad : Option Nat) : State :=
  { s with acts := (s.acts.put 0 (s.now, r)).put ((quad.map (· + 2)).getD 1) (s.now, r) }

/-! ### Whose turn it is (R103) -/

/-- A group may issue. -/
def mayIssue (s : State) (k : Nat) (g : Group) : Bool := g.status == .ready && teamServed s (teamOfGroup k) &&
  ((s.launches.find (launchOfGang (gangOfTeam (teamOfGroup k)))).any fun l => l.fatal.isNone)

/-- The core a group stands on. -/
def coreOfGroup (s : State) (k : Nat) : Nat := ((s.teams.find (teamOfGroup k)).map (·.core)).getD 0

/-- How many slots a group is from the one whose turn it is. -/
def turnsTo (s : State) (core k : Nat) : Nat := (k % 64 + 127 - sget 63 s.turns core) % 64

/-- The first in turn of some groups of a core. -/
def firstInTurn (s : State) (core : Nat) : List Nat → Option Nat
  | [] => none
  | k :: t => match firstInTurn s core t with
    | none => some k
    | some j => if turnsTo s core k ≤ turnsTo s core j then some k else some j

/-- The group that a core issues next: one formed in an earlier core cycle that has not yet had its turn; else the ready ones in turn. Of several formed
in one cycle, which R106 has only where some are forced, the first formed is first: DESIGN CHOICE (log 15). -/
def nextOn (s : State) (core : Nat) : Option Nat :=
  let ready := (groupsOn s core).filter fun p => mayIssue s p.1 p.2
  let c := s.cycle (core / Config.coresPerQuad)
  match earliest (ready.filter fun p => p.2.fresh.any fun t => t / c != s.now / c) with
  | some p => some p.1
  | none => firstInTurn s core (ready.map (·.1))

/-- The group formed under number no has had its first turn: another that now has its slot has not. -/
def State.unfresh (s : State) (k no : Nat) : State := s.setGroup k fun g => if g.formed = no then { g with fresh := none } else g

/-- The group formed under number no has issued: the turn is the next one's. One that found that it must wait has not, but it does not come first
again. -/
def issued (s : State) (core k no : Nat) : State :=
  if (s.groups.find k).any fun g => g.formed == no && g.status == .waiting then s.unfresh k no
  else ({ s with turns := sset 63 s.turns core (k % 64), issuedAt := s.issuedAt.put core (s.now + 1) }.unfresh k no).ranked 3
    (some (core / Config.coresPerQuad))

/-- A group issues its next instruction, where it is its turn on its core. -/
def issueTurn (k : Nat) (s : State) : Out :=
  let core := coreOfGroup s k
  if nextOn s core ≠ some k then notNow
  else match runGroup k s with
    | .next t => .next (issued t core k (((s.groups.find k).map (·.formed)).getD 0))
    | o => o

/-! ### A debugger's step (R41) -/

/-- The halted gang may issue one instruction where it stands: every gang of its launch is halted, its places are kept or free, and no HOLD of it runs. -/
def mayStep (s : State) (gk : Nat) (g : Gang) : Bool :=
  let lk := launchOfGang gk
  let slots (c : Nat) : List Nat := (groupsOn s c).map fun p => p.1 % 64
  debugHeld s lk g && g.status == .suspended && (s.gangs.all fun p => launchOfGang p.1 != lk || !p.2.inService)
    && (match g.holdUntil with | some (t, _) => decide (t ≤ s.now) | none => true)
    && match s.launches.find lk, s.fnFor lk with
      | some l, some f => l.fatal.isNone && (g.kept ||
          ((s.groups.all fun p => gangOfTeam (teamOfGroup p.1) != gk || !(slots (coreOfGroup s p.1)).contains (p.1 % 64))
            && roomOn s f lk l g.quad (ownCores s gk) (savedNeeds s l gk)))
      | _, _ => false

/-- The timers of a gang that have come due expire (R379). -/
def Gang.expireDue (g : Gang) : Gang := g.timers.foldl (fun g p => match p.2 with
  | .armed d _ => if 5 * d ≤ g.vt then g.expire p.1 d else g
  | _ => g) g

/-- A halted gang in service again for a step, in which dt units pass for it. -/
def State.stepIn (s : State) (gk dt : Nat) : State :=
  let s1 := s.setGang gk fun g => ({ g with status := .resident, stopAt := g.stopAt + dt }.pass dt (s.divider g.quad)).expireDue
  { s1 with teams := s1.teams.mapVals fun k t => if gangOfTeam k = gk then t.boardBack.pass dt (s.divider (t.core / Config.coresPerQuad)) else t }

/-- It stops again, its places kept (R412); its partners are under its HOLD as they were. -/
def State.stepOut (s : State) (gk stopAt : Nat) : State :=
  (s.setGang gk fun g => { g with status := .quiescing, stopWhy := .step, stopAt := stopAt, kept := true }).markHeads gk true

/-- `step`: issue restarts for one instruction of a group of a halted gang, and the move's time is the time that this takes on its virtual clock (R20,
R41); then it stops again. -/
def stepHalted (k dt : Nat) (s : State) : Out :=
  let gk := gangOfTeam (teamOfGroup k)
  match s.gangs.find gk with
  | none => notNow
  | some g =>
    if !mayStep s gk g then notNow
    else
      let s1 := s.stepIn gk dt
      if !((s1.groups.find k).any fun x => mayIssue s1 k x) then notNow
      else match runGroup k s1 with
        | .next t => .next ((issued t (coreOfGroup s k) k (((s.groups.find k).map (·.formed)).getD 0)).stepOut gk (g.stopAt + dt))
        | o => o

/-! ### Errors in memory (R425, R449) -/

/-- An error arises in a sector, which does not mend one that is there; one that cannot be corrected is counted as it arises (DESIGN CHOICE, log 4), one
that can be when it is corrected. -/
def upset (sector : Nat) (correctable : Bool) (s : State) : State :=
  if correctable then { s with ecc := if sget .ok s.ecc sector = .uncorrectable then s.ecc else sset .ok s.ecc sector .correctable }
  else { s with ecc := sset .ok s.ecc sector .uncorrectable }.countError (2 * stackOf sector + 1)

/-! ### Acts -/

/-- An event happens, where its rank may come. After a thermal trip only a cold reset happens (R442); an encoded instruction, and the trap of an unassigned
opcode, happen only where a group fetches them. -/
def eventAct (i : Instr) (s : State) : Out :=
  if !isEvent i || i == .unassignedOpcode || (s.boot == .tripped && i != .coldReset) then notNow
  else match rankIn s i with
    | none => exec i s
    | some r => if rankWait s r (eventQuad s i) ≠ 0 then notNow else match exec i s with
      | .next t => .next (t.ranked r (eventQuad s i))
      | o => o

/-- An act of the schedule, after dt units have passed. -/
def runAct (a : Act) (dt : Nat) (s : State) : Out := match a with
  | .idle => .next s
  | .issue k => if (s.gangs.find (gangOfTeam (teamOfGroup k))).any (·.inService) then issueTurn k s else stepHalted k dt s
  | .service c w ls => execService c w ls s
  | .upset x c => if decide (32 * x < Config.hbmBytes) && s.boot != .tripped then .next (upset x c s) else notNow
  | .event i => eventAct i s

/-! ### The next act -/

/-- The first of some events that may happen, by rank. -/
def firstEvent (s : State) (is : List Instr) : Option Instr :=
  ([some 0, some 1, some 2, none] : List (Option Nat)).findSome? fun r => (is.filter fun i => actRank i == r).find? (happens s)

/-- The cores on which teams stand, in order from the one after that of the current group. -/
def coresInTurn (s : State) : List Nat :=
  let cs := sortNat ((s.teams.filter fun p => standing s p.1).map (·.2.core)).eraseDups
  let c := (s.cur.map (coreOfGroup s)).getD 0
  (cs.filter fun x => decide (c < x)) ++ cs.filter fun x => decide (x ≤ c)

/-- The move where the schedule is empty. -/
def defaultMove (s : State) : Move := match firstEvent s (candidates s) with
  | some i => ⟨((rankIn s i).map fun r => rankWait s r (eventQuad s i)).getD 0, .event i⟩
  | none => match (coresInTurn s).findSome? (nextOn s) with
    | some k => ⟨s.cycle (coreOfGroup s k / Config.coresPerQuad), .issue k⟩
    | none => ⟨5, .idle⟩

/-- The next move, and the schedule after it. -/
def nextMove (s : State) : Move × List Move := match s.schedule with
  | m :: t => (m, t)
  | [] => (defaultMove s, [])

/-! ### Timers (R379) -/

/-- Units until a timer of a gang in service falls due: units, gang, timer. -/
def dueOf (gk : Nat) (g : Gang) : List (Nat × Nat × Nat) :=
  if !g.inService then [] else g.timers.filterMap fun p => match p.2 with
    | .armed d _ => some (5 * d - g.vt, gk, p.1)
    | _ => none

/-- The timer that falls due first. -/
def firstDue : List (Nat × Nat × Nat) → Option (Nat × Nat × Nat)
  | [] => none
  | x :: t => match firstDue t with
    | none => some x
    | some y => if x.1 ≤ y.1 then some x else some y

/-- The first timer to fall due within dt units. -/
def dueWithin (s : State) (dt : Nat) : Option (Nat × Instr) := match firstDue (s.gangs.flatMap fun p => dueOf p.1 p.2) with
  | some x => if x.1 ≤ dt then some (x.1, .timerExpiry x.2.1 x.2.2) else none
  | none => none

/-! ### The end of a HOLD (R432) -/

/-- The restart of a gang at the end of its HOLD, if that lies within dt units and nothing stands against it then: units, and the event. -/
def holdEnd (s : State) (dt gk : Nat) (g : Gang) : Option (Nat × Instr) := match g.holdUntil with
  | some (t, _) =>
    if t < s.now ∨ s.now + dt < t then none
    else (resumeEvent (s.pass (t - s.now)) gk).bind fun i => if happens (s.pass (t - s.now)) i then some (t - s.now, i) else none
  | none => none

/-- The earliest of some events: units, and the event. -/
def soonest (xs : List (Nat × Instr)) : Option (Nat × Instr) := xs.foldl (fun b x => match b with
  | none => some x
  | some y => if x.1 < y.1 then some x else some y) none

/-! ### Bins and formations (R105 to R108) -/

/-- Units until a bin reaches the age limit of its function (R105). -/
def ageWait (s : State) (tk : Nat) (t : Team) (b : Bin) : Nat :=
  let d := s.divider (t.core / Config.coresPerQuad)
  ((ageLimitOf s tk * 16 - b.age) * d + 7) / 8

/-- The bins that come to their age limit. -/
def agings (s : State) : List (Nat × Instr) := s.teams.flatMap fun p =>
  if teamServed s p.1 && !isDet s p.1 then (p.2.bins.filter fun b => !b.eligible).map fun b => (ageWait s p.1 p.2 b, .binAgeLimit p.1 b.seq) else []

/-- A group that may issue would find that it still waits: what woke it was not for it. -/
def stillWaits (s : State) (k : Nat) (g : Group) : Bool := mayIssue s k g && match runGroup k s with
  | .next t => decide (t.nextId = s.nextId) && ((t.groups.find k).any fun h => h.formed == g.formed && h.status == .waiting && h.acted == g.acted)
      && g.lanes.all fun u => (t.thread (threadKey (teamOfGroup k) u)).issued == (s.thread (threadKey (teamOfGroup k) u)).issued
  | _ => false

/-- No group of a core is ready (R103, R105). -/
def noneReady (s : State) (core : Nat) : Bool := (groupsOn s core).all fun p => !mayIssue s p.1 p.2 || stillWaits s p.1 p.2

/-- A core has not issued in the core cycle that now runs, or a whole later one passes, within dt units. -/
def idleCycle (s : State) (core dt : Nat) : Bool :=
  let c := s.cycle (core / Config.coresPerQuad)
  let n := (s.now + dt) / c - s.now / c
  decide (2 ≤ n) || (decide (n = 1) && match s.issuedAt.find core with
    | some t => (t - 1) / c != s.now / c
    | none => true)

/-- A core cycle in which no group of a core is ready makes all its bins eligible (R105): at the cycle's end, within dt units. -/
def idleBins (s : State) (dt : Nat) : State := ((s.teams.vals.map (·.core)).eraseDups).foldl (fun s core =>
  let bs := (liveBins s core false).filter fun p => !p.2.eligible
  if !bs.isEmpty && idleCycle s core dt && noneReady s core then markEligible s (bs.map (·.1)) else s) s

/-- dt units pass, with what the cores' cycles bring. -/
def State.cyclesPass (s : State) (dt : Nat) : State := (idleBins s dt).pass dt

/-- The formation, or the yield that makes room for it, that a core comes to: each core cycle while a bin may be formed (R106, R107, R418). Where its bins
are not eligible yet, the end of this core cycle or of the next may make them so (R105). -/
def formations (s : State) : List (Nat × Instr) := (s.teams.vals.map (·.core)).eraseDups.filterMap fun core =>
  if liveBins s core true ++ liveBins s core false = [] then none
  else
    let c := s.cycle (core / Config.coresPerQuad)
    let u := c - s.now % c
    let now := if (detBin s core).isSome || mayForm s core then [0] else []
    (now ++ [u, u + c]).findSome? fun u => ([.groupFormation core, .thinGroupYield core].find? (happens (s.cyclesPass u))).map fun i => (u, i)

/-- What a core does by itself before dt more units have passed. -/
def pressing (s : State) (dt : Nat) : Option (Nat × Instr) :=
  if dt = 0 then none else soonest ((agings s ++ formations s).filter fun x => decide (x.1 ≤ dt))

/-! ### One move -/

/-- The power manager's sample, due when a span of 10,000 real ticks has ended and the schedule has taken none of the one that begins (R415). The rates are
then those of the budget, every consumer at its full rate: DESIGN CHOICE (log 2, log 4). -/
def sampleDue (s : State) (dt : Nat) : Option (Nat × Instr) :=
  let i := Instr.powerSample (Config.powerBudget.map fun _ => 100) []
  if s.boot ≠ .ready then none
  else if s.sampled ≤ s.span ∧ s.span ≠ 0 then some (0, i)
  else
    let u := (s.span + 1) * 50000 - s.now
    if u ≤ dt then some (u, i) else none

/-- What falls due within a move's time: a timer, the end of a HOLD, an aged bin or a formation, a power sample. -/
def dueFirst (s : State) (dt : Nat) : Option (Nat × Instr) := if s.boot = .tripped then none else
  soonest ((dueWithin s dt).toList ++ s.gangs.filterMap (fun p => holdEnd s dt p.1 p.2) ++ (pressing s dt).toList ++ (sampleDue s dt).toList)

/-- Ready heads that can be placed as things stand: the pre-emption delay counts from the last such time (R411). -/
def noteHeads (s : State) : State := { s with launches := s.launches.mapVals fun k l =>
  if l.status = .ready ∨ l.status = .admitting then match s.fnFor k with
    | some f => if fitsNow s f k l then { l with fitAt := s.rt } else l
    | none => l
  else l }

/-- dt units pass. -/
def State.elapse (s : State) (dt : Nat) : State := if dt = 0 then s else noteHeads (s.cyclesPass dt)

/-- One move. What falls due before the move's time has passed comes first, and the rest of the time is still to pass. -/
def runMove (s : State) (m : Move) (rest : List Move) : Out := match dueFirst s m.dt with
  | some (u, i) => exec i ({ s with schedule := if s.schedule.isEmpty then [] else { m with dt := m.dt - u } :: rest }.elapse u)
  | none => runAct m.act m.dt ({ s with schedule := rest }.elapse m.dt)

end Sys2Proof.Machine
end

