-- ==== Sys2Proof/Machine/Loaded.lean ====
section
/-! DEFINITION. Where the next instruction is fetched, and a machine with a program loaded (log 13): what firmware, the loader and the command
processor have done before a kernel's first instruction, for a kernel of one gang, one team and one wave. -/
namespace Sys2Proof.Machine

/-! ### The fetch location -/

/-- The physical address of the current group's next instruction, where its 12 bytes are fetched from one page without any fault. -/
def fetchPlace (s : State) : Option Nat := match ctx? s with
  | none => none
  | some c =>
    let k := c.code
    let off := (k.base + c.g.pc) % 2 ^ 64
    if !k.valid || !k.has .x || decide (k.length < c.g.pc + 12) || decide (65536 < off % 65536 + 12) || decide (off % 4 ≠ 0) then none
    else match memCheck s c.fn (dieOfCore c.team.core) k.object off 12 0 .fetch with
      | .ok p => some p.phys
      | _ => none

/-- Write an instruction's bytes where it is fetched, and let its group issue next: it is its turn on its core. -/
def putFetch (s : State) (gkey a w : Nat) : State :=
  let core := coreOfGroup s gkey
  { s with
    mem := writeLE s.mem a 12 w
    schedule := [⟨0, .issue gkey⟩]
    turns := sset 63 s.turns core ((gkey + 63) % 64)
    groups := s.groups.mapVals fun k g => if coreOfGroup s k = core then { g with fresh := none } else g }

/-! ### A loaded kernel -/

/-- The image of the loaded kernel: one team of one wave, 128 registers, code in object 1, promise N, the core's macros. -/
def loadedImage : NativeImage := ⟨1, 65536, 1, 1, 128, [], 0, 0, false, false, [], true, false⟩

/-- The physical function with its object directory at an address and the image under handle 1. -/
def loadedFn (root : Nat) : Fn := { Fn.physical with dirRoot := root, images := [(1, loadedImage)] }

/-- Its launch, running, with every argument zero. -/
def loadedLaunch (die : Nat) : Launch :=
  { queuedLaunch 0 0 (.host 1) 1 1 1 0 0 0 0 0 with status := .running, checked := true, shape := loadedImage, die := some die, placed := 1 }

/-- Object 1: directory entries, descriptor (length 65,536, scope `.die`), and one page, read-only, in the frame at b + 0x500000. -/
def loadedTables (mem : List Host.Cell) (b : Nat) : List Host.Cell :=
  writeLE (writeLE (writeLE (writeLE (writeLE mem (b + 0x100000) 8 (b + 0x200001)) (b + 0x200008) 8 (b + 0x300001))
    (b + 0x300000) 8 (b + 0x400000)) (b + 0x300008) 24 (2 ^ 49 + 65536)) (b + 0x400000) 8 (b + 0x500021)

/-- The first core with room for the loaded kernel's team. -/
def loadedCore (s : State) : Option Nat :=
  (List.range (Config.quads * Config.coresPerQuad)).find? fun c => coreRoom s c (loadedLaunch 0).need && decide (4 ≤ (freeEngines s (dieOfCore c)).length)

/-- The machine in Ready with the kernel's one gang at its first instruction on a core. -/
def loadedOn (s : State) (core : Nat) : State :=
  let die := dieOfCore core
  let b := die * Config.dieBytes
  let lk := s.nextId
  let l := loadedLaunch die
  let s1 := { s with
    boot := .ready
    mem := loadedTables s.mem b
    ecc := s.ecc.filter fun p => p.1 != (b + 0x500000) / 32
    past := s.past.filter fun p => p.1 / 65536 != (b + 0x500000) / 65536
    fns := s.fns.put 0 (loadedFn (b + 0x100000))
    launches := s.launches.put lk l
    sampled := s.span + 1
    nextId := lk + 1 }
  let s2 := placeGang s1 l (gangKey lk 0) (core / Config.coresPerQuad) [core]
  { s2 with cur := (s2.groups.keys.find? fun k => gangOfTeam (teamOfGroup k) == gangKey lk 0) }

/-- A machine whose current group can fetch: a kernel is loaded where there is none. -/
def loaded (s : State) : State := match loadedCore s with
  | some c => loadedOn s c
  | none => loadedOn (dropGangs s fun _ => true) 0

/-- The current group may fetch at the next step: where, if nothing falls due first. -/
def fetchSpot (s : State) : Option (Nat × Nat) := match s.cur with
  | none => none
  | some k =>
    if s.boot = .ready && (dueFirst s 0).isNone && (s.groups.find k).any (mayIssue s k) then (fetchPlace s).map fun a => (a, k) else none

/-- The instruction with bits w stored where the next step fetches: where the current group can fetch and nothing falls due first, there; else
a kernel is loaded, armed timers are idle, no HOLD ends and no power sample is due. -/
def fetchNext (s : State) (w : Nat) : State := match fetchSpot s with
  | some (a, k) => putFetch s k a w
  | none =>
    let t := loaded s
    let quiet (g : Gang) : Gang := if g.timers.isEmpty && g.holdUntil.isNone then g else { g with timers := [], holdUntil := none }
    match fetchPlace t, t.cur with
    | some a, some k => putFetch { t with gangs := t.gangs.mapVals fun _ g => quiet g } k a w
    | _, _ => t

end Sys2Proof.Machine
end

