-- ==== Sys2Proof/Machine/Step.lean ====
section
/-! DEFINITION. One step of the machine: the next move of the schedule, or the default one. -/
namespace Sys2Proof.Machine

/-- One step. -/
def step (s : State) : Host.Outcome State Fault Refusal := runMove s (nextMove s).1 (nextMove s).2

/-- s with an instruction of nbits bits w stored where step fetches next; a kernel is loaded first where no group can fetch. -/
def State.withFetchWord (s : State) (nbits w : Nat) : State := fetchNext s (w % 2 ^ nbits)

end Sys2Proof.Machine
end

