-- ==== Sys2Proof/Safety.lean ====
section
/-! DEFINITION. What claims are stated in: when an instruction of a group can issue with its own effect, what a safe run is, and the frames
that say what an instruction leaves alone. -/
namespace Sys2Proof.Machine

/-! ### Safe runs -/

/-- A state from which a step answers a next state: it neither stops (a frame that no memory has) nor is asked for what cannot happen. -/
def Goes (s : State) : Prop := ∃ t, step s = .next t

/-- A run of n steps that answers a next state each time. -/
def SafeRun : Nat → State → Prop
  | 0, _ => True
  | n + 1, s => ∃ t, step s = .next t ∧ SafeRun n t

/-! ### When an instruction issues (R86, R99 to R114) -/

/-- Group c of state s issues the encoded instruction i with the instruction's own effect: the group can issue; in a heat, i is allowed
there (R131); the windows and acquires that R111, R112 and R262 ask for are complete; some lane is selected (R128) and some subset's guard
holds (R78, R101); no name of i is written by an instruction still in a window (R113). -/
structure Issues (i : Instr) (s : State) (c : Ctx) : Prop where
  current : ctx? s = some c
  heat : c.inHeat = true → (issOf i).forbid = false
  waits : waitFor s c.tk (mustComplete c.g (issOf i)) = .go
  lanes : c.lanes ≠ []
  guard : (c.guarded (issOf i).guard).subs ≠ []
  clear : hazard (pruned c.g (issOf i)) ((issOf i).names (c.guarded (issOf i).guard)) = false

/-- The context an instruction acts in: the subsets whose guard holds. -/
def acting (i : Instr) (c : Ctx) : Ctx := c.guarded (issOf i).guard

/-- The state an instruction's effect starts from: the group has left its ended windows behind (R111, R112). -/
def acted (i : Instr) (s : State) (c : Ctx) : State := pastWaits s c (issOf i)

/-! ### Frames -/

/-- The group has gone on past an instruction of so many words: its place and windows, and the gang's performance counters, have moved. -/
structure GoesOn (s t : State) (c : Ctx) (words : Nat) : Prop where
  gangs : ∃ cs, ∀ k, t.gangs.find k = (s.gangs.find k).map fun g => if k = c.gk then { g with counters := cs } else g
  place : ∃ ws as, t.groups.find c.gkey = some { c.g with
    pc := c.g.pc + 4 * words, status := .ready, acted := [], heat := c.g.heat.bind Heat.next, windows := ws, acquires := as }
  groups : ∀ k, k ≠ c.gkey → t.groups.find k = s.groups.find k

/-- The group has gone on, and nothing of the machine has changed but threads, waves, the group's own place and windows, and the gang's
performance counters. -/
structure Moved (s t : State) (c : Ctx) (words : Nat) : Prop extends GoesOn s t c words where
  rest : t = { s with threads := t.threads, waves := t.waves, gangs := t.gangs, groups := t.groups }

/-- The group has gone on and accesses are in flight, numbered in order from the next free number; memory and the rest are as before (R217,
R220). -/
structure Sent (s t : State) (c : Ctx) (words : Nat) (accs : List Access) : Prop extends GoesOn s t c words where
  rest : t = { s with threads := t.threads, waves := t.waves, gangs := t.gangs, groups := t.groups, accesses := t.accesses, nextId := t.nextId }
  next : t.nextId = s.nextId + accs.length
  sent : ∀ (k : Nat) a, accs[k]? = some a → t.accesses.find (s.nextId + k) = some { a with seq := s.nextId + k }
  kept : ∀ j, j < s.nextId ∨ s.nextId + accs.length ≤ j → t.accesses.find j = s.accesses.find j

/-- A thread after one more issued instruction. -/
def Thread.counted (t : Thread) : Thread := { t with issued := t.issued + 1 }

/-- Threads are as before but for their counts of issued instructions. -/
def ThreadsKept (s t : State) : Prop := ∀ k, ∃ n, t.thread k = { s.thread k with issued := n }

/-- Waves are as before. -/
def WavesKept (s t : State) : Prop := ∀ k, t.wave k = s.wave k

/-- The flags that a wave collects from its lanes (R67, R69). -/
def flagsTo (c : Ctx) (k : Nat) (fl : Ctx → Lane → Flags5) : Flags5 :=
  ((c.lanes.filter fun l => l.wk == k).map (fl c)).foldl (· ||| ·) 0

/-- Every selected lane's thread becomes what new gives, every lane reading the state before any lane writes (R26); every other thread stays;
every wave collects the flags of its lanes and is otherwise as before. -/
structure LanesBecome (s t : State) (c : Ctx) (new : Ctx → Lane → Thread) (fl : Ctx → Lane → Flags5) : Prop where
  lanes : ∀ l ∈ c.lanes, t.thread l.key = (new c l).counted
  others : ∀ k, (∀ l ∈ c.lanes, k ≠ l.key) → t.thread k = s.thread k
  waves : ∀ k, t.wave k = (s.wave k).raise (flagsTo c k fl)

/-- A lane instruction completes: the lanes become what new gives. -/
def LaneDoes (i : Instr) (words : Nat) (new : Ctx → Lane → Thread) (fl : Ctx → Lane → Flags5) : Prop :=
  ∀ s c, Issues i s c → ∃ t, exec i s = .next t ∧ Moved s t c words ∧ LanesBecome s t (acting i c) new fl

/-- It raises no flag. -/
def noFlags (_ : Ctx) (_ : Lane) : Flags5 := 0

/-- Register d of the lane takes an image; every other register, predicate and counter of the thread stays. -/
def putV (d : Nat) (v : Ctx → Lane → Image) (c : Ctx) (l : Lane) : Thread := l.th.setV (c.reg l d) (v c l)
/-- Predicate p of the lane takes a bit. -/
def putP (p : Nat) (v : Ctx → Lane → Bool) (c : Ctx) (l : Lane) : Thread := l.th.setP p (v c l)
/-- Register d of the lane takes a field with S clear. -/
def putF (d : Nat) (v : Ctx → Lane → W32) : Ctx → Lane → Thread := putV d fun c l => ⟨v c l, false⟩

/-- Every subset whose guard holds becomes what new gives; every other wave stays; threads keep their registers and predicates. -/
structure SubsBecome (s t : State) (c : Ctx) (new : Ctx → Sub → Wave) : Prop where
  subs : ∀ w ∈ c.subs, t.wave w.wk = new c w
  others : ∀ k, (∀ w ∈ c.subs, k ≠ w.wk) → t.wave k = s.wave k
  threads : ThreadsKept s t

/-- A uniform instruction completes: the subsets become what new gives. -/
def SubDoes (i : Instr) (words : Nat) (new : Ctx → Sub → Wave) : Prop :=
  ∀ s c, Issues i s c → ∃ t, exec i s = .next t ∧ Moved s t c words ∧ SubsBecome s t (acting i c) new

/-- Register s_d of the subset takes a value; every other register of the wave stays. -/
def putS (d : Nat) (v : Ctx → Sub → W64) (c : Ctx) (w : Sub) : Wave := w.wv.setS d (v c w)
/-- Predicate q of the subset takes a bit. -/
def putQ (q : Nat) (v : Ctx → Sub → Bool) (c : Ctx) (w : Sub) : Wave := w.wv.setQ q (v c w)
/-- Capability register c_d of the subset takes a capability. -/
def putC (d : Nat) (v : Ctx → Sub → Cap) (c : Ctx) (w : Sub) : Wave := w.wv.setC d (v c w)

/-- A uniform instruction completes where no subset's check fails. -/
def SubDoesIf (i : Instr) (words : Nat) (bad : Ctx → Sub → Option (Cause × Nat × Nat)) (new : Ctx → Sub → Wave) : Prop :=
  ∀ s c, Issues i s c → (∀ w ∈ (acting i c).subs, bad (acting i c) w = none) →
    ∃ t, exec i s = .next t ∧ Moved s t c words ∧ SubsBecome s t (acting i c) new

/-- Where some subset's check fails, the first such subset in ascending wave-of-origin traps, naming its lowest-ranked thread, and nothing is
written (R139). -/
def SubTrapsIf (i : Instr) (bad : Ctx → Sub → Option (Cause × Nat × Nat)) : Prop :=
  ∀ s c pre w post cause obj off, Issues i s c → (acting i c).subs = pre ++ w :: post → (∀ v ∈ pre, bad (acting i c) v = none) →
    bad (acting i c) w = some (cause, obj, off) →
    exec i s = .next (takeTrap (acted i s c) c.gkey { (acting i c).trapArgs cause (lowLane w.lanes) with object := obj, offset := off })

/-- A uniform instruction with a check: both cases. -/
def SubChecked (i : Instr) (words : Nat) (bad : Ctx → Sub → Option (Cause × Nat × Nat)) (new : Ctx → Sub → Wave) : Prop :=
  SubDoesIf i words bad new ∧ SubTrapsIf i bad

/-! ### Memory instructions at issue -/

/-- The access that a want becomes when it passes (R214, R215): the capability's object, base + offset, the size and the capability's colour. -/
def reqOf (q : List Nat × Nat × Want) : Req :=
  ⟨q.1, q.2.1, q.2.2.cap.object, (((q.2.2.cap.base : Int) + q.2.2.a) % 2 ^ 64).toNat, q.2.2.size, q.2.2.cap.colour, q.2.2.cap⟩

/-- Every want passes check_cap (R27). -/
def WantsPass (ws : List (List Nat × Nat × Want)) : Prop := ∀ q ∈ ws, ∃ r, q.2.2.check q.2.2.rights = .ok r

/-- Where a want fails, the first that fails traps, naming its lowest-ranked thread; no access is made and nothing is written (R215). -/
def MemTraps (i : Instr) (wants : Ctx → List (List Nat × Nat × Want)) : Prop :=
  ∀ s c pre p post e, Issues i s c → wants (acting i c) = pre ++ p :: post → WantsPass pre → p.2.2.check p.2.2.rights = .error e →
    exec i s = .next (takeTrap (acted i s c) c.gkey { (acting i c).trapArgs e.1 (p.1.headD 0) with object := e.2.1, offset := e.2.2 })

/-- One access of n bytes a lane at the index in vx under c_b, with some rights (R214). -/
def laneWants (n : Nat) (disp : Int) (x b : Nat) (rs : List Right) (c : Ctx) : List (List Nat × Nat × Want) :=
  c.lanes.map fun l => ([l.t], l.wk, ⟨l.wv.getC b, laneOffset (c.src l x) n disp, n, rs⟩)

/-- The request of one lane. -/
def laneReq (n : Nat) (disp : Int) (x b : Nat) (c : Ctx) (l : Lane) : Req :=
  reqOf ([l.t], l.wk, ⟨l.wv.getC b, laneOffset (c.src l x) n disp, n, []⟩)

/-- A lane load: its sectors leave (R217) and no register changes until they return; a lane that fails its check traps. -/
def LaneLoads (i : Instr) (words n k : Nat) (conv : Conv) (disp : Int) (t x b : Nat) : Prop :=
  (∀ s c, Issues i s c → WantsPass (laneWants n disp x b [.r] c) → ∃ u, exec i s = .next u ∧
    Sent s u c words (foresee s c.fn <| sectorsOf (loadAccess c (c.issued [x])) (c.lanes.map fun l =>
      (laneReq n disp x b c l, ⟨[l.t], l.wk, (laneReq n disp x b c l).off, n, c.span l t k, conv, 0, none, (laneReq n disp x b c l).cap⟩))) ∧
    ThreadsKept s u ∧ WavesKept s u) ∧
  MemTraps i (laneWants n disp x b [.r])

/-- A lane store: one store access a lane with the bytes that data gives, its flags raised and draws consumed at once; where a thread's store
window is full, the group waits with nothing done (R115); a lane that fails its check traps. -/
def LaneStores (i : Instr) (words n : Nat) (fields : List Nat) (data : Ctx → Lane → Nat × Flags5 × Nat) (disp : Int) (x b : Nat) : Prop :=
  (∀ s c, Issues i s c → WantsPass (laneWants n disp x b [.w] c) → (∀ l ∈ c.lanes, storesOf s c.tk l.t < 64) → ∃ u, exec i s = .next u ∧
    Sent s u c words (c.lanes.map fun l => writeAccess c (c.issued fields) (laneReq n disp x b c l) (.store (data c l).1 none) false) ∧
    LanesBecome s u (acting i c) (fun c l => l.th.drew (data c l).2.2) (fun c l => (data c l).2.1)) ∧
  (∀ s c, Issues i s c → WantsPass (laneWants n disp x b [.w] c) → (∃ l ∈ c.lanes, 64 ≤ storesOf s c.tk l.t) →
    exec i s = .next (waitState (acted i s c) c)) ∧
  MemTraps i (laneWants n disp x b [.w])

/-- The two accesses of one lane of a block form (R233, R234): data at the pair under c_b, then the scale pair under c_(b+1). -/
def blockWants (n : Nat) (disp : Int) (x b : Nat) (rt : Right) (c : Ctx) : List (List Nat × Nat × Want) :=
  c.lanes.flatMap fun l => let a := blockAddr (c.src l x) n disp
    [([l.t], l.wk, ⟨l.wv.getC b, a.2.1, n, [rt]⟩), ([l.t], l.wk, ⟨l.wv.getC (b + 1), a.2.2, 2, [rt]⟩)]

/-- The requests of one lane of a block form: data, scales. -/
def blockReqs (n : Nat) (disp : Int) (x b : Nat) (c : Ctx) (l : Lane) : Req × Req :=
  let a := blockAddr (c.src l x) n disp
  (reqOf ([l.t], l.wk, ⟨l.wv.getC b, a.2.1, n, []⟩), reqOf ([l.t], l.wk, ⟨l.wv.getC (b + 1), a.2.2, 2, []⟩))

/-- A block load: the sectors of both accesses of every lane leave. -/
def BlockLoads (i : Instr) (words n : Nat) (conv : Conv) (disp : Int) (t x b : Nat) : Prop :=
  (∀ s c, Issues i s c → WantsPass (blockWants n disp x b .r c) → ∃ u, exec i s = .next u ∧
    Sent s u c words (foresee s c.fn <| sectorsOf (loadAccess c (c.issued [x])) (c.lanes.flatMap fun l => let q := blockReqs n disp x b c l
      [(q.1, ⟨[l.t], l.wk, q.1.off, n, c.span l t 2, conv, 1, none, q.1.cap⟩), (q.2, ⟨[l.t], l.wk, q.2.off, 2, c.span l t 2, conv, 2, none, q.2.cap⟩)])) ∧
    ThreadsKept s u ∧ WavesKept s u) ∧
  MemTraps i (blockWants n disp x b .r)

/-- The lanes' pairs of a block store, gathered by block (R234). -/
def storeBlocks (n : Nat) (disp : Int) (x b : Nat) (c : Ctx) : List (List Pair) :=
  blocksOf [] (c.lanes.map fun l => let q := blockReqs n disp x b c l; ⟨l, blockIndex (c.src l x), (blockAddr (c.src l x) n disp).1, q.1, q.2⟩)

/-- A block store: every block is encoded and its stores leave, every lane consumes two draws and the flags go to the waves; where the store
windows have no room the group waits with nothing done. -/
def BlockStores (i : Instr) (words : Nat) (zb4 : Bool) (n : Nat) (disp : Int) (t x b : Nat) : Prop :=
  (∀ s c, Issues i s c → WantsPass (blockWants n disp x b .w c) →
    let bs := (storeBlocks n disp x b c).map (blockStores c zb4 n t)
    windowFits c s ((inRankOrder c bs).map (·.1)) = true → ∃ u, exec i s = .next u ∧
      Sent s u c words ((inRankOrder c bs).map fun q => writeAccess c (c.issued [x, t, t + 1]) q.1 q.2 false) ∧
      (∀ l ∈ c.lanes, u.thread l.key = (l.th.drew 2).counted) ∧
      (∀ k, (∀ l ∈ c.lanes, k ≠ l.key) → u.thread k = s.thread k) ∧
      ∀ k, u.wave k = (s.wave k).raise ((((bs.flatMap (·.2)).filter fun p => p.1 == k).map (·.2)).foldl (· ||| ·) 0)) ∧
  (∀ s c, Issues i s c → WantsPass (blockWants n disp x b .w c) →
    windowFits c s ((inRankOrder c ((storeBlocks n disp x b c).map (blockStores c zb4 n t))).map (·.1)) = false →
      exec i s = .next (waitState (acted i s c) c)) ∧
  MemTraps i (blockWants n disp x b .w)

/-- A global atomic: one access a lane, performed at the home later (R261 to R264); a release first waits (R262). -/
def Atomics (i : Instr) (op n : Nat) (r : Nat) (fields dst : List Nat) (t x b : Nat) : Prop :=
  (∀ s c, Issues i s c → (2 ≤ r → c.release s = .go) → WantsPass (laneWants n 0 x b [.r, .w] c) → ∃ u, exec i s = .next u ∧
    Sent s u c 1 (foresee s c.fn <| c.lanes.map fun l => { writeAccess c (c.issued (x :: fields)) (laneReq n 0 x b c l)
      (.atomic op (atomicOperands op c l t).1 (atomicOperands op c l t).2 (armOf l.wv.mode) (dst.map (c.reg l))) (decide (2 ≤ r)) with acq := r % 2 == 1 }) ∧
    (r % 2 = 1 → ∃ g, u.groups.find c.gkey = some g ∧ c.xact ∈ g.acquires) ∧
    ThreadsKept s u ∧ WavesKept s u) ∧
  (∀ s c, Issues i s c → 2 ≤ r → c.release s = .wait → exec i s = .next (waitState (acted i s c) c)) ∧
  (∀ s c pre p post e, Issues i s c → (2 ≤ r → c.release s = .go) → laneWants n 0 x b [.r, .w] c = pre ++ p :: post → WantsPass pre →
    p.2.2.check p.2.2.rights = .error e →
    exec i s = .next (takeTrap (acted i s c) c.gkey { c.trapArgs e.1 (p.1.headD 0) with object := e.2.1, offset := e.2.2 }))

/-- The access of one subset, taken as one lane (R144). -/
def subReq (n : Nat) (disp : Int) (cb b : Nat) (w : Sub) : Req := reqOf (subWant cb b n disp [] w)

/-- A uniform load: the sectors of every subset whose guard holds leave. bad: the entry's further check. -/
def UniformLoads (i : Instr) (words n : Nat) (conv : Conv) (disp : Int) (d cb b : Nat) (bad : Sub → Option (Cause × Nat × Nat)) : Prop :=
  ∀ s c, Issues i s c → (∀ w ∈ (acting i c).subs, (∃ r, (subWant cb b n disp [.r] w).2.2.check [.r] = .ok r) ∧ bad w = none) →
    ∃ u, exec i s = .next u ∧
      Sent s u c words (foresee s c.fn <| sectorsOf (loadAccess c (c.issued [])) ((acting i c).subs.map fun w =>
        (subReq n disp cb b w, ⟨w.lanes.map (·.t), w.wk, (subReq n disp cb b w).off, n, [d], conv, 0, none, (subReq n disp cb b w).cap⟩))) ∧
      ThreadsKept s u ∧ WavesKept s u

/-- A uniform store: one store access a subset whose guard holds. -/
def UniformStores (i : Instr) (words n : Nat) (data : Sub → Nat × Option Bool) (disp : Int) (cb b : Nat)
    (bad : Sub → Option (Cause × Nat × Nat)) : Prop :=
  ∀ s c, Issues i s c → (∀ w ∈ (acting i c).subs, (∃ r, (subWant cb b n disp [.w] w).2.2.check [.w] = .ok r) ∧ bad w = none) →
    (windowFits c s ((acting i c).subs.map (subReq n disp cb b)) = true → ∃ u, exec i s = .next u ∧
      Sent s u c words ((acting i c).subs.map fun w => writeAccess c (c.issued []) (subReq n disp cb b w) (.store (data w).1 (data w).2) false) ∧
      ThreadsKept s u ∧ WavesKept s u) ∧
    (windowFits c s ((acting i c).subs.map (subReq n disp cb b)) = false → exec i s = .next (waitState (acted i s c) c))

/-- Where a subset's access or further check fails, the first such subset traps, naming its lowest-ranked thread (R139). -/
def UniformMemTraps (i : Instr) (n : Nat) (disp : Int) (cb b : Nat) (rt : Right) (bad : Sub → Option (Cause × Nat × Nat)) : Prop :=
  ∀ s c pre w post cause obj off, Issues i s c → (acting i c).subs = pre ++ w :: post →
    (∀ v ∈ pre, (∃ r, (subWant cb b n disp [rt] v).2.2.check [rt] = .ok r) ∧ bad v = none) →
    ((subWant cb b n disp [rt] w).2.2.check [rt] = .error (cause, obj, off) ∨
      (∃ r, (subWant cb b n disp [rt] w).2.2.check [rt] = .ok r) ∧ bad w = some (cause, obj, off)) →
    exec i s = .next (takeTrap (acted i s c) c.gkey { (acting i c).trapArgs cause (lowLane w.lanes) with object := obj, offset := off })

end Sys2Proof.Machine
end

