-- ==== Sys2Proof/Certificates/Slice0/Obligations.lean ====
section
/-! DEFINITION. The statements for the provers. `Issues i s c`: group c of state s issues i with i's own effect; `LaneDoes` and `SubDoes`: the
instruction then completes, its lanes or subsets become what is given, and everything else stays (the frame). What an event statement
asks of the state is what its rule gives as the event's condition; statements about a free value hold for every value of it. -/
namespace Sys2Proof.Machine

/-! ### Lane integer instructions (07_lane_integer) -/

/-- x clamped to lo to hi, S set where the clamp acted (R169). -/
def clamped (lo hi x : Int) : Image := ⟨BitVec.ofInt 32 (min (max x lo) hi), decide (min (max x lo) hi ≠ x)⟩

/-- The outcome of a condition code of R74 on an order that may be missing (R176, R177). -/
def condition (cc : Nat) (o : Option Ordering) : Bool := match cc, o with
  | 0, some .eq => true
  | 1, some .lt => true | 1, some .gt => true | 1, none => true
  | 2, some .lt => true
  | 3, some .lt => true | 3, some .eq => true
  | 4, some .gt => true
  | 5, some .gt => true | 5, some .eq => true
  | 6, none => true
  | 7, some _ => true
  | _, _ => false

/-! ### The cross-lane unit -/

/-- A shuffle of va (R182): the lane takes its source thread's image and sets p7, or takes its own and clears p7. -/
def shuffled (d a : Nat) (src : Ctx → Lane → Option Lane) (c : Ctx) (l : Lane) : Thread := match src c l with
  | some t => (l.th.setV (c.reg l d) (c.src t a)).setP 7 true
  | none => (l.th.setV (c.reg l d) (c.src l a)).setP 7 false

/-! ### Lane floating-point instructions (08_lane_float) -/

/-- Register d of the lane takes a rounded result: field and S. -/
def putR (d : Nat) (r : Ctx → Lane → FRes) : Ctx → Lane → Thread := putV d fun c l => ⟨(r c l).f, (r c l).s⟩

/-- The flags of that result go to the lane's wave. -/
def flR (r : Ctx → Lane → FRes) (c : Ctx) (l : Lane) : Flags5 := (r c l).fl

/-- A lane instruction writes the result r of each lane to vd and raises its flags. -/
def LaneRounds (i : Instr) (d : Nat) (r : Ctx → Lane → FRes) : Prop := LaneDoes i 1 (putR d r) (flR r)

/-- Element k of a packed source (R196). -/
def packedElem (f : Fmt) (w : W32) (k : Nat) : FVal := decodeF f (w.toNat / 2 ^ (f.bits * k) % 2 ^ f.bits)

/-- Register d takes a field with S clear and the thread has consumed n draw numbers (R59). -/
def putD (d n : Nat) (r : Ctx → Lane → W32 × Flags5) (c : Ctx) (l : Lane) : Thread := (putF d (fun c l => (r c l).1) c l).drew n

/-- The k-th final rounding of an instruction (R55, R205): the carrier of the image, rounded by the wave's final mode, overflow mode and
stochastic underflow, with the thread's draw of that number. -/
def finalRounding (f : Fmt) (x : Image) (k : Nat) (c : Ctx) (l : Lane) : FVal × Flags5 :=
  let r := carrier (val32 x.f) f x.s
  roundFinal r.1 f ⟨finOf l.wv.mode, satOf l.wv.mode f, sruOf l.wv.mode⟩ r.2
    (sruDraw c.launch.seed (drawId c.gk c.tk l.t) ((l.th.draw + k) % 2 ^ 32))

/-- The codes of final-rounded images packed from bit 0, and all their flags. -/
def packedCodes (f : Fmt) (rs : List (FVal × Flags5)) : W32 × Flags5 :=
  (BitVec.ofNat 32 (rs.foldr (fun r acc => encodeF f r.1 + 2 ^ f.bits * acc) 0), rs.foldl (fun fl r => fl ||| r.2) 0)

/-! ### Uniform instructions (06_uniform) -/

/-- A uniform instruction computes s_d of every subset whose guard holds from s_a and s_b. -/
def Sub3 (i : Nat → Nat → Nat → Nat → Instr) (f : W64 → W64 → W64) : Prop :=
  ∀ d a b g, SubDoes (i d a b g) 1 (putS d fun _ w => f (w.wv.getS a) (w.wv.getS b))

/-! ### Control, divergence and heats (05_control) -/

/-- The group has jumped as a whole: its windows have ended, it is ready at a new place, and beside threads, waves and counters nothing else of the
machine has changed (R102, R112). -/
structure Jumped (s t : State) (c : Ctx) (place : Group) : Prop where
  rest : t = { s with threads := t.threads, waves := t.waves, gangs := t.gangs, groups := t.groups }
  gangs : ∃ cs, ∀ k, t.gangs.find k = (s.gangs.find k).map fun g => if k = c.gk then { g with counters := cs } else g
  place : t.groups.find c.gkey = some place
  groups : ∀ k, k ≠ c.gkey → t.groups.find k = s.groups.find k

/-- Where a group stands after a jump. -/
def Ctx.at (c : Ctx) (pc : Nat) : Group := { c.g with pc := pc, status := .ready, acted := [], windows := [] }

/-- The group has dissolved (R102, R104): its slot is free, and each of some lanes is filed in a bin of its team under its next PC and code
capability; registers and memory stay. -/
structure Filed (s t : State) (c : Ctx) (lanes : List Lane) (next : Lane → Cap × Nat) : Prop where
  mem : t.mem = s.mem
  accesses : t.accesses = s.accesses
  slot : t.groups.find c.gkey = none
  threads : ∀ l ∈ lanes, ∃ n, t.thread l.key = { l.th with issued := n, status := .filed }
  bins : ∀ l ∈ lanes, ∃ team b, t.teams.find c.tk = some team ∧ b ∈ team.bins ∧ l.t ∈ b.threads ∧ (b.code, b.pc) = next l

/-- The core has a bin for each of the lanes, were each to need one (R104: 64 bins a core). -/
def BinRoom (s : State) (c : Ctx) : Prop := s.teams.wf = true ∧ (binsOn s c.team.core).length + c.lanes.length ≤ 64

/-- The waves of the acting subsets become what new gives, every other wave stays. -/
def WavesBecome (s t : State) (c : Ctx) (new : Ctx → Sub → Wave) : Prop :=
  (∀ w ∈ c.subs, t.wave w.wk = new c w) ∧ ∀ k, (∀ w ∈ c.subs, k ≠ w.wk) → t.wave k = s.wave k

/-- An instruction that decides each lane's next place: together the group goes there whole; apart it dissolves; a failing check traps. -/
def Branches (i : Instr) (bad : Ctx → Sub → Option (Cause × Nat × Nat)) (new : Ctx → Sub → Wave) (next : Ctx → Lane → Cap × Nat) : Prop :=
  (∀ s c p, Issues i s c → (∀ w ∈ (acting i c).subs, bad c w = none) → (∀ l ∈ c.lanes, next c l = p) →
    ∃ t, exec i s = .next t ∧ Jumped s t c (c.at p.2) ∧ ThreadsKept s t ∧ WavesBecome s t (acting i c) new) ∧
  (∀ s c, Issues i s c → (∀ w ∈ (acting i c).subs, bad c w = none) → (∃ l ∈ c.lanes, ∃ m ∈ c.lanes, next c l ≠ next c m) → BinRoom s c →
    ∃ t, exec i s = .next t ∧ Filed s t c c.lanes (next c) ∧ WavesBecome s t (acting i c) new) ∧
  SubTrapsIf i bad

/-- The target of a branch (R79). -/
def branchTo (c : Ctx) (o : Nat) : Nat := (((c.g.pc : Int) + 4 * (BitVec.ofNat 18 o).toInt) % 2 ^ 64).toNat

/-- Contributions folded in order into partials, each of which finds room (R270). -/
inductive Folds (room : Nat) : List Partial → List Contrib → List Partial → Prop
  | none (ps : List Partial) : Folds room ps [] ps
  | one (ps qs rs : List Partial) (x : Contrib) (xs : List Contrib) (pair : Bool) :
      addContrib room ps x = some (qs, pair) → Folds room qs xs rs → Folds room ps (x :: xs) rs

/-- The kinds of instruction that a heat forbids (R131). -/
def heatForbids : Instr → Bool
  | .bq .. | .bqn .. | .brl .. | .brln .. | .call .. | .ret .. | .jmpc .. | .reform .. | .heat .. | .hmap .. | .exit .. => true
  | .bar .. | .bara .. | .barw .. | .gcfg .. | .gstep .. => true
  | .cpy .. | .cpyc .. | .cpym .. | .halo .. | .mwld .. | .mmul .. | .mclr .. | .mrd .. | .mstg .. | .mspl .. | .rlrun .. | .rlinv .. => true
  | _ => false

/-! ### Global memory instructions at issue (09_global_memory, 06_uniform R144 to R163, 11_atomics) -/

/-- A form without displacement, and its twin with a literal word as displacement (R214). -/
def LoadForms (i : Nat → Nat → Nat → Nat → Instr) (j : Nat → Nat → Nat → Nat → Nat → Instr) (n k : Nat) (conv : Conv) : Prop :=
  ∀ t x b la w, LaneLoads (i t x b la) 1 n k conv 0 t x b ∧ LaneLoads (j t x b la w) 2 n k conv (BitVec.ofNat 32 w).toInt t x b

/-- The same for a store: span is the number of registers of vt. -/
def StoreForms (i : Nat → Nat → Nat → Nat → Instr) (j : Nat → Nat → Nat → Nat → Nat → Instr) (n span : Nat)
    (data : Nat → Ctx → Lane → Nat × Flags5 × Nat) : Prop :=
  ∀ t x b la w, LaneStores (i t x b la) 1 n (x :: (List.range span).map (t + ·)) (data t) 0 x b ∧
    LaneStores (j t x b la w) 2 n (x :: (List.range span).map (t + ·)) (data t) (BitVec.ofNat 32 w).toInt x b

/-- The fields of n registers from vt, low word first, cut to the access; a dropped S raises inexact (R230). -/
def fieldBytes (n span t : Nat) (c : Ctx) (l : Lane) : Nat × Flags5 × Nat :=
  (((List.range span).map fun i => (c.src l (t + i)).f.toNat * 2 ^ (32 * i)).sum % 256 ^ n,
    if (List.range span).any fun i => (c.src l (t + i)).s then fInexact else 0, 0)

/-- The code of the final rounding of vt, one draw (R232). -/
def roundedBytes (f : Fmt) (t : Nat) (c : Ctx) (l : Lane) : Nat × Flags5 × Nat :=
  let r := finalRounding f (c.src l t) 0 c l
  (encodeF f r.1, r.2, 1)

/-- A uniform access form: what it does, and where it traps. -/
def UniLoadForm (i : Instr) (words n : Nat) (conv : Conv) (disp : Int) (d cb b : Nat) (bad : Sub → Option (Cause × Nat × Nat)) : Prop :=
  UniformLoads i words n conv disp d cb b bad ∧ UniformMemTraps i n disp cb b .r bad

/-- The same for a store. -/
def UniStoreForm (i : Instr) (words n : Nat) (data : Sub → Nat × Option Bool) (disp : Int) (cb b : Nat) (bad : Sub → Option (Cause × Nat × Nat)) : Prop :=
  UniformStores i words n data disp cb b bad ∧ UniformMemTraps i n disp cb b .w bad

/-- The granules a subset of CTAG recolours, the place where they begin, and the check and access they need (R162). -/
def granulesOf (d : Nat) (w : Sub) : Nat := (w.wv.getS d).toNat / 2 ^ 8 % 2 ^ 24

/-- Base + offset of CTAG's first granule. -/
def tagPlace (cb b : Nat) (w : Sub) : Int := (w.wv.getC cb).base + uniOffset (w.wv.getS b) 32 0

/-- The subsets that recolour a granule at all. -/
def tagSubs (d : Nat) (c : Ctx) : List Sub := c.subs.filter fun w => decide (0 < granulesOf d w)

/-- The access of such a subset. -/
def tagWant (d cb b : Nat) (w : Sub) : List Nat × Nat × Want :=
  (w.lanes.map (·.t), w.wk, ⟨w.wv.getC cb, uniOffset (w.wv.getS b) 32 0, 32 * granulesOf d w, [.t]⟩)

/-! ### Glade, tags and glade atomics (10_glade, 11_atomics R273 to R276) -/

/-- The glade accesses of an instruction, one a lane (R238, R244). -/
def gladeAccs (c : Ctx) (x n : Nat) (member : Bool) : List GAcc := c.lanes.map (gladeAcc c x n member)

/-- Every lane's access passes the checks of R238, R244, R254 and R273. -/
def GladePass (c : Ctx) (s : State) (k n : Nat) (member atomic : Bool) (x : Nat) : Prop :=
  ∀ a ∈ gladeAccs c x n member, gladeOk c s k n atomic a = true

/-- Where a lane's access fails, the first such lane traps GLADE_REGION; where a copy holds the bytes, the group waits (R243). -/
def GladeStops (i : Instr) (k n : Nat) (writes member atomic : Bool) (x : Nat) : Prop :=
  (∀ s c pre a post, Issues i s c → gladeAccs c x n member = pre ++ a :: post → (∀ b ∈ pre, gladeOk c s k n atomic b = true) →
    gladeOk c s k n atomic a = false → exec i s = .next (takeTrap (acted i s c) c.gkey (c.trapArgs .gladeRegion a.lane.t))) ∧
  (∀ s c, Issues i s c → GladePass c s k n member atomic x → gladeWaits s k n writes (gladeAccs c x n member) = true →
    exec i s = .next (waitState (acted i s c) c))

/-- What one lane of a glade load does: the words that it reads go to its registers from vt, S clear (R239, R315). -/
def loadLane (n t k : Nat) (c : Ctx) (s : State) (a : GAcc) : State :=
  let r := gladeFetch c s k n a
  r.1.setThread a.lane.key fun th => r.2.zipIdx.foldl (fun th w => th.setV (c.reg a.lane (t + w.2)) ⟨w.1, false⟩) th

/-- What one lane of a glade atomic does: the word m becomes f m with the flags raised, and vt receives m (R276); its thread meets the releases that
the word carries, and the word passes them on after its own (R318). -/
def atomLane (f : Ctx → Lane → W32 → W32 × Flags5) (t k : Nat) (c : Ctx) (s : State) (a : GAcc) : State :=
  let m := (regionOf s a.tk k).read (a.off / 4)
  let r := f c a.lane m
  let met := s.gladeRead (.team c.tk) a.lane.key a.tk k [a.off / 4] s.writeNo
  ((met.gladeWrite a.lane.key a.tk k [(a.off / 4, r.1)] (relOf (.team c.tk) 0 false ((a.agent met).rel false)) true).raise a.lane.wk r.2).setThread
    a.lane.key fun th => th.setV (c.reg a.lane t) ⟨m, false⟩

/-- A glade atomic acts lane after lane in ascending rank, each on what the one before left (R256, R273); the group then goes on. -/
def GladeAtomics (i : Instr) (x k : Nat) (ready : Ctx → State → Prop) (lane : Ctx → State → GAcc → State) : Prop :=
  (∀ s c, Issues i s c → ready c s → GladePass c s k 4 false true x → gladeWaits s k 4 true (gladeAccs c x 4 false) = false →
    let v := (gladeAccs c x 4 false).foldl (lane c) (acted i s c)
    ∃ u, exec i s = .next u ∧ GoesOn s u c 1 ∧ u = { v with threads := u.threads, gangs := u.gangs, groups := u.groups } ∧
      ∀ n, ∃ m, u.thread n = { v.thread n with issued := m }) ∧
  (∀ s c pre a post, Issues i s c → ready c s → gladeAccs c x 4 false = pre ++ a :: post → (∀ b ∈ pre, gladeOk c s k 4 true b = true) →
    gladeOk c s k 4 true a = false → exec i s = .next (takeTrap (acted i s c) c.gkey (c.trapArgs .gladeRegion a.lane.t)))

/-! ### Synchronisation (11_atomics, 10_glade) -/

/-- What a fence of a kind asks of the group's threads (R277): no load or returning atomic outstanding; for rel (2) no unacknowledged store but to
`uo` pages; for full (3) no unacknowledged store. -/
def FenceMet (s : State) (c : Ctx) (kind : Nat) : Prop :=
  (∀ a ∈ s.accesses.vals, a.team = c.tk → (∃ l ∈ c.lanes, l.t ∈ a.threads) → a.kind.returns = false) ∧
  (2 ≤ kind → storesPending s c.fn c.tk (c.lanes.map (·.t)) (kind == 3) = false)

/-- A group goes on with nothing of its threads and waves changed where a condition holds, and else waits. -/
def WaitsFor (i : Instr) (ready waits : State → Ctx → Prop) : Prop :=
  (∀ s c, Issues i s c → ready s c → ∃ t, exec i s = .next t ∧ Moved s t c 1 ∧ ThreadsKept s t ∧ WavesKept s t) ∧
  (∀ s c, Issues i s c → waits s c → exec i s = .next (waitState (acted i s c) c))

/-- What the full fences of some lanes show, one after another, beside what was shown before (R321). -/
def shownBy (place : Place) (scope : Nat) (ls : List Lane) (fs : List Shown) : List Shown :=
  ls.foldl (fun fs l => addShown ⟨place, scope, l.th.agent.seen⟩ fs) fs

/-- An agent after its fence of a kind (1 acquire, 2 release, 3 full), where full fences before it have shown fs. -/
def afterFence (s : State) (place : Place) (kind sc : Nat) (fs : List Shown) (g : Agent) : Agent :=
  let h := g.fence kind sc
  if kind = 3 then { h with always := View.join h.always (State.fencesSeen { s with fences := fs } place sc) } else h

/-- The lanes of a group that have not arrived where it stands. -/
def Ctx.newcomers (c : Ctx) : List Lane := c.lanes.filter fun l => l.th.hold == .none

/-- The lanes that have not arrived make their arrival, bring what happens before it, and are held, those that a trap has stopped at their arrival again; the
group waits at its instruction (R245, R250, R257, R279, R320). -/
def Arrives (i : Instr) (ready : State → Ctx → Prop) (kind : Hold) (arrival : Ctx → Lane → Thread → Thread) (note : Ctx → View → State → State) : Prop :=
  ∀ s c, Issues i s c → ready s c → c.newcomers ≠ [] → let v := note c (broughtBy c.newcomers) s
    ∃ t, exec i s = .next t ∧ t = { v with threads := t.threads, gangs := t.gangs, groups := t.groups } ∧
    (∃ cs, ∀ k, t.gangs.find k = (v.gangs.find k).map fun g => if k = c.gk then { g with counters := cs } else g) ∧
    (∀ l ∈ c.newcomers, ∃ n, t.thread l.key = { arrival c l { l.th with issued := n } with hold := kind }) ∧
    (∀ l ∈ c.lanes, l.th.hold = .again → t.thread l.key = { l.th with hold := kind }) ∧
    (∀ k, (∀ l ∈ c.lanes, l.th.hold = .none ∨ l.th.hold = .again → k ≠ l.key) → t.thread k = s.thread k) ∧
    (∃ ws as, t.groups.find c.gkey = some { c.g with status := .waiting, word := c.word, windows := ws, acquires := as }) ∧
    ∀ k, k ≠ c.gkey → t.groups.find k = s.groups.find k

/-- Where every lane of the group already holds at the instruction, it goes on once what they wait for is over, with what that gave, and else waits.
Lanes that a trap has stopped at their arrival hold there again first (R250). -/
def HeldGoesOn (i : Instr) (kind : Hold) (legal : Ctx → Prop) (ended : Ctx → Bool) (given : Ctx → View) : Prop :=
  (∀ s c, Issues i s c → legal c → c.newcomers = [] → (∀ l ∈ c.lanes, l.th.hold ≠ .again) → ended c = true →
    ∃ t g, exec i s = .next t ∧ t.groups.find c.gkey = some g ∧ g.pc = c.g.pc + 4 ∧
    g.status = .ready ∧ (∀ k, k ≠ c.gkey → t.groups.find k = s.groups.find k) ∧ t = { s with threads := t.threads, groups := t.groups } ∧
    ∀ k, t.threads.find k = (s.threads.find k).map fun th =>
      if (c.lanes.map (·.key)).contains k then { th with hold := .none, agent := th.agent.acquire true (given c) } else th) ∧
  (∀ s c, Issues i s c → legal c → c.newcomers = [] → (∀ l ∈ c.lanes, l.th.hold ≠ .again) → ended c = false →
    exec i s = .next (waitState (acted i s c) c)) ∧
  (∀ s c, Issues i s c → legal c → c.newcomers = [] → (∃ l ∈ c.lanes, l.th.hold = .again) → ∃ t, exec i s = .next t ∧
    t = { waitState (acted i s c) c with threads := t.threads } ∧
    (∀ l ∈ c.lanes, t.thread l.key = if l.th.hold = .again then { l.th with hold := kind } else l.th) ∧
    ∀ k, (∀ l ∈ c.lanes, k ≠ l.key) → t.thread k = s.thread k)

/-- One arrival more in a count. -/
def oneMore (t : Tab Nat) (k : Nat) : Tab Nat := sset 0 t k (sget 0 t k + 1)

/-- The level of a barrier is legal: `.launch` only in a cohort launch (R278). -/
def LevelLegal (c : Ctx) (level : Nat) : Prop := level = 2 → c.launch.cohort = true

/-- Subsets' threads acquire a view and go on where a condition holds; the group waits where it does not. -/
def WaitsAndAcquires (i : Instr) (ready waits : State → Ctx → Prop) (given : Ctx → Sub → View) : Prop :=
  (∀ s c, Issues i s c → ready s c → ∃ t, exec i s = .next t ∧ Moved s t c 1 ∧ WavesKept s t ∧
    (∀ w ∈ (acting i c).subs, ∀ l ∈ w.lanes, ∃ n, t.thread l.key = { l.th with issued := n, agent := l.th.agent.acquire true (given c w) }) ∧
    ∀ k, (∀ l ∈ c.lanes, k ≠ l.key) → t.thread k = s.thread k) ∧
  (∀ s c, Issues i s c → waits s c → exec i s = .next (waitState (acted i s c) c))

/-! ### Engine commands, batches and timelines (12_copy_engines, 14_matrix, 15_relay) -/

/-- Commands are accepted one subset after another, each once the subset's loads and stores are complete (R286). -/
def Accepted {α : Type} (c : Ctx) (accept : Ctx → State → Sub → α → Option State) : State → List (Sub × α) → State → Prop
  | s, [], v => v = s
  | s, (w, a) :: r, v => subQuiet c s w = .go ∧ ∃ u, accept c s w a = some u ∧ Accepted c accept (subDone c w u) r v

/-- An engine command: every subset's command is checked first, the first failing one traps; then they are accepted in order, and the group waits
where the first cannot be; a reduce kernel may not issue one (R286, R334, R335, R368, R372). -/
def EngineCommand {α : Type} (i : Instr) (prep : Ctx → State → List α → Sub → Except TrapArgs α) (accept : Ctx → State → Sub → α → Option State) : Prop :=
  (∀ s c, Issues i s c → c.gang.reduceOf = none → ∀ as v, let ws := (acting i c).todo
    prepAll (acting i c) (acted i s c) prep [] ws = .ok as → Accepted (acting i c) accept (acted i s c) (ws.zip as) v →
    ∃ t, exec i s = .next t ∧ GoesOn v t c 1 ∧ ThreadsKept v t ∧ t = { v with threads := t.threads, gangs := t.gangs, groups := t.groups }) ∧
  (∀ s c, Issues i s c → c.gang.reduceOf = none → ∀ e, prepAll (acting i c) (acted i s c) prep [] ((acting i c).todo) = .error e →
    exec i s = .next (takeTrap (acted i s c) c.gkey e)) ∧
  (∀ s c, Issues i s c → c.gang.reduceOf = none → ∀ w ws a as, (acting i c).todo = w :: ws →
    prepAll (acting i c) (acted i s c) prep [] (w :: ws) = .ok (a :: as) →
    subQuiet (acting i c) (acted i s c) w = .wait ∨
      subQuiet (acting i c) (acted i s c) w = .go ∧ accept (acting i c) (acted i s c) w a = none →
    exec i s = .next (waitState (acted i s c) c)) ∧
  (∀ s c, Issues i s c → c.gang.reduceOf ≠ none →
    exec i s = .next (takeTrap (acted i s c) c.gkey (c.trapArgs .illegalInstruction (lowLane c.lanes))))

/-- Subsets act one after another, each once its loads and stores are complete. -/
def Serial (c : Ctx) (one : State → Sub → State → Prop) : State → List Sub → State → Prop
  | s, [], v => v = s
  | s, w :: r, v => subQuiet c s w = .go ∧ ∃ u, one s w u ∧ Serial c one u r v

/-- Once every remaining subset has acted, the group goes on from what they left. -/
def SerialDoes (i : Instr) (one : Ctx → State → Sub → State → Prop) : Prop :=
  ∀ s c v, Issues i s c → Serial (acting i c) (one (acting i c)) (acted i s c) ((acting i c).todo) v →
    ∃ t, exec i s = .next t ∧ GoesOn v t c 1 ∧ ThreadsKept v t ∧ t = { v with threads := t.threads, gangs := t.gangs, groups := t.groups }

/-! ### Time and system instructions (16_time_system) -/

/-- The group has gone on and its gang has become what new gives (but for counters); waiting groups may have been made to try again. -/
def GangBecomes (s t : State) (c : Ctx) (new : Gang → Gang) : Prop :=
  t = { s with threads := t.threads, waves := t.waves, gangs := t.gangs, groups := t.groups } ∧ ThreadsKept s t ∧
  (∃ cs, ∀ k, t.gangs.find k = (s.gangs.find k).map fun g => if k = c.gk then { new g with counters := cs } else g) ∧
  (∃ ws as, t.groups.find c.gkey = some { c.g with
    pc := c.g.pc + 4, status := .ready, acted := [], heat := c.g.heat.bind Heat.next, windows := ws, acquires := as })

/-! ### Events of groups, barriers and steps (05_control, 10_glade, 11_atomics) -/

/-- Teams with no filed thread and no contribution waiting to be folded. -/
def Gathered (s : State) (tks : List Nat) : Prop := ∀ tk ∈ tks, ∀ t, s.teams.find tk = some t → t.bins = [] ∧ t.buffer = []

/-- Completed phases of a barrier level. -/
def phasesDone (s : State) (level key : Nat) : Option Nat := match level with
  | 0 => (s.teams.find key).map (·.coreBar)
  | 1 => (s.gangs.find key).map (·.quadBar)
  | _ => (s.launches.find key).map (·.launchBar)

/-- The groups of a team, none trapped, whose threads are all held as p says, where every group of the team is so, go on after their instruction. -/
def GroupsGoOn (s t : State) (tk : Nat) (p : Thread → Prop) : Prop :=
  (∀ k g, (k, g) ∈ s.groups → teamOfGroup k = tk → g.lanes ≠ [] ∧ g.isTrapped = false ∧ ∀ i ∈ g.lanes, i < 2048 ∧
    ∃ th, s.threads.find (threadKey tk i) = some th ∧ th.status ≠ .exited ∧ p th) →
  ∀ k g, s.groups.find k = some g → teamOfGroup k = tk → t.groups.find k = some
    { g with pc := g.pc + 4, status := .ready, acted := [], windows := g.windows.map fun w => { w with left := w.left - 1 } }

/-- Threads change in nothing but where they are held and what they are bound to see. -/
def Loosened (s t : State) : Prop := ∀ k, ∃ h a, t.thread k = { s.thread k with hold := h, agent := a }

/-! ### Events of the memory side (09_global_memory, 11_atomics, 05_control R115, R116) -/

/-- Access a is in flight, nothing it must follow is outstanding (R115, R218, R225, R261, R268, R312), and f is its function. -/
structure Ready (s : State) (id : Nat) (a : Access) (f : Fn) : Prop where
  found : s.accesses.find id = some a
  fn : fnOfTeam s a.team = some f
  issued : a.st = .issued
  clear : clearToGo s f a = true

/-- n bytes from an address on, and only they, may have changed. -/
def BytesKept (s t : State) (a n : Nat) : Prop := ∀ b, b < a ∨ a + n ≤ b → readByte t.mem b = readByte s.mem b

/-- The access is gone, every other access stays. -/
def AccGone (s t : State) (id : Nat) : Prop := ∀ j, t.accesses.find j = if j = id then none else s.accesses.find j

/-- The register of one lane after a load's part with bytes m (R229, R231, R235). -/
def loadedImage1 (conv : Conv) (m : Nat) : Option Image := match conv with
  | .zext _ => some ⟨BitVec.ofNat 32 m, false⟩
  | .sext n => some ⟨BitVec.ofInt 32 (if m % 2 ^ (8 * n) < 2 ^ (8 * n - 1) then m % 2 ^ (8 * n) else (m % 2 ^ (8 * n) : Int) - 2 ^ (8 * n)), false⟩
  | .fmt f => some ⟨BitVec.ofNat 32 (encodeF .f32 (decodeF f m)), false⟩
  | .fill => some ⟨BitVec.ofNat 32 m, m.testBit 32⟩
  | _ => none

/-- Threads change only in what they are bound to see. -/
def OnlyAgents (s t : State) : Prop := ∀ k, ∃ a, t.thread k = { s.thread k with agent := a }

/-- A part of a load may read its bytes as memory stood after write w (R322); none: as it stands. -/
def MayReadAt (s : State) (a : Access) (p : LoadPart) (i : PageInfo) (o : Option Nat) : Prop :=
  ∀ w, o = some w → s.mayRead (p.threads.map fun u => (s.thread (threadKey a.team u)).agent) (.team a.team) i p.size w = true

/-- The agent of a thread that has read a part (R312, R317): it has seen these writes and met their releases. -/
def sawPart (s : State) (a : Access) (p : LoadPart) (i : PageInfo) (o : Option Nat) (g : Agent) : Agent :=
  let ps := s.seenAt (o.getD s.writeNo) i.phys p.size
  g.read (seenView i.phys ps) (inScope s (.team a.team) (releasesOf ps))

/-- A load's access has returned: beside threads and waves nothing else has changed, but that its sector, where it was correctable, is counted as
corrected, counter 9 of its gang may have lost faults that were foreseen, and waiting groups try again. -/
structure Returned (s t : State) (a : Access) (id phys : Nat) : Prop where
  gone : AccGone s t id
  gangs : ∃ cs, ∀ k, t.gangs.find k = (s.gangs.find k).map fun g => if k = gangOfTeam a.team then { g with counters := cs } else g
  met : a.foreseen = 0 → t.gangs = s.gangs
  errors : t.errorCounts = if sget .ok s.ecc (phys / 32) = .correctable
    then sset 0 s.errorCounts (2 * stackOf (phys / 32)) (sget 0 s.errorCounts (2 * stackOf (phys / 32)) + 1) else s.errorCounts
  rest : t = ({ s with waves := t.waves, threads := t.threads, accesses := t.accesses, gangs := t.gangs, errorCounts := t.errorCounts }).wake

/-- A write of n bytes from an address enters the orders of its bytes as the newest, behind it the older ones (R312); it leaves validity bit c (R143),
and other bytes' orders are as before. -/
def EntersOrder (s t : State) (place : Place) (c : Bool) (a n v : Nat) : Prop := t.writeNo = s.writeNo + 1 ∧
  (∀ b, a ≤ b → b < a + n → ∃ rel, t.pastOf b = ⟨s.writeNo + 1, place, BitVec.ofNat 8 (v / 256 ^ (b - a)), c, rel⟩ :: s.pastOf b) ∧
  ∀ b, b < a ∨ a + n ≤ b → t.past.find b = s.past.find b

/-- The fields of a trap record that name an access's instruction (R224, R226, R390). -/
def NamesAccess (r : TrapRec) (a : Access) (c : Cause) : Prop := r.cause = c ∧ r.pc = a.info.pc ∧ r.word = a.info.word ∧ r.deferredPrecise = true

/-- The team has not ended, so that no fault of it is a flush point (R270). -/
def TeamGoesOn (s : State) (tk : Nat) : Prop := ∀ t, s.teams.find tk = some t → t.ended = false

/-- The record names the lowest-ranked of the refused accesses of a's instruction that p selects, with its cause (R226). -/
def NamesLowest (s : State) (a : Access) (p : Access → Prop) (r : TrapRec) : Prop := ∃ x ∈ s.accesses.vals, ∃ c fatal,
  x.xact = a.xact ∧ x.team = a.team ∧ x.st = .refused c fatal ∧ p x ∧ NamesAccess r x c ∧ r.fatal = fatal ∧
  ∀ y ∈ s.accesses.vals, y.xact = a.xact → y.team = a.team → (∃ c' f', y.st = .refused c' f') → p y → x.threads.headD 0 ≤ y.threads.headD 0

/-- Every lane of the access's instruction has been answered or is held (log 16). -/
def Answered (s : State) (a : Access) : Prop := ∀ p ∈ s.accesses, p.2.xact = a.xact → p.2.team = a.team → p.2.unanswered = false

/-- No engine of a gang is at work for the instruction at this slot and PC. -/
def EnginesApart (s : State) (slot pc : Nat) : Prop := ∀ g ∈ s.gangs.vals,
  (∀ ch ∈ g.channels.vals, ∀ q ∈ ch.queue, q.info.slot ≠ slot ∨ q.info.pc ≠ pc) ∧ ∀ r, g.relay.current = some r → r.info.slot ≠ slot ∨ r.info.pc ≠ pc

/-- The bytes of no other address than those of some table entries change. -/
def EntriesKept (s t : State) (ws : List (Nat × Nat)) : Prop := ∀ b, (∀ w ∈ ws, b < w.1 ∨ w.1 + 8 ≤ b) → readByte t.mem b = readByte s.mem b

/-! ### Events of copy engines and macros (12_copy_engines, 14_matrix) -/

/-- Channel k of gang gk of a state. -/
def chanOf (s : State) (gk k : Nat) : Option Channel := (s.gangs.find gk).map fun g => g.chan k

/-- The command at the head of a channel of a resident gang whose team stands on its core. -/
structure HeadCmd (s : State) (gk k : Nat) (x : ChCtx) (rest : List CCmd) : Prop where
  ctx : chCtx s gk k = some x
  served : x.g.status = .resident
  queue : x.ch.queue = x.q :: rest

/-- The operation is over and counted: the channel has no operation, its timeline is one higher and releases the writes v, its queue has lost the
command, and its flags have reached the wave that issued it. -/
def Signalled (s t : State) (gk k : Nat) (x : ChCtx) (rest : List CCmd) (fl : Flags5) (v : View) : Prop :=
  chanOf t gk k = some { x.ch with
    op := none, done := x.ch.done + 1, queue := rest, signals := x.ch.signals ++ [⟨x.ch.done + 1, x.q.wave, x.q.batch, v⟩] } ∧
  ∀ w, t.wave w = if w = x.q.wave then (s.wave w).raise fl else s.wave w

/-- A thread in a group that stands at a boundary has been stopped by the next record, which names an engine command (R116, R290, R337). -/
def EngineTrap (s t : State) (k : Nat) (c : Cause) (info : Issued) : Prop :=
  ∃ r, t.traps.find s.nextId = some r ∧ r.cause = c ∧ r.pc = info.pc ∧ r.word = info.word ∧ r.deferredPrecise = true ∧ r.group = some k ∧
    ∃ g, t.groups.find k = some g ∧ g.status = .trapped s.nextId

/-- Thread i of a team stands in group k, which is ready or waits. -/
def StandsIn (s : State) (tk i k : Nat) : Prop :=
  (s.thread (threadKey tk i)).status = .grouped ∧ ∃ g, groupOf s tk i = some (k, g) ∧ (g.status = .ready ∨ g.status = .waiting)

/-- An operation whose source has met a fault is parked at it, or ends by an abort (R290). -/
def MetFault (o : CopyOp) (c : Cause) (obj off : Nat) : Prop :=
  if c = .pageNotPresent ∨ c = .stage2 then o.parked = some (c, obj, off) ∧ o.fails = none else o.parked = none ∧ o.fails = some (c, obj, off)

/-- The state in which a chain's record is performed: the chain has acquired what the record's control word carries, and the operation has a number. -/
def walking (s : State) (gk k : Nat) (x : ChCtx) (rest : List CCmd) (v : View) : State :=
  { s.setChan gk k fun ch => { ch with queue := { x.q with view := v } :: rest } with nextId := s.nextId + 1 }

/-! ### Events of the relay engine (15_relay) -/

/-- The active run of a resident gang stands at a step w of an op, in a phase, and neither it nor its collective has failed. -/
structure AtStep (s : State) (gang op : Nat) (x : RCtx) (w : W128) (ph : RPhase) : Prop where
  ctx : rctx s gang = some x
  served : x.g.status = .resident
  sound : x.r.fails = none
  matched : x.f.mismatched.contains x.r.coll = false
  step : w = x.r.steps.getD x.r.idx 8
  op : stepOp w = op
  phase : x.r.phase = ph

/-- The gang's active run is as p says. -/
def RunIs (t : State) (gang : Nat) (p : Run → Prop) : Prop := ∃ g r, t.gangs.find gang = some g ∧ g.relay.active = some r ∧ p r

/-- The run goes on at step i. -/
def GoesTo (t : State) (gang i : Nat) : Prop := RunIs t gang fun r => r.idx = i ∧ r.phase = .step ∧ r.parked = none

/-- The run has ended with a status and is counted, which releases its writes; its flags, and what a reduce kernel of it has raised so far, have reached
the wave that issued it (R360, R367, R369, R370, R374). -/
def RunEnds (s t : State) (gang : Nat) (x : RCtx) (status : Nat) : Prop :=
  let r := match x.r.phase with
    | .kernel rk => { x.r with flags := x.r.flags ||| (s.wave (waveKey (teamKey rk 0) 0)).flags.setWidth 5, wrote := View.join x.r.wrote (teamWrote s (teamKey rk 0)) }
    | _ => x.r
  t.mem = s.mem ∧ (∃ g, t.gangs.find gang = some g ∧ g.relay.active = none ∧ g.relay.done = x.g.relay.done + 1 ∧ g.relay.status = status ∧
    g.relay.signals = x.g.relay.signals ++ [⟨x.g.relay.done + 1, x.r.wave, 0, r.wrote⟩]) ∧
  ∀ k, t.wave k = if k = x.r.wave then (s.wave k).raise r.flags else s.wave k

/-- One new chunk waits at its sender for its peer's engine (R366). -/
def Sends (s t : State) (gang : Nat) (x : RCtx) (p len : Nat) (bs : List Nat) : Prop :=
  t.mem = s.mem ∧ (∃ c, t.chunks = s.chunks ++ [c] ∧ c.id = s.nextId ∧ c.fn = x.fnId ∧ c.coll = x.r.coll ∧ c.signature = x.r.signature ∧ c.n = x.r.n ∧
    c.sender = x.r.rank ∧ c.source = gang ∧ c.module = rankModule (x.r.entry p) ∧ c.target = (x.r.entry p).toNat ∧ c.len = len ∧ c.bytes = bs) ∧
  RunIs t gang fun r => r.phase = .sending s.nextId ∧ r.idx = x.r.idx

/-- A chunk of a gang h can come to the die on which gang g stands. -/
def Reaches (s : State) (h g : Gang) : Prop := dieOfQuad g.quad = dieOfQuad h.quad ∨ dieLinkDown s.failed (dieOfQuad h.quad) (dieOfQuad g.quad) = false

/-! ### Events of time, messages and service calls (16_time_system) -/

/-- The event record of a post, stamped with the gang's clock, its payload cut to its length (R380, R381, R384). -/
def stamped (g : Gang) (kind source len p0 p1 : Nat) : Event :=
  ⟨g.vt / 5, kind, source % 2 ^ 32, len, false, BitVec.ofNat 64 (p0 % 256 ^ min 8 len), BitVec.ofNat 64 (p1 % 256 ^ min 8 (len - 8))⟩

/-! ### Events of queues and launches (17_launch) -/

/-- The head of a queue is launch k, which sees its function as f. -/
structure Head (s : State) (fn q k : Nat) (l : Launch) (f : Fn) (rest : List Nat) : Prop where
  queue : ∃ g, s.fns.find fn = some g ∧ (g.queues.find q).getD [] = k :: rest
  launch : s.launches.find k = some l
  sees : s.fnFor k = some f

/-- A launch is Done: its timeline's value is raised to compval, its status stands there, and no queue holds it (R406, R420). -/
def Finished (s t : State) (k : Nat) (l : Launch) (f : Fn) (status : Nat) : Prop :=
  let a := timelineAt f l.comp
  readLE t.mem a 8 = max (readLE s.mem a 8) l.compval.toNat ∧ readLE t.mem (a + 8) 4 = status ∧
  (∃ l', t.launches.find k = some l' ∧ l'.status = .done) ∧ ∃ f', t.fns.find l.fn = some f' ∧ ∀ q ks, f'.queues.find q = some ks → k ∉ ks

/-- A gang of one of the function's quads that a head may have stopped: it stands, or its places are kept by a HOLD (R411, R432). -/
def MayStopFor (f : Fn) (g : Gang) : Prop :=
  (g.status = .resident ∨ g.kept = true ∧ g.holdUntil.isSome = true) ∧ g.reduceOf = none ∧ f.quads.contains g.quad = true

/-- The gang and its teams' waves and threads stand at their first instruction, each team on its core (R29). -/
def Placed (t : State) (l : Launch) (gk quad : Nat) (cores : List Nat) : Prop :=
  (∃ g, t.gangs.find gk = some g ∧ g.status = .resident ∧ g.quad = quad ∧ g.teams = cores.length ∧ g.vt = 0 ∧ g.timers = []) ∧
  ∀ (n : Nat) core, cores[n]? = some core → let tk := teamKey gk n
    (∃ m, t.teams.find tk = some m ∧ m.core = core ∧ m.count = l.waves * 32) ∧
    (∀ w, w < l.waves → t.waves.find (waveKey tk w) = some (startWave l)) ∧
    (∀ i, i < l.waves * 32 → ∃ th, t.threads.find (threadKey tk i) = some th ∧ th.regs = [] ∧ th.preds = 0 ∧ th.status = .grouped) ∧
    (∀ w, w < l.waves → ∃ g, t.groups.find (groupKey tk w) = some g ∧ g.lanes = (List.range 32).map (32 * w + ·) ∧ g.pc = 0 ∧ g.status = .ready)

/-- The launch has no page, target, partial or snapshot of its own to put back. -/
def Plain (l : Launch) : Prop := l.evicted = [] ∧ l.targets = [] ∧ l.partials = [] ∧ l.snapObjs = [] ∧ l.snaps = []

/-- No gang of the launch is left. -/
def NoGangs (t : State) (lk : Nat) : Prop := ∀ k g, t.gangs.find k = some g → launchOfGang k ≠ lk

/-! ### Events of the module (23_device, 17_launch R415, R421; 04_encoding R90 to R97) -/

/-! ### The machine as a whole -/

/-- The machine when the time of the next move has passed. -/
def moved (s : State) (rest : List Move) (dt : Nat) : State := ({ s with schedule := rest } : State).elapse dt

end Sys2Proof.Machine

open Sys2Proof Sys2Proof.Machine

/-- R375, R443, R444: reset leaves the boot ROM about to run, the real clock at 0, and no function, launch, gang, thread or access; memory lists nothing
and is in its canonical form. What an unlisted byte reads (log 3), what the two flash slots hold and that the measurements m0 and m1 are 0 before the
first boot (log 5) are the model's choices. -/
def Obligations.ResetState : Prop :=
  State.reset.boot = .rom ∧ State.reset.now = 0 ∧ State.reset.mem = [] ∧ Memory.wf State.reset.mem = true ∧ State.reset.fns = [] ∧
  State.reset.launches = [] ∧ State.reset.gangs = [] ∧ State.reset.teams = [] ∧ State.reset.groups = [] ∧ State.reset.threads = [] ∧
  State.reset.waves = [] ∧ State.reset.accesses = [] ∧ State.reset.traps = [] ∧ State.reset.m0 = 0 ∧ State.reset.m1 = 0

/-- R86, R95, R103: where the next move lets a group issue, nothing falls due before it and it is the group's turn on its core, step runs the instruction
that its words decode to, and the turn is then the next group's: under the reset entry of its key as `decodeWords` reads it; under another entry,
under the key that the entry names. -/
def Obligations.StepRunsDecoded : Prop :=
  ∀ s dt gkey rest c w i ls, nextMove s = (⟨dt, .issue gkey⟩, rest) → dueFirst s dt = none →
    let v := moved s rest dt
    let u := { v with cur := some gkey, fetched := none }
    (∃ g, v.gangs.find (gangOfTeam (teamOfGroup gkey)) = some g ∧ g.status = .resident) → nextOn v (coreOfGroup v gkey) = some gkey →
    ctx? u = some c → fetchWord u c c.g.pc = .word w → (∀ (j : Nat) l, ls[j]? = some l → fetchWord u c (c.g.pc + 4 + 4 * j) = .word l) →
    (tableEntry c.fn (keyOf w) = resetEntry (keyOf w) ∧ decodeWords (w :: ls) = .ok (i, []) ∨
      ∃ k, k < 2048 ∧ tableEntry c.fn (keyOf w) = 0x8000 + k ∧ litWords k w = ls.length ∧ decodeOp k w (ls.getD 0 0) (ls.getD 1 0) = .ok i) →
    i.wellFormed c.team.regs c.inHeat = true → step s = match exec i (u.withWords w (ls.getD 0 0) (ls.getD 1 0)) with
      | .next t => .next (issued t (coreOfGroup v gkey) gkey (((v.groups.find gkey).map (·.formed)).getD 0))
      | o => o

/-- Words written out from R72 to R84 and the opcode table decode to the instructions they stand for. -/
def Obligations.DecodedWords : Prop :=
  decodeWords [0x00004103] = .ok (.vadd 1 2 3, []) ∧ decodeWords [0x08004103] = .ok (.fadd 1 2 3, []) ∧
  decodeWords [0x0C004100] = .ok (.nrwBf16 1 2, []) ∧ decodeWords [0x80008418] = .ok (.sadd 1 2 3 0, []) ∧
  decodeWords [0x88048220] = .ok (.cbnd 9 1 4 0, []) ∧ decodeWords [0x8C000000] = .ok (.bq 0 0, []) ∧
  decodeWords [0x8D420A00] = .ok (.hmap 4 5, []) ∧ decodeWords [0x8D600000] = .ok (.exit 0, []) ∧
  decodeWords [0x8DA00000] = .ok (.waitm 0, []) ∧ decodeWords [0x00000000] = .ok (.vadd 0 0 0, [])

/-- R72 to R84: decoding the words of a well-formed encoded instruction gives it back, with every operand, and leaves what follows it. -/
def Obligations.EncodeDecodeRoundTrip : Prop :=
  ∀ i regs heat rest, isEvent i = false → i.wellFormed regs heat = true → decodeWords (encode i ++ rest) = .ok (i, rest)

/-- Every step keeps memory in its canonical form: addresses strictly rising, and no entry that an unlisted address would read as. -/
def Obligations.MemoryCanonicalKept : Prop := ∀ s t, Memory.wf s.mem = true → step s = .next t → Memory.wf t.mem = true

/-- R168: the three-register operations write vd.f as the table gives and clear vd.s; nothing else of any thread or wave changes. R169: the exact sum or
difference is clamped to the type's range, and S records whether the clamp acted. -/
def Obligations.LaneIntegerArithmetic : Prop :=
  ((∀ d a b, LaneDoes (.vadd d a b) 1 (putF d fun c l => (c.src l a).f + (c.src l b).f) noFlags) ∧
    (∀ d a b, LaneDoes (.vsub d a b) 1 (putF d fun c l => (c.src l a).f - (c.src l b).f) noFlags) ∧
    (∀ d a b, LaneDoes (.vmul d a b) 1 (putF d fun c l => (c.src l a).f * (c.src l b).f) noFlags) ∧
    (∀ d a b, LaneDoes (.vmulhI32 d a b) 1 (putF d fun c l => BitVec.ofInt 32 ((c.src l a).f.toInt * (c.src l b).f.toInt / 2 ^ 32)) noFlags) ∧
    (∀ d a b, LaneDoes (.vmulhN32 d a b) 1 (putF d fun c l => BitVec.ofNat 32 ((c.src l a).f.toNat * (c.src l b).f.toNat / 2 ^ 32)) noFlags) ∧
    (∀ d a b, LaneDoes (.vmad d a b) 1 (putF d fun c l => (c.src l d).f + (c.src l a).f * (c.src l b).f) noFlags) ∧
    (∀ d a b, LaneDoes (.vand d a b) 1 (putF d fun c l => (c.src l a).f &&& (c.src l b).f) noFlags) ∧
    (∀ d a b, LaneDoes (.vor d a b) 1 (putF d fun c l => (c.src l a).f ||| (c.src l b).f) noFlags) ∧
    (∀ d a b, LaneDoes (.vxor d a b) 1 (putF d fun c l => (c.src l a).f ^^^ (c.src l b).f) noFlags) ∧
    (∀ d a b, LaneDoes (.vandn d a b) 1 (putF d fun c l => (c.src l a).f &&& ~~~(c.src l b).f) noFlags) ∧
    (∀ d a b, LaneDoes (.vshl d a b) 1 (putF d fun c l => (c.src l a).f <<< ((c.src l b).f.toNat % 32)) noFlags) ∧
    (∀ d a b, LaneDoes (.vshrN32 d a b) 1 (putF d fun c l => (c.src l a).f >>> ((c.src l b).f.toNat % 32)) noFlags) ∧
    (∀ d a b, LaneDoes (.vshrI32 d a b) 1 (putF d fun c l => (c.src l a).f.sshiftRight ((c.src l b).f.toNat % 32)) noFlags) ∧
    (∀ d a b, LaneDoes (.vminI32 d a b) 1 (putF d fun c l => BitVec.ofInt 32 (min (c.src l a).f.toInt (c.src l b).f.toInt)) noFlags) ∧
    (∀ d a b, LaneDoes (.vminN32 d a b) 1 (putF d fun c l => BitVec.ofNat 32 (min (c.src l a).f.toNat (c.src l b).f.toNat)) noFlags) ∧
    (∀ d a b, LaneDoes (.vmaxI32 d a b) 1 (putF d fun c l => BitVec.ofInt 32 (max (c.src l a).f.toInt (c.src l b).f.toInt)) noFlags) ∧
    (∀ d a b, LaneDoes (.vmaxN32 d a b) 1 (putF d fun c l => BitVec.ofNat 32 (max (c.src l a).f.toNat (c.src l b).f.toNat)) noFlags)) ∧
  ((∀ d a b, LaneDoes (.vaddsI32 d a b) 1 (putV d fun c l => clamped (-2 ^ 31) (2 ^ 31 - 1) ((c.src l a).f.toInt + (c.src l b).f.toInt)) noFlags) ∧
    (∀ d a b, LaneDoes (.vsubsI32 d a b) 1 (putV d fun c l => clamped (-2 ^ 31) (2 ^ 31 - 1) ((c.src l a).f.toInt - (c.src l b).f.toInt)) noFlags) ∧
    (∀ d a b, LaneDoes (.vaddsN32 d a b) 1 (putV d fun c l => clamped 0 (2 ^ 32 - 1) ((c.src l a).f.toNat + (c.src l b).f.toNat : Int)) noFlags) ∧
    (∀ d a b, LaneDoes (.vsubsN32 d a b) 1 (putV d fun c l => clamped 0 (2 ^ 32 - 1) ((c.src l a).f.toNat - (c.src l b).f.toNat : Int)) noFlags))

/-- R170 to R175, R179, R180: single-source operations, bit fields, byte dot products, moves from uniform state and identity, immediate forms, VFROMP and
VSEL write vd as their rules give. A twin takes two words. -/
def Obligations.LaneMoveAndBitResults : Prop :=
  (∀ d a, LaneDoes (.vabsI32 d a) 1 (putV d fun c l =>
    if (c.src l a).f = 0x80000000#32 then ⟨0x7FFFFFFF#32, true⟩ else ⟨if (c.src l a).f.msb then -(c.src l a).f else (c.src l a).f, false⟩) noFlags) ∧
  (∀ d a, LaneDoes (.vpopc d a) 1 (putF d fun c l => BitVec.ofNat 32 ((List.range 32).filter fun k => (c.src l a).f.getLsbD k).length) noFlags) ∧
  (∀ d a, LaneDoes (.vclz d a) 1 (putF d fun c l => (c.src l a).f.clz) noFlags) ∧
  (∀ d a, LaneDoes (.vmov d a) 1 (putV d fun c l => c.src l a) noFlags) ∧
  (∀ d a b, LaneDoes (.vbfx d a b) 1 (putF d fun c l =>
    let pos := (c.src l b).f.toNat % 32
    let w := min ((c.src l b).f.toNat / 2 ^ 8 % 32) (32 - pos)
    let f := (c.src l a).f.toNat / 2 ^ pos % 2 ^ w
    BitVec.ofNat 32 (if (c.src l b).f.getLsbD 16 = true ∧ 0 < w ∧ f.testBit (w - 1) = true then f + (2 ^ 32 - 2 ^ w) else f)) noFlags) ∧
  (∀ d a b, LaneDoes (.vbfi d a b) 1 (putF d fun c l =>
    let pos := (c.src l b).f.toNat % 32
    let w := min ((c.src l b).f.toNat / 2 ^ 8 % 32) (32 - pos)
    let m : W32 := BitVec.ofNat 32 ((2 ^ w - 1) * 2 ^ pos)
    ((c.src l d).f &&& ~~~m) ||| (((c.src l a).f <<< pos) &&& m)) noFlags) ∧
  (∀ d a b, LaneDoes (.vdot4I8 d a b) 1 (putF d fun c l => (c.src l d).f + BitVec.ofInt 32 (((List.range 4).map fun k =>
    ((c.src l a).f.extractLsb' (8 * k) 8).toInt * ((c.src l b).f.extractLsb' (8 * k) 8).toInt).sum)) noFlags) ∧
  (∀ d a b, LaneDoes (.vdot4N8 d a b) 1 (putF d fun c l => (c.src l d).f + BitVec.ofInt 32 (((List.range 4).map fun k =>
    (((c.src l a).f.extractLsb' (8 * k) 8).toNat * ((c.src l b).f.extractLsb' (8 * k) 8).toNat : Int)).sum)) noFlags) ∧
  (∀ d a h, LaneDoes (.vmovs d a h) 1 (putF d fun _ l => BitVec.ofNat 32 ((l.wv.getS a).toNat / (2 ^ 32) ^ h)) noFlags) ∧
  (∀ d n, LaneDoes (.vid d n) 1 (putF d fun c l => BitVec.ofNat 32 (match n with
    | 0 => l.vl | 1 => l.t | 2 => l.t % 32 | 3 => l.t / 32 | 4 => c.tk % 4 | 5 => (if l.pathB then 1 else 0) | _ => c.tk % 4 * 2048 + l.t)) noFlags) ∧
  (∀ d a n, LaneDoes (.vaddi d a n) 1 (putF d fun c l => (c.src l a).f + (BitVec.ofNat 7 n).signExtend 32) noFlags) ∧
  (∀ d a w, LaneDoes (.vaddiTwin d a w) 2 (putF d fun c l => (c.src l a).f + BitVec.ofNat 32 w) noFlags) ∧
  (∀ d a n, LaneDoes (.vshli d a n) 1 (putF d fun c l => (c.src l a).f <<< n) noFlags) ∧
  (∀ d a n, LaneDoes (.vshriN32 d a n) 1 (putF d fun c l => (c.src l a).f >>> n) noFlags) ∧
  (∀ d a n, LaneDoes (.vshriI32 d a n) 1 (putF d fun c l => (c.src l a).f.sshiftRight n) noFlags) ∧
  (∀ d a n, LaneDoes (.vandi d a n) 1 (putF d fun c l => (c.src l a).f &&& (BitVec.ofNat 7 n).signExtend 32) noFlags) ∧
  (∀ d a w, LaneDoes (.vandiTwin d a w) 2 (putF d fun c l => (c.src l a).f &&& BitVec.ofNat 32 w) noFlags) ∧
  (∀ d n, LaneDoes (.vli d n) 1 (putF d fun _ _ => (BitVec.ofNat 7 n).signExtend 32) noFlags) ∧
  (∀ d w, LaneDoes (.vliTwin d w) 2 (putF d fun _ _ => BitVec.ofNat 32 w) noFlags) ∧
  (∀ d b, LaneDoes (.vfromp d b) 1 (putF d fun _ l => if l.th.getP b then 1 else 0) noFlags) ∧
  (∀ k d a b, LaneDoes (.vsel k d a b) 1 (putV d fun c l => if l.th.getP k then c.src l a else c.src l b) noFlags)

/-- R176 to R179: compares, PLOG and VTOP write p_d of every active lane and no other predicate, register or flag. -/
def Obligations.LanePredicateResults : Prop :=
  (∀ p cc a b, cc < 8 → LaneDoes (.icmpI32 p cc a b) 1 (putP p fun c l => condition cc (some (compare (c.src l a).f.toInt (c.src l b).f.toInt))) noFlags) ∧
  (∀ p cc a b, cc < 8 → LaneDoes (.icmpN32 p cc a b) 1 (putP p fun c l => condition cc (some (compare (c.src l a).f.toNat (c.src l b).f.toNat))) noFlags) ∧
  (∀ p cc a b, cc < 8 → LaneDoes (.fcmpF32 p cc a b) 1 (putP p fun c l => condition cc (cmpF (val32 (c.src l a).f) (val32 (c.src l b).f))) noFlags) ∧
  (∀ p cc a b, cc < 8 → LaneDoes (.fcmpX p cc a b) 1 (putP p fun c l => condition cc
    (if (c.src l a).s || (c.src l b).s then none else cmpF (val32 (c.src l a).f) (val32 (c.src l b).f))) noFlags) ∧
  (∀ p o a b, o < 8 → LaneDoes (.plog p o a b) 1 (putP p fun _ l => let x := l.th.getP a; let y := l.th.getP b
    match o with | 0 => x && y | 1 => x || y | 2 => x != y | 3 => x && !y | 4 => x || !y | 5 => !(x && y) | 6 => !(x || y) | _ => x == y) noFlags) ∧
  (∀ p a, LaneDoes (.vtop p a) 1 (putP p fun c l => (c.src l a).f != 0) noFlags)

/-- R182, R183: the source thread of each shuffle, among the active lanes of the group. R184, R185, R188: sums, extremes and counts over the active lanes
in ascending rank. VSCAN gives lane j the sum of lanes 0 to j; the FP32 sums round once per addition in the mode of the lane whose term comes in, and
raise its flags there, VRED's in every lane's wave. R186, R187: votes and ballots write q_d or s_d of every subset that has an active lane, over the
subset's own active lanes or, for `vlane`, over the group's; that a subset of which a heat's mask selects no lane is left alone is the model's choice
(log 31). -/
def Obligations.CrossLaneResults : Prop :=
  ((∀ d a b, LaneDoes (.vshfl d a b) 1 (shuffled d a fun c l => c.lanes.find? fun m => m.vl == (c.src l b).f.toNat % 32) noFlags) ∧
    (∀ d a b, LaneDoes (.vshflx d a b) 1 (shuffled d a fun c l => c.lanes.find? fun m => m.vl == l.vl ^^^ ((c.src l b).f.toNat % 32)) noFlags) ∧
    (∀ d a b, LaneDoes (.vshfll d a b) 1 (shuffled d a fun c l => c.lanes.find? fun m => m.t == (c.src l b).f.toNat) noFlags) ∧
    (∀ d a n, LaneDoes (.vbcast d a n) 1 (shuffled d a fun c _ => c.lanes.find? fun m => m.vl == n) noFlags)) ∧
  ((∀ d a, LaneDoes (.vredI32 d a) 1 (putF d fun c _ => (c.lanes.map fun l => (c.src l a).f).foldl (· + ·) 0) noFlags) ∧
    (∀ d a, LaneDoes (.vredF32 d a) 1 (putV d fun c _ => let r := (laneSumsF c a).getLastD ⟨0, false, 0⟩; ⟨r.f, r.s⟩)
      fun c _ => (laneSumsF c a).foldl (fun f r => f ||| r.fl) 0) ∧
    (∀ d a, LaneDoes (.vredmax d a) 1 (putV d fun c _ => extreme (fun x y => totalLt y x) (c.lanes.map fun l => c.src l a)) noFlags) ∧
    (∀ d a, LaneDoes (.vredmin d a) 1 (putV d fun c _ => extreme totalLt (c.lanes.map fun l => c.src l a)) noFlags) ∧
    (∀ d a, LaneDoes (.vcount d a) 1 (putF d fun c _ => BitVec.ofNat 32 (c.lanes.filter fun l => l.th.getP a).length) noFlags) ∧
    (∀ d a s c, Issues (.vscanI32 d a) s c → ∃ t, exec (.vscanI32 d a) s = .next t ∧ Moved s t c 1 ∧ WavesKept s t ∧
      (∀ (j : Nat) l, c.lanes[j]? = some l → t.thread l.key =
        (l.th.setV (c.reg l d) ⟨((c.lanes.take (j + 1)).map fun m => (c.src m a).f).foldl (· + ·) 0, false⟩).counted) ∧
      (∀ k, (∀ l ∈ c.lanes, k ≠ l.key) → t.thread k = s.thread k)) ∧
    (∀ d a s c, Issues (.vscanF32 d a) s c → ∃ t, exec (.vscanF32 d a) s = .next t ∧ Moved s t c 1 ∧
      (∀ (j : Nat) l r, c.lanes[j]? = some l → (laneSumsF c a)[j]? = some r → t.thread l.key = (l.th.setV (c.reg l d) ⟨r.f, r.s⟩).counted) ∧
      (∀ k, (∀ l ∈ c.lanes, k ≠ l.key) → t.thread k = s.thread k) ∧
      ∀ k, t.wave k = (s.wave k).raise (((c.lanes.zip (laneSumsF c a)).filter fun p => p.1.wk == k).foldl (fun f p => f ||| p.2.fl) 0))) ∧
  ((∀ d a m, SubDoes (.vvote d a m) 1 (putQ d fun _ w => match m with
      | 0 => w.lanes.any fun l => l.th.getP a
      | 1 => w.lanes.all fun l => l.th.getP a
      | _ => (w.lanes.all fun l => l.th.getP a) || w.lanes.all fun l => !l.th.getP a)) ∧
    (∀ d a, SubDoes (.vballot d a 0) 1 (putS d fun _ w => BitVec.ofNat 64 ((w.lanes.filter fun l => l.th.getP a).map fun l => 2 ^ (l.t % 32)).sum)) ∧
    (∀ d a m, m ≠ 0 → SubDoes (.vballot d a m) 1 (putS d fun c _ => BitVec.ofNat 64 ((c.lanes.filter fun l => l.th.getP a).map fun l => 2 ^ l.vl).sum)))

/-- R193, R196: the exact sum of the products and addends of the table, rounded once by the wave's arithmetic mode; the sources' S is not read. R199,
R200: the special inputs' results, S clear, with the flags of the tables. -/
def Obligations.LaneFloatArithmetic : Prop :=
  ((∀ d a b, LaneRounds (.fadd d a b) d fun c l => roundSum [(val32 (c.src l a).f, false), (val32 (c.src l b).f, false)] (armOf l.wv.mode)) ∧
    (∀ d a b, LaneRounds (.fsub d a b) d fun c l => roundSum [(val32 (c.src l a).f, false), ((val32 (c.src l b).f).neg, false)] (armOf l.wv.mode)) ∧
    (∀ d a b, LaneRounds (.fmul d a b) d fun c l => roundSum [(val32 (c.src l a).f).mul (val32 (c.src l b).f)] (armOf l.wv.mode)) ∧
    (∀ d a b, LaneRounds (.fma d a b) d fun c l =>
      roundSum [(val32 (c.src l d).f, false), (val32 (c.src l a).f).mul (val32 (c.src l b).f)] (armOf l.wv.mode)) ∧
    (∀ d a b, LaneRounds (.fnma d a b) d fun c l =>
      roundSum [(val32 (c.src l d).f, false), (val32 (c.src l a).f).neg.mul (val32 (c.src l b).f)] (armOf l.wv.mode)) ∧
    (∀ d a b, LaneRounds (.fdot2Bf16 d a b) d fun c l => roundSum ((val32 (c.src l d).f, false) ::
      (List.range 2).map fun k => (packedElem .bf16 (c.src l a).f k).mul (packedElem .bf16 (c.src l b).f k)) (armOf l.wv.mode)) ∧
    (∀ d a b, LaneRounds (.fdot4E4m3 d a b) d fun c l => roundSum ((val32 (c.src l d).f, false) ::
      (List.range 4).map fun k => (packedElem .e4m3 (c.src l a).f k).mul (packedElem .e4m3 (c.src l b).f k)) (armOf l.wv.mode)) ∧
    (∀ d a b, LaneRounds (.fdot4E5m2 d a b) d fun c l => roundSum ((val32 (c.src l d).f, false) ::
      (List.range 4).map fun k => (packedElem .e5m2 (c.src l a).f k).mul (packedElem .e5m2 (c.src l b).f k)) (armOf l.wv.mode)) ∧
    (∀ d a b, LaneRounds (.fdot8E2m1 d a b) d fun c l => roundSum ((val32 (c.src l d).f, false) ::
      (List.range 8).map fun k => (packedElem .e2m1 (c.src l a).f k).mul (packedElem .e2m1 (c.src l b).f k)) (armOf l.wv.mode))) ∧
  (let qnan : FRes := ⟨0x7FC00000#32, false, 0⟩
    let bad : FRes := ⟨0x7FC00000#32, false, fInvalid⟩
    let pinf : W32 := 0x7F800000#32
    let ninf : W32 := 0xFF800000#32
    (∀ x, val32 x = .nan → frcpa x = qnan ∧ frsqa x = qnan ∧ fexp2a x = qnan ∧ flog2a x = qnan ∧
      ∀ m y, fsqrt x m = qnan ∧ fdiv x y m = qnan ∧ fdiv y x m = qnan) ∧
    (frcpa 0 = ⟨pinf, false, fDivzero⟩ ∧ frcpa 0x80000000#32 = ⟨ninf, false, fDivzero⟩ ∧ frcpa pinf = ⟨0, false, 0⟩ ∧ frcpa ninf = ⟨0x80000000#32, false, 0⟩) ∧
    (frsqa 0 = ⟨pinf, false, fDivzero⟩ ∧ frsqa 0x80000000#32 = ⟨ninf, false, fDivzero⟩ ∧ frsqa pinf = ⟨0, false, 0⟩) ∧
    (fexp2a 0 = ⟨0x3F800000#32, false, 0⟩ ∧ fexp2a 0x80000000#32 = ⟨0x3F800000#32, false, 0⟩ ∧ fexp2a pinf = ⟨pinf, false, 0⟩ ∧ fexp2a ninf = ⟨0, false, 0⟩) ∧
    (flog2a 0 = ⟨ninf, false, fDivzero⟩ ∧ flog2a 0x80000000#32 = ⟨ninf, false, fDivzero⟩ ∧ flog2a pinf = ⟨pinf, false, 0⟩) ∧
    (∀ x, (∃ m e, 0 < m ∧ val32 x = .fin true m e) ∨ val32 x = .inf true → frsqa x = bad ∧ flog2a x = bad ∧ ∀ m, fsqrt x m = bad) ∧
    (∀ m, fsqrt 0x80000000#32 m = ⟨0x80000000#32, false, 0⟩ ∧ fsqrt pinf m = ⟨pinf, false, 0⟩) ∧
    (∀ m x y s n g, val32 x = .fin s n g → n ≠ 0 → y = 0 ∨ y = 0x80000000#32 →
      fdiv x y m = ⟨if s = y.msb then pinf else ninf, false, fDivzero⟩) ∧
    (∀ m x y, x = 0 ∨ x = 0x80000000#32 → y = 0 ∨ y = 0x80000000#32 → fdiv x y m = bad) ∧
    (∀ m x y, x = pinf ∨ x = ninf → y = pinf ∨ y = ninf → fdiv x y m = bad) ∧
    (∀ m x y s n g, val32 x = .fin s n g → y = pinf ∨ y = ninf → fdiv x y m = ⟨if s = y.msb then 0 else 0x80000000#32, false, 0⟩) ∧
    (∀ m x y s n g, x = pinf ∨ x = ninf → val32 y = .fin s n g → fdiv x y m = ⟨if x.msb = s then pinf else ninf, false, 0⟩))

/-- R198 to R200, R202, R203: the approximations round by RNE to 12 bits whatever the mode; FSQRT, FDIV and the conversions round once, by the arithmetic
mode or the mode their rm field names. -/
def Obligations.LaneApproximationsAndConversions : Prop :=
  (∀ d a, LaneRounds (.frcpa d a) d fun c l => frcpa (c.src l a).f) ∧
  (∀ d a, LaneRounds (.frsqa d a) d fun c l => frsqa (c.src l a).f) ∧
  (∀ d a, LaneRounds (.fexp2a d a) d fun c l => fexp2a (c.src l a).f) ∧
  (∀ d a, LaneRounds (.flog2a d a) d fun c l => flog2a (c.src l a).f) ∧
  (∀ d a, LaneRounds (.fsqrt d a) d fun c l => fsqrt (c.src l a).f (armOf l.wv.mode)) ∧
  (∀ d a b, LaneRounds (.fdiv d a b) d fun c l => fdiv (c.src l a).f (c.src l b).f (armOf l.wv.mode)) ∧
  (∀ d a r, LaneRounds (.cvtF32I32 d a r) d fun c l =>
    roundF32 (ofUnits (c.src l a).f.toInt 0 false) (if r = 0 then armOf l.wv.mode else RMode.ofCode (r - 1))) ∧
  (∀ d a r, LaneRounds (.cvtF32N32 d a r) d fun c l =>
    roundF32 (ofUnits (c.src l a).f.toNat 0 false) (if r = 0 then armOf l.wv.mode else RMode.ofCode (r - 1))) ∧
  (∀ d a r, LaneRounds (.cvtI32F32 d a r) d fun c l =>
    cvtToI (c.src l a).f (if r = 0 then armOf l.wv.mode else RMode.ofCode (r - 1)) (-2 ^ 31) (2 ^ 31 - 1)) ∧
  (∀ d a r, LaneRounds (.cvtN32F32 d a r) d fun c l =>
    cvtToI (c.src l a).f (if r = 0 then armOf l.wv.mode else RMode.ofCode (r - 1)) 0 (2 ^ 32 - 1))

/-- R194, R195, R204, R208: minima and maxima, sign operations, narrowing to a carrier and widening move images and raise no flag. -/
def Obligations.LaneImageOperations : Prop :=
  (∀ d a b, LaneDoes (.fmin d a b) 1 (putV d fun c l =>
    let x := c.src l a
    let y := c.src l b
    if val32 x.f = .nan ∧ val32 y.f = .nan then ⟨0x7FC00000#32, false⟩
    else if val32 x.f = .nan then y else if val32 y.f = .nan then x
    else if totalLt y.f x.f then y else x) noFlags) ∧
  (∀ d a b, LaneDoes (.fmax d a b) 1 (putV d fun c l =>
    let x := c.src l a
    let y := c.src l b
    if val32 x.f = .nan ∧ val32 y.f = .nan then ⟨0x7FC00000#32, false⟩
    else if val32 x.f = .nan then y else if val32 y.f = .nan then x
    else if totalLt x.f y.f then y else x) noFlags) ∧
  (∀ d a, LaneDoes (.fabs d a) 1 (putV d fun c l => setSign (c.src l a) false) noFlags) ∧
  (∀ d a, LaneDoes (.fneg d a) 1 (putV d fun c l => setSign (c.src l a) (!(c.src l a).f.msb)) noFlags) ∧
  (∀ d a b, LaneDoes (.fcopysign d a b) 1 (putV d fun c l => setSign (c.src l a) (c.src l b).f.msb) noFlags) ∧
  (∀ d a, LaneDoes (.nrwBf16 d a) 1 (putV d fun c l => narrow .bf16 (c.src l a)) noFlags) ∧
  (∀ d a, LaneDoes (.nrwF16 d a) 1 (putV d fun c l => narrow .f16 (c.src l a)) noFlags) ∧
  (∀ d a, LaneDoes (.nrwE4m3 d a) 1 (putV d fun c l => narrow .e4m3 (c.src l a)) noFlags) ∧
  (∀ d a, LaneDoes (.nrwE5m2 d a) 1 (putV d fun c l => narrow .e5m2 (c.src l a)) noFlags) ∧
  (∀ d a, LaneDoes (.nrwE2m1 d a) 1 (putV d fun c l => narrow .e2m1 (c.src l a)) noFlags) ∧
  (∀ d a k, LaneDoes (.widBf16 d a k) 1 (putF d fun c l => BitVec.ofNat 32 (encodeF .f32 (packedElem .bf16 (c.src l a).f k))) noFlags) ∧
  (∀ d a k, LaneDoes (.widF16 d a k) 1 (putF d fun c l => BitVec.ofNat 32 (encodeF .f32 (packedElem .f16 (c.src l a).f k))) noFlags) ∧
  (∀ d a k, LaneDoes (.widE4m3 d a k) 1 (putF d fun c l => BitVec.ofNat 32 (encodeF .f32 (packedElem .e4m3 (c.src l a).f k))) noFlags) ∧
  (∀ d a k, LaneDoes (.widE5m2 d a k) 1 (putF d fun c l => BitVec.ofNat 32 (encodeF .f32 (packedElem .e5m2 (c.src l a).f k))) noFlags)

/-- R205 to R207: final roundings into a register and into packed codes; a lane consumes one draw number an element, whether or not it draws. -/
def Obligations.LaneFinalRoundings : Prop :=
  (∀ d a, ∀ p ∈ [(Instr.finBf16 d a, Fmt.bf16), (.finF16 d a, .f16), (.finE4m3 d a, .e4m3), (.finE5m2 d a, .e5m2), (.finE2m1 d a, .e2m1)],
    let r := fun c l => let y := finalRounding p.2 (c.src l a) 0 c l; (BitVec.ofNat 32 (encodeF .f32 y.1), y.2)
    LaneDoes p.1 1 (putD d 1 r) fun c l => (r c l).2) ∧
  (∀ d a b, ∀ p ∈ [(Instr.pack2Bf16 d a b, Fmt.bf16), (.pack2F16 d a b, .f16)],
    let r := fun c l => packedCodes p.2 [finalRounding p.2 (c.src l a) 0 c l, finalRounding p.2 (c.src l b) 1 c l]
    LaneDoes p.1 1 (putD d 2 r) fun c l => (r c l).2) ∧
  (∀ d a, ∀ p ∈ [(Instr.pack4E4m3 d a, Fmt.e4m3), (.pack4E5m2 d a, .e5m2)],
    let r := fun c l => packedCodes p.2 ((List.range 4).map fun k => finalRounding p.2 (c.src l (a + k)) k c l)
    LaneDoes p.1 1 (putD d 4 r) fun c l => (r c l).2)

/-- R147, R148, R151 to R153: uniform integer results. A subset whose guard fails keeps its wave, and s0 keeps reading zero; SSEL always runs. The spec's
example words of SSEL and SLI64 decode to them. -/
def Obligations.UniformIntegerResults : Prop :=
  (Sub3 .sadd (fun x y => x + y) ∧ Sub3 .ssub (fun x y => x - y) ∧ Sub3 .smul (fun x y => x * y) ∧
    Sub3 .smulh (fun x y => BitVec.ofInt 64 (x.toInt * y.toInt / 2 ^ 64)) ∧
    Sub3 .sand (fun x y => x &&& y) ∧ Sub3 .sor (fun x y => x ||| y) ∧ Sub3 .sxor (fun x y => x ^^^ y) ∧
    Sub3 .sshl (fun x y => x <<< (y.toNat % 64)) ∧ Sub3 .sshrN (fun x y => x >>> (y.toNat % 64)) ∧
    Sub3 .sshrI (fun x y => x.sshiftRight (y.toNat % 64)) ∧
    Sub3 .sminI (fun x y => if x.toInt ≤ y.toInt then x else y) ∧ Sub3 .smaxI (fun x y => if x.toInt ≤ y.toInt then y else x) ∧
    (∀ d a g, SubDoes (.smov d a g) 1 (putS d fun _ w => w.wv.getS a)) ∧
    (∀ d a g, SubDoes (.spopc d a g) 1 (putS d fun _ w => BitVec.ofNat 64 ((List.range 64).filter fun k => (w.wv.getS a).getLsbD k).length)) ∧
    (∀ d a g, SubDoes (.sclz d a g) 1 (putS d fun _ w => (w.wv.getS a).clz)) ∧
    (∀ d a b g, SubDoes (.ssel d a b g) 1 (putS d fun _ w => if w.wv.getQ g then w.wv.getS a else w.wv.getS b)) ∧
    (∀ d a i, SubDoes (.saddi d a i) 1 (putS d fun _ w => w.wv.getS a + (BitVec.ofNat 9 i).signExtend 64)) ∧
    (∀ d a x, SubDoes (.saddiTwin d a x) 2 (putS d fun _ w => w.wv.getS a + (BitVec.ofNat 32 x).signExtend 64)) ∧
    (∀ d a i, SubDoes (.sshli d a i) 1 (putS d fun _ w => w.wv.getS a <<< i)) ∧
    (∀ d a i, SubDoes (.sandi d a i) 1 (putS d fun _ w => w.wv.getS a &&& (BitVec.ofNat 9 i).signExtend 64)) ∧
    (∀ d i, SubDoes (.sli d i) 1 (putS d fun _ _ => (BitVec.ofNat 9 i).signExtend 64)) ∧
    (∀ d x, SubDoes (.sliTwin d x) 2 (putS d fun _ _ => (BitVec.ofNat 32 x).signExtend 64)) ∧
    (∀ d x y, SubDoes (.sli64 d x y) 3 (putS d fun _ _ => BitVec.ofNat 64 (x + 2 ^ 32 * y))) ∧
    (∀ d n, SubDoes (.sid d n) 1 (putS d fun c w => BitVec.ofNat 64 (match n with
      | 0 => c.tk % 4 | 1 => c.gk % 65536 | 2 => c.launch.gangs | 3 => c.gang.teams | 4 => c.team.count / 32 | 5 => c.team.regs | _ => w.w)))) ∧
  (decodeWords [0x81A0841C] = .ok (.ssel 1 2 3 4, []) ∧ decodeWords [0xC4818000, 0x00000000, 0x00000100] = .ok (.sli64 3 0 0x100, []))

/-- R149, R150, R157, R158, R159, R357: uniform predicates, and what CGET, CMOV, CNULL, CCHK and CKRD read; none of these traps. -/
def Obligations.UniformPredicateAndReadResults : Prop :=
  (∀ q cc a b g, cc < 8 → SubDoes (.scmpI q cc a b g) 1 (putQ q fun _ w =>
    condition cc (some (compare (w.wv.getS a).toInt (w.wv.getS b).toInt)))) ∧
  (∀ q cc a b g, cc < 8 → SubDoes (.scmpN q cc a b g) 1 (putQ q fun _ w =>
    condition cc (some (compare (w.wv.getS a).toNat (w.wv.getS b).toNat)))) ∧
  (∀ q o a b g, o < 8 → SubDoes (.qlog q o a b g) 1 (putQ q fun _ w => let x := w.wv.getQ a; let y := w.wv.getQ b
    match o with | 0 => x && y | 1 => x || y | 2 => x != y | 3 => x && !y | 4 => x || !y | 5 => !(x && y) | 6 => !(x || y) | _ => x == y)) ∧
  (∀ d a n g, SubDoes (.cget d a n g) 1 (putS d fun _ w => let k := w.wv.getC a
    BitVec.ofNat 64 (match n with
      | 0 => k.object | 1 => k.base | 2 => k.length | 3 => k.rights | 4 => k.colour
      | 5 => (if k.valid then 1 else 0) | 6 => k.bits.toNat % 2 ^ 64 | _ => k.bits.toNat / 2 ^ 64))) ∧
  (∀ d a g, SubDoes (.cmov d a g) 1 (putC d fun _ w => w.wv.getC a)) ∧
  (∀ d g, SubDoes (.cnull d g) 1 (putC d fun _ _ => ⟨0, false⟩)) ∧
  (∀ q r a b g, SubDoes (.cchk q r a b g) 1 (putQ q fun _ w => let k := w.wv.getC a
    k.valid && (match r with
      | 0 => true
      | n + 1 => k.rights.testBit (min n 5)) &&
      decide ((w.wv.getS b).toNat + (w.wv.getS (b + 1)).toNat ≤ k.length))) ∧
  (∀ d a n g, SubDoes (.ckrd d a n g) 1 (putS d fun _ w => match w.wv.getK a with
    | .i32 v => if n = 0 then v else 0
    | .f32 v x y z => if n < 5 then BitVec.ofNat 64 (v.toNat / 2 ^ (64 * n))
      else BitVec.ofNat 64 ((if x = true then 1 else 0) + (if y = true then 2 else 0) + (if z = true then 4 else 0))
    | .sig v => if n = 0 then (v ^^^ 0xFFFFFFFF#32).setWidth 64 else 0)) ∧
  (∀ d n g, SubDoes (.ckclr d n g) 1 fun _ w => w.wv.setK d (match n with
    | 0 => .i32 0 | 1 => .f32 0 false false false | _ => .sig 0xFFFFFFFF#32))

/-- R154 to R156, R127, R358: CBND, CRGT, CCOL, HMAP and CKCHK check every subset, then write; the first failing subset's trap is as named. -/
def Obligations.CheckedUniformResults : Prop :=
  (∀ d a b g, SubChecked (.cbnd d a b g) 1
    (fun _ w => let k := w.wv.getC a; let off := (w.wv.getS b).toNat
      if k.valid = false then some (.capInvalid, k.object, (k.base + off) % 2 ^ 64)
      else if k.length < off + (w.wv.getS (b + 1)).toNat then some (.capBounds, k.object, (k.base + off) % 2 ^ 64) else none)
    (putC d fun _ w => let k := w.wv.getC a
      .mk' k.object (k.base + (w.wv.getS b).toNat) (w.wv.getS (b + 1)).toNat k.rights k.colour k.valid)) ∧
  (∀ d a b g, SubChecked (.crgt d a b g) 1
    (fun _ w => if (w.wv.getC a).valid = false then some (.capInvalid, 0, 0) else none)
    (putC d fun _ w => let k := w.wv.getC a
      .mk' k.object k.base k.length (k.rights &&& ((w.wv.getS b).toNat % 256) &&& 0x3F) k.colour k.valid)) ∧
  (∀ d a b g, SubChecked (.ccol d a b g) 1
    (fun _ w => let k := w.wv.getC a
      if k.valid = false then some (.capInvalid, 0, 0) else if k.rights.testBit 5 = false then some (.capRights, 0, 0) else none)
    (putC d fun _ w => let k := w.wv.getC a
      .mk' k.object k.base k.length k.rights ((w.wv.getS b).toNat % 16) k.valid)) ∧
  (∀ a b, SubChecked (.hmap a b) 1
    (fun c w => if ∀ k < 8, (w.wv.getS a).toNat / 256 ^ k % 256 < min c.team.regs 120 ∧ (w.wv.getS b).toNat / 256 ^ k % 256 < min c.team.regs 120
      then none else some (.heatViolation, 0, 0))
    fun _ w => { w.wv with renA := w.wv.getS a, renB := w.wv.getS b }) ∧
  (∀ a b, SubChecked (.ckchk a b 0) 1
    (fun _ w => if (w.wv.getK a).kind ≠ (w.wv.getK b).kind then some (.illegalInstruction, 0, 0)
      else if w.wv.getK a ≠ w.wv.getK b then some (.checkFailed, 0, 0) else none)
    fun _ w => w.wv) ∧
  (∀ a b m, m ≠ 0 → SubChecked (.ckchk a b m) 1
    (fun _ w => if (w.wv.getK a).kind ≠ (w.wv.getK b).kind then some (.illegalInstruction, 0, 0) else none)
    (putQ m fun _ w => decide (w.wv.getK a = w.wv.getK b)))

/-- R27: check_cap answers the object and base + offset, or the first failing check in the order validity, right, bounds, alignment. R140, R141, R154,
R155: the fields of a capability that is built read as they were given, modulo their widths; narrowing keeps object, rights and colour; masking adds
no right; the null capability has no field set. -/
def Obligations.CapabilityChecks : Prop :=
  (∀ (k : Cap) (a : Int) n rt, let p := (k.object, (((k.base : Int) + a) % 2 ^ 64).toNat)
      checkCap k a n rt =
        if k.valid = false then .error (.capInvalid, p)
        else if k.rights.testBit rt.bit = false then .error (.capRights, p)
        else if a < 0 ∨ (k.length : Int) < a + n then .error (.capBounds, p)
        else if p.2 % min n 16 ≠ 0 then .error (.alignment, p)
        else .ok p) ∧
  ((∀ o b l r c v, let k := Cap.mk' o b l r c v
      k.object = o % 2 ^ 32 ∧ k.base = b % 2 ^ 40 ∧ k.length = l % 2 ^ 40 ∧ k.rights = r % 256 ∧ k.colour = c % 16 ∧ k.valid = v ∧ k.field 0 4 = 0) ∧
    (∀ (k : Cap) off len, (k.narrow off len).object = k.object ∧ (k.narrow off len).rights = k.rights ∧ (k.narrow off len).colour = k.colour ∧
      (k.narrow off len).valid = k.valid) ∧
    (∀ (k : Cap) m n, (k.mask m).rights.testBit n = true → k.rights.testBit n = true ∧ m.testBit n = true ∧ n < 6) ∧
    (∀ lo n, Cap.null.field lo n = 0))

/-- R138, R140: s0 reads zero, q0 reads true and c0 is null, whatever is written to them; a write to another register is read back and leaves the rest as
they were. -/
def Obligations.HardwiredRegisters : Prop :=
  (∀ (w : Wave), w.getS 0 = 0 ∧ w.getQ 0 = true ∧ w.getC 0 = Cap.null) ∧
  (∀ (w : Wave) v b k, w.setS 0 v = w ∧ w.setQ 0 b = w ∧ w.setC 0 k = w) ∧
  (∀ (w : Wave) r v n, r ≠ 0 → (w.setS r v).getS n = if n = r then v else w.getS n) ∧
  (∀ (w : Wave) r v n, r ≠ 0 → (w.setC r v).getC n = if n = r then v else w.getC n) ∧
  (∀ (w : Wave) r v n, r ≠ 0 → r < 8 → n < 8 → (w.setQ r v).getQ n = if n = r then v else w.getQ n) ∧
  (∀ (x : Thread) r v n, (x.setV r v).getV n = if n = r then v else x.getV n) ∧
  (∀ (x : Thread) r v n, r < 8 → n < 8 → (x.setP r v).getP n = if n = r then v else x.getP n)

/-- R355, R356: CKACC folds the field of every active lane, in rank order, into its wave's accumulator; the other kinds of accumulator raise
ILLEGAL_INSTRUCTION, naming the first lane whose accumulator is of another kind. R355: what folding a field does to an accumulator of each kind: a
signed sum, an exact sum in units of 2^-149, and CRC-32C over the four bytes, low byte first. -/
def Obligations.ChecksumResults : Prop :=
  (∀ d a, ∀ p ∈ [(Instr.ckaccI32 d a, 0), (.ckaccF32 d a, 1), (.ckaccSig d a, 2)],
      (∀ s c, Issues p.1 s c → (∀ l ∈ c.lanes, (l.wv.getK d).kind = p.2) →
        ∃ t, exec p.1 s = .next t ∧ Moved s t c 1 ∧ ThreadsKept s t ∧ ∀ k, t.wave k =
          (c.lanes.filter fun l => l.wk == k).foldl (fun w l => w.setK d ((w.getK d).fold (c.src l a).f)) (s.wave k)) ∧
      (∀ s c pre l post, Issues p.1 s c → c.lanes = pre ++ l :: post → (∀ m ∈ pre, (m.wv.getK d).kind = p.2) → (l.wv.getK d).kind ≠ p.2 →
        exec p.1 s = .next (takeTrap (acted p.1 s c) c.gkey (c.trapArgs .illegalInstruction l.t)))) ∧
  ((∀ v x, (Ck.i32 v).fold x = .i32 (v + x.signExtend 64)) ∧
    (∀ v n p m x, val32 x = .nan → (Ck.f32 v n p m).fold x = .f32 v true p m) ∧
    (∀ v n p m, (Ck.f32 v n p m).fold 0x7F800000#32 = .f32 v n true m ∧ (Ck.f32 v n p m).fold 0xFF800000#32 = .f32 v n p true) ∧
    (∀ v n p m x s a e, val32 x = .fin s a e → (Ck.f32 v n p m).fold x =
      .f32 (v + BitVec.ofInt 320 (if s then -(a * 2 ^ (e + 149).toNat : Nat) else (a * 2 ^ (e + 149).toNat : Nat))) n p m) ∧
    (∀ v x, (Ck.sig v).fold x = .sig ((List.range 32).foldl (fun (r : W32) k =>
      if r.getLsbD 0 != x.getLsbD k then (r >>> 1) ^^^ 0x82F63B78#32 else r >>> 1) v)) ∧
    ((["1234", "5678"].foldl (fun (k : Ck) t => k.fold (BitVec.ofNat 32 ((t.toList.map Char.toNat).foldr (fun x a => x + 256 * a) 0)))
      (.sig 0xFFFFFFFF#32)) = .sig (0x6087809A#32 ^^^ 0xFFFFFFFF#32)))

/-- R79, R102, R119, R120: the conditional branches read a predicate of each lane or of its subset; lanes that agree keep the group whole. -/
def Obligations.BranchResults : Prop :=
  ∀ k o, ∀ p ∈ [(Instr.bq k o, fun l : Lane => l.wv.getQ k), (.bqn k o, fun l => !l.wv.getQ k),
      (.brl k o, fun l => l.th.getP k), (.brln k o, fun l => !l.th.getP k)],
    Branches p.1 (fun _ _ => none) (fun _ w => w.wv) fun c l => (l.wv.getC 31, if p.2 l then branchTo c o else c.g.pc + 4)

/-- R121 to R123: CALL links in s62; RET and JMPC go where s_a or s_b says in each subset whose guard holds, JMPC under the capability c_a that becomes
c31. A target that is not a multiple of 4 raises ALIGNMENT. -/
def Obligations.CallReturnJumpResults : Prop :=
  (∀ o s c, Issues (.call o) s c → ∃ t, exec (.call o) s = .next t ∧ Jumped s t c (c.at (branchTo c o)) ∧ ThreadsKept s t ∧
    WavesBecome s t c fun c w => w.wv.setS 62 (BitVec.ofNat 64 (c.g.pc + 4))) ∧
  (∀ a g, Branches (.ret a g)
    (fun _ w => if (w.wv.getS a).toNat % 4 = 0 then none else some (.alignment, (w.wv.getC 31).object, (w.wv.getS a).toNat))
    (fun _ w => w.wv) fun c l => (l.wv.getC 31, if l.wv.getQ g then (l.wv.getS a).toNat else c.g.pc + 4)) ∧
  (∀ d a b g, Branches (.jmpc d a b g)
    (fun _ w => let k := w.wv.getC a
      if k.valid = false then some (.capInvalid, 0, 0) else if k.rights.testBit 2 = false then some (.capRights, 0, 0)
      else if (w.wv.getS b).toNat % 4 = 0 then none else some (.alignment, k.object, (w.wv.getS b).toNat))
    (fun c w => (w.wv.setS d (BitVec.ofNat 64 (c.g.pc + 4))).setC 31 (w.wv.getC a))
    fun c l => if l.wv.getQ g then (l.wv.getC a, (l.wv.getS b).toNat) else (l.wv.getC 31, c.g.pc + 4))

/-- R124, R125, R270, R275: REFORM files every lane under PC + 4. EXIT ends the lanes whose guard holds: their threads never issue again, their lock bits
are freed, and a team without live threads has ended and folds what contributions it still holds into its partials, in order; the other lanes are
filed under PC + 4. -/
def Obligations.ReformAndExitResults : Prop :=
  (∀ g s c, Issues (.reform g) s c → BinRoom s c → ∃ t, exec (.reform g) s = .next t ∧ WavesKept s t ∧
    Filed s t c c.lanes fun l => (l.wv.getC 31, c.g.pc + 4)) ∧
  (∀ g s c, Issues (.exit g) s c → BinRoom s c → ∃ t, exec (.exit g) s = .next t ∧
    (∀ k, ∃ fl, t.wave k = (s.wave k).raise fl) ∧ (c.team.buffer = [] → WavesKept s t) ∧
    Filed s t c (c.lanes.filter fun l => !l.wv.getQ g) (fun l => (l.wv.getC 31, c.g.pc + 4)) ∧
    (∀ l ∈ c.lanes, l.wv.getQ g = true → ∃ n, t.thread l.key = { l.th with issued := n, status := .exited, hold := .none }) ∧
    (∀ team, t.teams.find c.tk = some team →
      (∀ p ∈ team.locks, ∀ l ∈ c.lanes, l.wv.getQ g = true → p.2 ≠ l.t) ∧
      (c.team.ended = false → (∀ l ∈ c.lanes, (s.threads.find l.key).isSome = true) → (team.ended = true ↔ liveThreads t c.tk = [])) ∧
      (liveThreads t c.tk = [] → orderedInFlight s c.tk = false → team.buffer = [] ∧
        ∀ ps, Folds c.team.shadow c.team.partials (c.team.buffer.foldr insertContrib []) ps → team.partials = ps)))

/-- R126 to R128, R117, R118: NOP does nothing; HEAT latches each lane's path and enters its body; WAITM and WAITS go on once few enough are incomplete or
unacknowledged, and wait before; WAITM 0 closes every window. -/
def Obligations.HeatAndWaitResults : Prop :=
  (∀ g, SubDoes (.nop g) 1 fun _ w => w.wv) ∧
  (∀ k n m s c, Issues (.heat k n m) s c → ∃ t, exec (.heat k n m) s = .next t ∧ ThreadsKept s t ∧ WavesKept s t ∧
    Jumped s t c { c.at (c.g.pc + 4 * (if n ≤ 16 then 2 else 3)) with heat := some ⟨n, m, 0, (c.lanes.filter fun l => l.th.getP k).map (·.t)⟩ }) ∧
  (∀ n s c, Issues (.waitm n) s c → ((c.g.windows.map (·.xact)).filter fun x => !isComplete s c.tk x).length ≤ n →
    ∃ t, exec (.waitm n) s = .next t ∧ Moved s t c 1 ∧ ThreadsKept s t ∧ WavesKept s t ∧
    (n = 0 → ∃ g, t.groups.find c.gkey = some g ∧ g.windows = [])) ∧
  (∀ n s c, Issues (.waitm n) s c → n < ((c.g.windows.map (·.xact)).filter fun x => !isComplete s c.tk x).length →
    (∀ w ∈ c.g.windows, allFaulted s w.xact = false) → exec (.waitm n) s = .next (waitState (acted (.waitm n) s c) c)) ∧
  (∀ n s c, Issues (.waits n) s c → (∀ l ∈ c.lanes, storesOf s c.tk l.t ≤ n) →
    ∃ t, exec (.waits n) s = .next t ∧ Moved s t c 1 ∧ ThreadsKept s t ∧ WavesKept s t) ∧
  (∀ n s c, Issues (.waits n) s c → (∃ l ∈ c.lanes, n < storesOf s c.tk l.t) →
    exec (.waits n) s = .next (waitState (acted (.waits n) s c) c))

/-- R113, R130, R131, R136: a forbidden kind in a heat traps HEAT_VIOLATION before lanes are selected, and a name still in a lookahead window traps
LOOKAHEAD_VIOLATION, each with nothing of the instruction done. R78, R101, R130: an instruction whose guard holds in no subset, or whose mask selects
no thread, does nothing but go on. -/
def Obligations.IssueTrapsAndSkips : Prop :=
  ((∀ i s c, isEvent i = false → ctx? s = some c → c.inHeat = true → heatForbids i = true →
      exec i s = .next (takeTrap s c.gkey (c.trapArgs .heatViolation (lowLane c.all)))) ∧
    (∀ i s c, isEvent i = false → ctx? s = some c → (c.inHeat = true → heatForbids i = false) →
      waitFor s c.tk (mustComplete c.g (issOf i)) = .go → c.lanes ≠ [] → (c.guarded (issOf i).guard).subs ≠ [] →
      hazard (pruned c.g (issOf i)) ((issOf i).names (acting i c)) = true →
      exec i s = .next (takeTrap (acted i s c) c.gkey { c.trapArgs .lookaheadViolation (lowLane c.lanes) with
        shut := violated (pruned c.g (issOf i)) ((issOf i).names (acting i c)) }))) ∧
  (∀ i s c, isEvent i = false → ctx? s = some c → (c.inHeat = true → heatForbids i = false) →
      waitFor s c.tk (mustComplete c.g (issOf i)) = .go → c.lanes = [] ∨ (∀ w ∈ c.subs, w.wv.getQ (issOf i).guard = false) →
      ∃ t, exec i s = .next t ∧ Moved s t c (1 + (issOf i).lits) ∧ ThreadsKept s t ∧ WavesKept s t)

/-- R136, R390, R391: a trap writes a record with its cause, place and clocks under the next free number, stops its group, and changes nothing else. R392,
R113: resuming a trap answers its record and makes exactly the groups it holds ready again; the windows that a LOOKAHEAD_VIOLATION met are closed, so
that their instructions are waited for first. -/
def Obligations.TrapRecordsAndResume : Prop :=
  (∀ s gkey (a : TrapArgs) g gang, s.groups.find gkey = some g → s.gangs.find (gangOfTeam (teamOfGroup gkey)) = some gang → gang.reduceOf = none →
      let t := takeTrap s gkey a
      let tk := teamOfGroup gkey
      t = { s with traps := t.traps, groups := t.groups, nextId := s.nextId + 1 } ∧
      (∀ k, k ≠ gkey → t.groups.find k = s.groups.find k) ∧ t.groups.find gkey = some { g with status := .trapped s.nextId, fresh := none, stuck := false } ∧
      (∀ k, k ≠ s.nextId → t.traps.find k = s.traps.find k) ∧
      t.traps.find s.nextId = some
        { cause := a.cause, deferredPrecise := a.deferredPrecise, fatal := a.fatal, heat := a.heat, pathB := a.pathB
          team := tk % 4, lane := a.thread % 32, wave := a.thread / 32, heatPos := a.heatPos
          vf := s.fnOf (launchOfGang (gangOfTeam tk)), gang := gangOfTeam tk % 65536, owner := gangOfTeam tk, word := a.word, pc := a.pc
          object := a.object, offset := a.offset, vt := gang.vt / 5, rt := s.now / 5 % 2 ^ 64, deferred := a.deferred, code := a.code
          launch := launchOfGang (gangOfTeam tk), group := some gkey, resume := a.resume, shut := a.shut, done := false }) ∧
  (∀ s rec r, s.traps.find rec = some r → let t := resumeTrap s rec
      t = { s with traps := t.traps, groups := t.groups } ∧
      t.traps.find rec = some { r with done := true } ∧ (∀ k, k ≠ rec → t.traps.find k = s.traps.find k) ∧
      ∀ k g, s.groups.find k = some g → t.groups.find k = some (if g.status = .trapped rec then
        { g with status := .ready, windows := g.windows.map fun w => if w.xact ∈ r.shut then { w with left := 0 } else w } else g))

/-- R214 to R217, R229, R231, R233, R235: a load sends its sectors and leaves registers and memory as they are; a failing lane traps. R217: the sector
requests of a load hold every lane's part once, each part in a request for its own object, sector and colour, and no two requests are for the same
object, sector and colour. -/
def Obligations.LaneLoadsSendSectors : Prop :=
  (LoadForms .ldN8 .ldN8Twin 1 1 (.zext 1) ∧ LoadForms .ldI8 .ldI8Twin 1 1 (.sext 1) ∧
    LoadForms .ldN16 .ldN16Twin 2 1 (.zext 2) ∧ LoadForms .ldI16 .ldI16Twin 2 1 (.sext 2) ∧
    LoadForms .ldB32 .ldB32Twin 4 1 (.words 1) ∧ LoadForms .ldB64 .ldB64Twin 8 2 (.words 2) ∧ LoadForms .ldB128 .ldB128Twin 16 4 (.words 4) ∧
    LoadForms .ldBf16 .ldBf16Twin 2 1 (.fmt .bf16) ∧ LoadForms .ldF16 .ldF16Twin 2 1 (.fmt .f16) ∧
    LoadForms .ldE4m3 .ldE4m3Twin 1 1 (.fmt .e4m3) ∧ LoadForms .ldE5m2 .ldE5m2Twin 1 1 (.fmt .e5m2) ∧
    LoadForms .vfill .vfillTwin 8 1 .fill ∧
    (∀ t x b la w, BlockLoads (.ldZb4 t x b la) 1 1 .zb4 0 t x b ∧ BlockLoads (.ldZb4Twin t x b la w) 2 1 .zb4 (BitVec.ofNat 32 w).toInt t x b) ∧
    (∀ t x b la w, BlockLoads (.ldZb8 t x b la) 1 2 .zb8 0 t x b ∧ BlockLoads (.ldZb8Twin t x b la w) 2 2 .zb8 (BitVec.ofNat 32 w).toInt t x b)) ∧
  (∀ (c : Ctx) (info : Issued) (rs : List (Req × LoadPart)), let accs := sectorsOf (loadAccess c info) rs
      ((accs.flatMap fun a => match a.kind with | .load ps => ps | _ => []).Perm (rs.map (·.2))) ∧
      (∀ r ∈ rs, ∃ a ∈ accs, a.obj = r.1.obj ∧ a.off / 32 = r.1.off / 32 ∧ a.colour = r.1.colour ∧
        (∃ ps, a.kind = .load ps ∧ r.2 ∈ ps) ∧ ∀ t ∈ r.1.threads, t ∈ a.threads) ∧
      accs.Pairwise fun a b => ¬(a.obj = b.obj ∧ a.off / 32 = b.off / 32 ∧ a.colour = b.colour))

/-- R115, R230, R232, R234, R235: a store sends one access a lane (a block store, the data of every lane and one scale pair a block) with the bytes its
rule gives; memory changes only when the access is performed. A full store window makes the group wait. -/
def Obligations.LaneStoresSendAccesses : Prop :=
  StoreForms .stB8 .stB8Twin 1 1 (fieldBytes 1 1) ∧ StoreForms .stB16 .stB16Twin 2 1 (fieldBytes 2 1) ∧
  StoreForms .stB32 .stB32Twin 4 1 (fieldBytes 4 1) ∧ StoreForms .stB64 .stB64Twin 8 2 (fieldBytes 8 2) ∧
  StoreForms .stB128 .stB128Twin 16 4 (fieldBytes 16 4) ∧
  StoreForms .stBf16 .stBf16Twin 2 1 (roundedBytes .bf16) ∧ StoreForms .stF16 .stF16Twin 2 1 (roundedBytes .f16) ∧
  StoreForms .stE4m3 .stE4m3Twin 1 1 (roundedBytes .e4m3) ∧ StoreForms .stE5m2 .stE5m2Twin 1 1 (roundedBytes .e5m2) ∧
  StoreForms .vspill .vspillTwin 8 1 (fun t c l => ((c.src l t).f.toNat + (if (c.src l t).s then 2 ^ 32 else 0), 0, 0)) ∧
  (∀ t x b la w, BlockStores (.stZb4 t x b la) 1 true 1 0 t x b ∧ BlockStores (.stZb4Twin t x b la w) 2 true 1 (BitVec.ofNat 32 w).toInt t x b) ∧
  (∀ t x b la w, BlockStores (.stZb8 t x b la) 1 false 2 0 t x b ∧ BlockStores (.stZb8Twin t x b la w) 2 false 2 (BitVec.ofNat 32 w).toInt t x b)

/-- R144, R145, R160 to R163: uniform memory instructions act once a subset; CLD also asks LC and CST SC, and CST stores the validity bit. CTAG checks T
and a place that is a multiple of 32 in every subset with granules, the first failing one traps, and waits at a full store window. -/
def Obligations.UniformMemoryAccesses : Prop :=
  (∀ d cb b la w, UniLoadForm (.sldB32 d cb b la) 1 4 (.uni 4) 0 d cb b (fun _ => none) ∧
    UniLoadForm (.sldB32Twin d cb b la w) 2 4 (.uni 4) (BitVec.ofNat 32 w).toInt d cb b (fun _ => none)) ∧
  (∀ d cb b la w, UniLoadForm (.sldB64 d cb b la) 1 8 (.uni 8) 0 d cb b (fun _ => none) ∧
    UniLoadForm (.sldB64Twin d cb b la w) 2 8 (.uni 8) (BitVec.ofNat 32 w).toInt d cb b (fun _ => none)) ∧
  (∀ d cb b la w, UniStoreForm (.sstB32 d cb b la) 1 4 (fun u => ((u.wv.getS d).toNat % 2 ^ 32, none)) 0 cb b (fun _ => none) ∧
    UniStoreForm (.sstB32Twin d cb b la w) 2 4 (fun u => ((u.wv.getS d).toNat % 2 ^ 32, none)) (BitVec.ofNat 32 w).toInt cb b (fun _ => none)) ∧
  (∀ d cb b la w, UniStoreForm (.sstB64 d cb b la) 1 8 (fun u => ((u.wv.getS d).toNat % 2 ^ 64, none)) 0 cb b (fun _ => none) ∧
    UniStoreForm (.sstB64Twin d cb b la w) 2 8 (fun u => ((u.wv.getS d).toNat % 2 ^ 64, none)) (BitVec.ofNat 32 w).toInt cb b (fun _ => none)) ∧
  (∀ d cb b la, UniLoadForm (.cld d cb b la) 1 16 .cap 0 d cb b
    (fun u => if (u.wv.getC cb).has .lc then none else some (.capRights, 0, 0))) ∧
  (∀ d cb b la, UniStoreForm (.cst d cb b la) 1 16 (fun u => ((u.wv.getC d).bits.toNat, some (u.wv.getC d).valid)) 0 cb b
    (fun u => if (u.wv.getC cb).has .sc then none else some (.capRights, 0, 0))) ∧
  (∀ d cb b la s c, let i := Instr.ctag d cb b la
    let ws := tagSubs d (acting i c)
    Issues i s c → (∀ w ∈ ws, (∃ r, (tagWant d cb b w).2.2.check [.t] = .ok r) ∧ tagPlace cb b w % 32 = 0) →
      (windowFits c s (ws.map fun w => reqOf (tagWant d cb b w)) = true → ∃ u, exec i s = .next u ∧
        Sent s u c 1 (ws.map fun w => writeAccess c (c.issued []) (reqOf (tagWant d cb b w))
          (.tag (granulesOf d w) ((w.wv.getS d).toNat % 16)) false) ∧ ThreadsKept s u ∧ WavesKept s u) ∧
      (windowFits c s (ws.map fun w => reqOf (tagWant d cb b w)) = false → exec i s = .next (waitState (acted i s c) c))) ∧
  (∀ d cb b la s c pre w post cause obj off, let i := Instr.ctag d cb b la
    Issues i s c → tagSubs d (acting i c) = pre ++ w :: post →
    (∀ v ∈ pre, (∃ r, (tagWant d cb b v).2.2.check [.t] = .ok r) ∧ tagPlace cb b v % 32 = 0) →
    ((tagWant d cb b w).2.2.check [.t] = .error (cause, obj, off) ∨
      (∃ r, (tagWant d cb b w).2.2.check [.t] = .ok r) ∧ tagPlace cb b w % 32 ≠ 0 ∧ cause = .alignment ∧ obj = 0 ∧ off = 0) →
    exec i s = .next (takeTrap (acted i s c) c.gkey { (acting i c).trapArgs cause (lowLane w.lanes) with object := obj, offset := off }))

/-- R260 to R264, R267: global atomics send one access a lane and return m later; acquire orders hold back later memory instructions; a contribution of
AADD.f32.o carries its thread's sequence number, which then counts up; it waits at a full store window. -/
def Obligations.GlobalAtomicsSendAccesses : Prop :=
  (∀ t x b la r, r < 4 → Atomics (.aaddI32 r t x b la) 0 4 r [t] [t] t x b ∧ Atomics (.aaddI64 r t x b la) 1 8 r [t, t + 1] [t, t + 1] t x b ∧
    Atomics (.aminI32 r t x b la) 2 4 r [t] [t] t x b ∧ Atomics (.amaxI32 r t x b la) 3 4 r [t] [t] t x b ∧
    Atomics (.aminN32 r t x b la) 4 4 r [t] [t] t x b ∧ Atomics (.amaxN32 r t x b la) 5 4 r [t] [t] t x b ∧
    Atomics (.aand r t x b la) 6 4 r [t] [t] t x b ∧ Atomics (.aor r t x b la) 7 4 r [t] [t] t x b ∧
    Atomics (.axor r t x b la) 8 4 r [t] [t] t x b ∧ Atomics (.axchg r t x b la) 9 4 r [t] [t] t x b ∧
    Atomics (.acas r t x b la) 10 4 r [t, t + 1] [t] t x b ∧ Atomics (.aaddF32U r t x b la) 11 4 r [t] [t] t x b) ∧
  (∀ t x b la s c, let i := Instr.aaddF32O t x b la
    Issues i s c → WantsPass (laneWants 4 0 x b [.w] c) → (∀ l ∈ c.lanes, storesOf s c.tk l.t < 64) → ∃ u, exec i s = .next u ∧
      Sent s u c 1 (c.lanes.map fun l => writeAccess c (c.issued [x, t]) (laneReq 4 0 x b c l) (.ordered (c.src l t).f l.th.ordSeq l.th.bar) false) ∧
      LanesBecome s u (acting i c) (fun _ l => { l.th with ordSeq := l.th.ordSeq + 1 }) noFlags) ∧
  (∀ t x b la s c, let i := Instr.aaddF32O t x b la
    Issues i s c → WantsPass (laneWants 4 0 x b [.w] c) → (∃ l ∈ c.lanes, 64 ≤ storesOf s c.tk l.t) → exec i s = .next (waitState (acted i s c) c)) ∧
  (∀ t x b la, MemTraps (.aaddF32O t x b la) (laneWants 4 0 x b [.w]))

/-- R238 to R244, R256: a glade load writes to its registers, S clear, at its issue, the words of a two-plane region's present plane, and those of a
one-plane region as they stand, or, of a word whose earlier writes it may still see, as one of those left it, all words of a lane together (R239,
R315, R322; that it is a free one of those is the model's form). R238 to R244, R256: a glade store writes its registers' fields, lane after lane, into
region K of the team its lane reaches, with the lane's rank; no other region, and no memory, changes; a dropped S raises inexact. A write of a
one-plane region joins its word's order, and carries the thread's release (R312, R316, R318). R239, R240: a one-plane region reads back what is
stored; a store to a two-plane region leaves what loads see and stands in the next plane with the writer's rank; no word but its own changes. -/
def Obligations.GladeResults : Prop :=
  (∀ t x k la, ∀ p ∈ [(Instr.ldgB32 t x k la, 4, false), (.ldgB64 t x k la, 8, false), (.ldgB128 t x k la, 16, false), (.ldgmB32 t x k la, 4, true)],
      (∀ s c, Issues p.1 s c → GladePass c s k p.2.1 p.2.2 false x → gladeWaits s k p.2.1 false (gladeAccs c x p.2.1 p.2.2) = false →
        let v := (gladeAccs c x p.2.1 p.2.2).foldl (loadLane p.2.1 t k (acting p.1 c)) (acted p.1 s c)
        ∃ u, exec p.1 s = .next u ∧ GoesOn s u c 1 ∧ WavesKept s u ∧
          u = { s with threads := u.threads, waves := u.waves, gangs := u.gangs, groups := u.groups, free := v.free } ∧
          ∀ n, ∃ m, u.thread n = { v.thread n with issued := m }) ∧
      GladeStops p.1 k p.2.1 false p.2.2 false x) ∧
  (∀ c s k n a, (regionOf s a.tk k).dual = true →
    gladeFetch c s k n a = (s, (a.words n).map (regionOf s a.tk k).read)) ∧
  (∀ c s k n a, (regionOf s a.tk k).dual = false → ∃ w, (s.gladeTimes (a.agent s) a.tk k (a.words n) ≠ [] → w ∈ s.gladeTimes (a.agent s) a.tk k (a.words n)) ∧
    (gladeFetch c s k n a).2 = (a.words n).map fun i => (gpastAt w (s.gladePastOf a.tk k i)).val) ∧
  (∀ c s k n a tm, s.teams.find a.tk = some tm → (tm.region k).dual = false → (∀ i ∈ a.words n, tm.gladePast.find (gladeKey k i) = none) →
    (gladeFetch c s k n a).2 = (a.words n).map (tm.region k).read) ∧
  (∀ t x k la, ∀ p ∈ [(Instr.stgB32 t x k la, 4, false), (.stgB64 t x k la, 8, false), (.stgB128 t x k la, 16, false), (.stgmB32 t x k la, 4, true)],
      (∀ s c, Issues p.1 s c → GladePass c s k p.2.1 p.2.2 false x → gladeWaits s k p.2.1 true (gladeAccs c x p.2.1 p.2.2) = false →
        ∃ u, exec p.1 s = .next u ∧ GoesOn s u c 1 ∧ (∀ n, ∃ m g, u.thread n = { s.thread n with issued := m, agent := g }) ∧
          u = { s with threads := u.threads, waves := u.waves, gangs := u.gangs, groups := u.groups, teams := u.teams, writeNo := u.writeNo } ∧
          (∀ tk tm, s.teams.find tk = some tm → ∃ gp, u.teams.find tk =
            some { ((gladeAccs c x p.2.1 p.2.2).filter fun a => a.tk == tk).foldl (fun tm a =>
              tm.setRegion k ((List.range (p.2.1 / 4)).foldl
                (fun r i => r.write (a.off / 4 + i) (rankOf c.tk a.lane.t) (c.src a.lane (t + i)).f) (tm.region k))) tm with gladePast := gp } ∧
            ((tm.region k).dual = true → gp = tm.gladePast)) ∧
          (∀ tk, s.teams.find tk = none → u.teams.find tk = none) ∧
          ∀ w, u.wave w = (s.wave w).raise (flagsTo c w fun c l => if (List.range (p.2.1 / 4)).any fun i => (c.src l (t + i)).s then fInexact else 0)) ∧
      GladeStops p.1 k p.2.1 true p.2.2 false x) ∧
  (∀ (s : State) key tk k w v rel (tm : Team), s.teams.find tk = some tm → (tm.region k).dual = false → ∀ pass : Bool,
    let u := s.gladeWrite key tk k [(w, v)] rel pass
    u.writeNo = s.writeNo + 1 ∧ u.gladePastOf tk k w = ⟨s.writeNo + 1, v, if pass = true then
      (rel ++ ((s.gladePastOf tk k w).head?.map (·.rel)).getD []).eraseDups else rel⟩ :: s.gladePastOf tk k w) ∧
  (∀ (r : Region) w rank v,
      (r.dual = false → ∀ n, (r.write w rank v).read n = if n = w then v else r.read n) ∧
      (r.dual = true → (∀ n, (r.write w rank v).read n = r.read n) ∧
        (∀ n, sget 0 (r.write w rank v).next n = if n = w then v else sget 0 r.next n) ∧
        (∀ n q, (((r.write w rank v).written.find n).getD []).find q =
          if n = w ∧ q = rank then some v else ((r.written.find n).getD []).find q)) ∧
      (r.write w rank v).cfg = r.cfg ∧ (r.write w rank v).lap = r.lap)

/-- R254, R255, R259: TLOOK writes the slot that holds the key, or all ones; TSET puts the key into the way named of its set and nowhere else; TCLR drops
it; a team that does not own the tag table traps GLADE_REGION. -/
def Obligations.TagResults : Prop :=
  (∀ t x la s c, Issues (.tlook t x la) s c → c.team.ownsTags = true → ∃ u, exec (.tlook t x la) s = .next u ∧ Moved s u c 1 ∧
    LanesBecome s u (acting (.tlook t x la) c) (putF t fun c l => match tagSlot c.team.tags (c.src l x).f with
      | some n => BitVec.ofNat 32 n
      | none => 0xFFFFFFFF#32) noFlags) ∧
  (∀ t x la, ∀ p ∈ [(Instr.tset t x la, fun (c : Ctx) (l : Lane) (tags : Tab W32) =>
        (dropKey tags (c.src l x).f).put (tagSet (c.src l x).f * 4 + (c.src l t).f.toNat % 4) (c.src l x).f),
      (.tclr x la, fun c l tags => dropKey tags (c.src l x).f)],
    ∀ s c, Issues p.1 s c → c.team.ownsTags = true → ∃ u, exec p.1 s = .next u ∧ GoesOn s u c 1 ∧ ThreadsKept s u ∧ WavesKept s u ∧
      u = { s with threads := u.threads, gangs := u.gangs, groups := u.groups, teams := u.teams } ∧
      ∀ tk, u.teams.find tk = (s.teams.find tk).map fun tm =>
        if tk = c.tk then { tm with tags := c.lanes.foldl (fun tags l => p.2 c l tags) tm.tags } else tm) ∧
  (∀ t x la, ∀ i ∈ [Instr.tlook t x la, .tset t x la, .tclr x la], ∀ s c, Issues i s c → c.team.ownsTags = false →
    exec i s = .next (takeTrap (acted i s c) c.gkey (c.trapArgs .gladeRegion (lowLane c.lanes)))) ∧
  (∀ (tags : Tab W32) k w, w < 4 → (∀ i j, i < 4 → j < 4 → tags.find (tagSet k * 4 + i) = some k → tags.find (tagSet k * 4 + j) = some k → i = j) →
    tagSlot ((dropKey tags k).put (tagSet k * 4 + w) k) k = some (tagSet k * 4 + w) ∧ tagSlot (dropKey tags k) k = none) ∧
  (∀ k : W32, tagSet k < 1024)

/-- R273, R274 to R276: the glade atomics; LDL takes the lock bit of its word if it is free or the thread's own and says in p7 whether it did; STUL
stores, frees the thread's own lock bit and says in p7 whether it held it, after the waits of a release. -/
def Obligations.GladeAtomicResults : Prop :=
  (∀ t x k la, ∀ p ∈ [(Instr.gaddI32 t x k la, fun (c : Ctx) (l : Lane) (m : W32) => (m + (c.src l t).f, (0 : Flags5))),
      (.gaddF32 t x k la, fun c l m => let r := roundSum [(val32 m, false), (val32 (c.src l t).f, false)] (armOf l.wv.mode); (r.f, r.fl)),
      (.gmaxI32 t x k la, fun c l m => (if m.toInt < (c.src l t).f.toInt then (c.src l t).f else m, 0)),
      (.gxchg t x k la, fun c l _ => ((c.src l t).f, 0)),
      (.gcas t x k la, fun c l m => (if m = (c.src l t).f then (c.src l (t + 1)).f else m, 0))],
    GladeAtomics p.1 x k (fun _ _ => True) (atomLane p.2 t k)) ∧
  (∀ t x k la, GladeAtomics (.ldl t x k la) x k (fun _ _ => True) fun c s a =>
    let b := lockBit (a.off / 4)
    let won := lockHolder s c.team.core b = none ∨ lockHolder s c.team.core b = some a.lane.key
    let m := (regionOf s a.tk k).read (a.off / 4)
    let met := inScope s (.team c.tk) (gpastAt s.writeNo (s.gladePastOf a.tk k (a.off / 4))).rel
    let s := if won then s.setTeam c.tk fun tm => { tm with locks := tm.locks.put b a.lane.t } else s
    ((s.gladeRead (.team c.tk) a.lane.key a.tk k [a.off / 4] s.writeNo).onAgents [a.lane.key] (·.acquireIn false 0 met)).setThread a.lane.key
      fun th => (th.setV (c.reg a.lane t) ⟨m, false⟩).setP 7 (decide won)) ∧
  (∀ t x k la, GladeAtomics (.stul t x k la) x k (fun c s => c.release s = .go) fun c s a =>
    let b := lockBit (a.off / 4)
    let mine := lockHolder s c.team.core b = some a.lane.key
    let v := c.src a.lane t
    let s := (s.gladeWrite a.lane.key a.tk k [(a.off / 4, v.f)] (relOf (.team c.tk) 0 false ((a.agent s).rel true)) false).raise a.lane.wk
      (if v.s then fInexact else 0)
    (if mine then s.setTeam c.tk fun tm => { tm with locks := tm.locks.del b } else s).setThread a.lane.key fun th => th.setP 7 (decide mine)) ∧
  (∀ t x k la s c, Issues (.stul t x k la) s c → c.release s = .wait →
    exec (.stul t x k la) s = .next (waitState (acted (.stul t x k la) s c) c))

/-- R277, R316, R317, R321: a fence whose waits are over goes on and changes only what its threads are bound to see: an acquire takes the releases they
have met in its scope, a release covers what came before; of the full fences of a group, each in rank order also sees what those before it in both
scopes show, of earlier lanes too, and adds what its thread has made and read. Before that it waits. -/
def Obligations.FenceResults : Prop :=
  ∀ sc, ∀ p ∈ [(Instr.fenceAcq sc, 1), (.fenceRel sc, 2), (.fenceFull sc, 3)],
    (∀ s c, Issues p.1 s c → FenceMet s c p.2 → ∃ t, exec p.1 s = .next t ∧ GoesOn s t c 1 ∧ WavesKept s t ∧
      t = { s with threads := t.threads, waves := t.waves, gangs := t.gangs, groups := t.groups, fences := t.fences } ∧
      (∀ (j : Nat) l, c.lanes[j]? = some l → ∃ n, t.thread l.key = { l.th with
        issued := n, agent := afterFence s (.team c.tk) p.2 sc (shownBy (.team c.tk) sc (c.lanes.take j) s.fences) l.th.agent }) ∧
      (∀ k, (∀ l ∈ c.lanes, k ≠ l.key) → t.thread k = s.thread k) ∧
      t.fences = if p.2 = 3 then shownBy (.team c.tk) sc c.lanes s.fences else s.fences) ∧
    (∀ s c, Issues p.1 s c → c.fence s p.2 = .wait → exec p.1 s = .next (waitState (acted p.1 s c) c))

/-- R257, R258, R278 to R280, R245, R320: BAR, GSTEP and GCFG arrive and wait; BARA arrives and goes on; BARW waits for the phase of each thread's latest
arrival and has then what the phases gave; a `.launch` barrier outside a cohort launch is illegal. -/
def Obligations.BarrierAndStepArrivals : Prop :=
  (∀ lv, Arrives (.bar lv) (fun s c => LevelLegal c lv ∧ FenceMet s c 3) .bar (fun _ _ th => { th with bar := oneMore th.bar lv, brought := lv })
    fun c v => onMeet lv c.tk c.gk c.lk (·.arrive v)) ∧
  (∀ m, Arrives (.gstep m) (fun s c => FenceMet s c 3) .step (fun c _ th => let w := if stepWide c.team m then 1 else 0
    { th with steps := oneMore th.steps w, brought := m + 256 * w }) fun c v => onStepMeet (if stepWide c.team m then 1 else 0) c.tk c.gk (·.arrive v)) ∧
  (∀ a k, Arrives (.gcfg a k) (fun _ _ => True) .cfg (fun _ l th => { th with cfgs := oneMore th.cfgs k, brought := (l.wv.getS a).toNat }) fun _ _ s => s) ∧
  (∀ lv, HeldGoesOn (.bar lv) .bar (LevelLegal · lv) (·.phaseOver lv) (·.given lv)) ∧
  (∀ m, HeldGoesOn (.gstep m) .step (fun _ => True) (fun c => c.stepOver (if stepWide c.team m then 1 else 0)) fun c => c.stepGiven (if stepWide c.team m then 1 else 0)) ∧
  (∀ a k, HeldGoesOn (.gcfg a k) .cfg (fun _ => True) (fun c => c.lanes.all fun l => decide (sget 0 l.th.cfgs k ≤ sget 0 c.team.cfgs k)) fun _ => []) ∧
  (∀ lv s c, Issues (.bara lv) s c → LevelLegal c lv → FenceMet s c 3 → let v := onMeet lv c.tk c.gk c.lk (·.arrive (broughtBy c.lanes)) s
    ∃ t, exec (.bara lv) s = .next t ∧ GoesOn v t c 1 ∧ t = { v with threads := t.threads, waves := t.waves, gangs := t.gangs, groups := t.groups } ∧
    LanesBecome s t (acting (.bara lv) c) (fun _ l => { l.th with bar := oneMore l.th.bar lv }) noFlags) ∧
  (∀ lv, WaitsAndAcquires (.barw lv)
    (fun _ c => LevelLegal c lv ∧ ∀ l ∈ c.lanes, sget 0 l.th.bar lv ≤ (match lv with | 0 => c.team.coreBar | 1 => c.gang.quadBar | _ => c.launch.launchBar))
    (fun _ c => LevelLegal c lv ∧ ∃ l ∈ c.lanes, (match lv with | 0 => c.team.coreBar | 1 => c.gang.quadBar | _ => c.launch.launchBar) < sget 0 l.th.bar lv)
    fun c _ => match lv with | 0 => c.team.meet.given | 1 => c.gang.meet.given | _ => c.launch.meet.given) ∧
  (∀ i ∈ [Instr.bar 2, .bara 2, .barw 2], ∀ s c, Issues i s c → c.launch.cohort = false →
    exec i s = .next (takeTrap (acted i s c) c.gkey (c.trapArgs .illegalInstruction (lowLane c.lanes))))

/-- R286, R298, R299, R304, R305, R334, R335, R339, R342, R343, R349 to R351, R372, R373: the engine commands. R284, R286, R293, R294: a copy command is
accepted exactly where its channel holds fewer than 16 commands and every core has the scoreboard entries; it stands at the end of its channel with
the wave's mode and batch and the low thread's conversion count, which a converting copy counts up. Memory is not touched. R360, R372, R374: a relay
run is accepted where fewer than four runs of the gang have not finished; that the active run counts among the four is the model's reading (log 20). -/
def Obligations.EngineCommands : Prop :=
  ((∀ a b i la, EngineCommand (.cpy a b i la) (copyPrep .cpy a b i) (copyAccept .cpy)) ∧
    (∀ a b i la, EngineCommand (.cpym a b i la) (copyPrep .cpym a b i) (copyAccept .cpym)) ∧
    (∀ a la, EngineCommand (.halo a la) (copyPrep .halo a 0 0) (copyAccept .halo)) ∧
    (∀ a b i la, EngineCommand (.cpyc a b i la) (chainPrep a b) (chainAccept i)) ∧
    (∀ a la, ∀ p ∈ [(Instr.mwld a la, 1), (.mmul a la, 2), (.mclr a la, 3), (.mrd a la, 4), (.mstg a la, 5), (.mspl a la, 7)],
      EngineCommand p.1 (mPrep a p.2) mAccept) ∧
    (∀ a b d la, EngineCommand (.rlrun a b d la) (rlrunPrep a b d) rlrunAccept) ∧
    (∀ la, EngineCommand (.rlinv la) (fun _ _ (_ : List Unit) _ => .ok ()) fun c s _ _ =>
      some (s.setFn c.launch.fn fun f => { f with rankCache := f.rankCache.filter fun e => e.1 != dieOfQuad c.gang.quad }))) ∧
  ((∀ kind c s w (p : CPrep) g t, kind ≠ .cpyc → s.gangs.find c.gk = some g → s.teams.find c.tk = some t → p.follow = none →
      ((copyAccept kind c s w p).isSome = true ↔ (g.chan p.chan).queue.length < 16 ∧ boardRoom s (opRanges c.tk p.stk p.par) = true) ∧
      ∀ u, copyAccept kind c s w p = some u → u.mem = s.mem ∧ ∃ g' q, u.gangs.find c.gk = some g' ∧
        (g'.chan p.chan).queue = (g.chan p.chan).queue ++ [q] ∧ (∀ k, k ≠ p.chan → g'.chan k = g.chan k) ∧
        q.id = s.nextId ∧ q.kind = kind ∧ q.wave = w.wk ∧ q.batch = (s.wave w.wk).batch ∧ q.scap = p.scap ∧ q.dcap = p.dcap ∧ q.par = p.par ∧
        q.mode = w.wv.mode ∧ q.conv = (s.thread (threadKey c.tk (lowLane w.lanes))).conv ∧
        (u.thread (threadKey c.tk (lowLane w.lanes))).conv = q.conv + if p.par.conv = 0 then 0 else 1) ∧
    (∀ c s w (r : Run) g, s.gangs.find c.gk = some g →
      ((rlrunAccept c s w r).isSome = true ↔ g.relay.queue.length + (if g.relay.active.isSome then 1 else 0) < 4) ∧
      ∀ u, rlrunAccept c s w r = some u → u.mem = s.mem ∧ ∃ g', u.gangs.find c.gk = some g' ∧ g'.relay.queue = g.relay.queue ++ [{ r with id := s.nextId }]))

/-- R306 to R308, R310, R311, R353, R374: batches and timelines. CBSEAL gives the number of the batch it seals and waits where a 17th unfinished sealed
batch would stand; waits go on once their condition holds, and acquire what the batches or the signals released; reads give the timeline or the status
word. MSTAT is illegal in a team without the macros, and in a reduce kernel. -/
def Obligations.BatchAndTimelineResults : Prop :=
  (∀ d s c, Issues (.cbseal d) s c →
    (∀ w ∈ (acting (.cbseal d) c).subs, unfinished c.gang w < 16 ∨ w.wv.batch ∉ openBatches c.gang w.wk) →
    ∃ t, exec (.cbseal d) s = .next t ∧ Moved s t c 1 ∧
      SubsBecome s t (acting (.cbseal d) c) fun _ w => { w.wv.setS d (BitVec.ofNat 64 w.wv.batch) with batch := w.wv.batch + 1 }) ∧
  (∀ d s c, Issues (.cbseal d) s c →
    (∃ w ∈ (acting (.cbseal d) c).subs, 16 ≤ unfinished c.gang w ∧ w.wv.batch ∈ openBatches c.gang w.wk) →
    exec (.cbseal d) s = .next (waitState (acted (.cbseal d) s c) c)) ∧
  (∀ n, WaitsAndAcquires (.cbwait n) (fun _ c => ∀ w ∈ (acting (.cbwait n) c).subs, unfinished c.gang w ≤ n)
    (fun _ c => ∃ w ∈ (acting (.cbwait n) c).subs, n < unfinished c.gang w) fun c => batchesGiven c.gang) ∧
  (∀ a b, WaitsAndAcquires (.tlwait a b) (fun s c => ∀ w ∈ (acting (.tlwait a b) c).subs, (w.wv.getS b).toNat ≤ timeline c s a)
    (fun s c => ∃ w ∈ (acting (.tlwait a b) c).subs, timeline c s a < (w.wv.getS b).toNat)
    fun c w => timelineGiven c.gang c.launch a (w.wv.getS b).toNat) ∧
  (∀ a b s c, Issues (.tlrd a b) s c → ∃ t, exec (.tlrd a b) s = .next t ∧ Moved s t c 1 ∧
    SubsBecome s t (acting (.tlrd a b) c) (putS a fun c _ => BitVec.ofNat 64 (timeline c s b))) ∧
  (∀ d, SubDoes (.rlstat d) 1 (putS d fun c _ => BitVec.ofNat 64 (relayStatus c.gang.relay))) ∧
  (∀ d m s c, Issues (.mstat d m) s c → c.gang.reduceOf = none → c.team.ownsMacros = true → ∃ t, exec (.mstat d m) s = .next t ∧ Moved s t c 1 ∧
    SubsBecome s t (acting (.mstat d m) c) (putS d fun c _ => BitVec.ofNat 64 (macroStatus (c.team.mac m)))) ∧
  (∀ d m s c, Issues (.mstat d m) s c → c.gang.reduceOf ≠ none ∨ c.team.ownsMacros = false →
    exec (.mstat d m) s = .next (takeTrap (acted (.mstat d m) s c) c.gkey (c.trapArgs .illegalInstruction (lowLane c.lanes))))

/-- R309, R316, R319, R427: TLSIG raises a program timeline to s_b if it is below it, and its signal releases what the subset's threads have done; SPAWN
writes its status and appends a launch to the queue exactly where the status is 0 and the queue has room. -/
def Obligations.SignalAndSpawnResults : Prop :=
  (∀ a b, SerialDoes (.tlsig a b) fun c s w u => u = (subActed c w (s.setLaunch c.lk fun l =>
      let o := sget 0#64 l.timelines a
      let n := if o.toNat < (w.wv.getS b).toNat then w.wv.getS b else o
      { l with timelines := sset 0#64 l.timelines a n
               signals := l.signals.put a (((l.signals.find a).getD []) ++ [(⟨n.toNat, 0, 0, w.released s c⟩ : Signal)]) })).wake) ∧
  (∀ d k b, SerialDoes (.spawn d k b) fun c s w u =>
    let v := (w.wv.getS b).toNat
    let st := spawnStatus c.fn (w.wv.getC k) v
    if st.1 ≠ 0 then u = subActed c w (s.setWave w.wk (·.setS d (BitVec.ofNat 64 st.1)))
    else (∃ f, s.fns.find c.launch.fn = some f ∧ ((f.queues.find (v / 2 ^ 48 % 16)).getD []).length < 256) ∧
      u = subActed c w ((appendLaunch s { spawnLaunch c.launch.fn st.2 v w.wv k b with
        given := View.join (issuerView w) (w.released s c) }).setWave w.wk (·.setS d 0))) ∧
  (∀ f (k : Cap) v, spawnStatus f k v = match if k.valid && k.rights.testBit 2 then f.images.find? fun p => p.2.codeCap.bits == k.bits else none with
    | none => (1, 0)
    | some p => if v / 2 ^ 52 = 0 ∧ v.testBit 23 = false ∧ (v / 2 ^ 30 % 4 = 0) ∧ v / 2 ^ 28 % 4 ≠ 3 ∧ v / 2 ^ 16 % 128 ≤ 64 then (0, p.1) else (2, p.1))

/-- R68 to R70, R376, R388, R389, R394, R397 to R399: clocks, counters and control registers. What counters 1 and 11 count is the model's choice (log 12).
A write keeps the defined bits; a reserved rounding mode is illegal and writes nothing. -/
def Obligations.ClockAndControlRegisterResults : Prop :=
  (∀ d g, SubDoes (.vclk d g) 1 (putS d fun c _ => BitVec.ofNat 64 (c.gang.vt / 5))) ∧
  (∀ d n, SubDoes (.pcnt d n) 1 (putS d fun c _ => BitVec.ofNat 64 (match n with
    | 0 => c.gang.vt / 5 | 1 => c.gang.cycles / 16 * c.gang.teams | 11 => c.gang.throttled / 16 * c.gang.teams | _ => sget 0 c.gang.counters n))) ∧
  (∀ d i, SubDoes (.csrr d i) 1 (putS d fun c w => match i with
    | 0 => w.wv.mode | 1 => w.wv.flags | 2 => c.launch.seed | 3 => if c.launch.shape.promiseD then 1 else 0
    | 4 => BitVec.ofNat 64 c.launch.fn | _ => BitVec.ofNat 64 c.launch.replays)) ∧
  (∀ a, SubChecked (.csrw a 0) 1
    (fun _ w => let v := (w.wv.getS a).toNat
      if v % 8 < 5 ∧ v / 16 % 8 < 5 then none else some (.illegalInstruction, 0, 0))
    fun _ w => { w.wv with mode := w.wv.getS a &&& 0x1F77#64 }) ∧
  (∀ a i, i ≠ 0 → SubDoes (.csrw a i) 1 fun _ w => { w.wv with flags := w.wv.getS a &&& 0x1F#64 })

/-- R378, R379, R382, R386, R395: timers. A deadline in the past expires at once, before the next subset arms; a patience timer on a stopped peer is held;
a peer index outside the launch is illegal. -/
def Obligations.TimerResults : Prop :=
  (∀ a b p ab s c, let i := Instr.tmarm a b p ab
    let peer := fun (w : Sub) => (w.wv.getS (b + 1)).toNat % 2 ^ 32
    Issues i s c → (p = 1 → ∀ w ∈ (acting i c).subs, peer w < c.launch.gangs) →
    ∃ t, exec i s = .next t ∧ WavesKept s t ∧ GangBecomes s t c fun g => (acting i c).subs.foldl (fun g w =>
      let dl := if ab = 1 then (w.wv.getS b).toNat else (c.gang.vt / 5 + (w.wv.getS b).toNat) % 2 ^ 64
      g.arm a (c.gang.vt / 5) dl (armed s c.gk (c.gang.vt / 5) dl (if p = 1 then some (peer w) else none))) g) ∧
  (∀ (g : Gang) k now dl q, now < dl → g.arm k now dl (.armed dl q) = { g with timers := sset .idle g.timers k (.armed dl q) }) ∧
  (∀ (g : Gang) k now dl r q, g.arm k now dl (.held r q) = { g with timers := sset .idle g.timers k (.held r q) }) ∧
  (∀ (g : Gang) k now dl q, dl ≤ now → let h := g.arm k now dl (.armed now q)
    sget .idle h.timers k = .idle ∧ (∀ j, j ≠ k → sget .idle h.timers j = sget .idle g.timers j) ∧
    ∃ e ∈ h.inbox, e.kind = 1 ∧ e.source = k ∧ (pendingTimer g k = false → e.stamp = now ∧ h.inbox.length = g.inbox.length + 1) ∧
      (pendingTimer g k = true → e.overrun = true ∧ h.inbox.length = g.inbox.length)) ∧
  (∀ a b ab, SubTrapsIf (.tmarm a b 1 ab) fun c w =>
    if (w.wv.getS (b + 1)).toNat % 2 ^ 32 < c.launch.gangs then none else some (.illegalInstruction, 0, 0)) ∧
  (∀ s gk now dl, armed s gk now dl none = .armed (max dl now) none) ∧
  (∀ s gk now dl p q, p ≠ gk % 65536 → s.gangs.find (gangKey (launchOfGang gk) p) = some q →
    armed s gk now dl (some p) = if q.status = .resident then .armed (max dl now) (some p) else .held (max dl now - now) p) ∧
  (∀ a, WaitsFor (.tmwait a) (fun _ c => sget .idle c.gang.timers a = .idle) fun _ c => sget .idle c.gang.timers a ≠ .idle) ∧
  (∀ a s c, Issues (.tmcan a) s c → ∃ t, exec (.tmcan a) s = .next t ∧ WavesKept s t ∧
    GangBecomes s t c fun g => { g with timers := sset .idle g.timers a .idle })

/-- R383, R384, R396: EVPOP takes the first event that is due, one subset after another, and writes its record and q true, or zeros and q false. -/
def Obligations.EventPopResults : Prop :=
  (∀ d b g s c, let i := Instr.evpop d b g
    Issues i s c → let v := (acting i c).subs.foldl (popEvent c d b) (acted i s c)
    ∃ t, exec i s = .next t ∧ GoesOn v t c 1 ∧ ThreadsKept v t ∧ t = { v with threads := t.threads, gangs := t.gangs, groups := t.groups }) ∧
  (∀ c d q s w g, s.gangs.find c.gk = some g → (∀ e ∈ g.inbox, g.vtick < e.stamp) →
    popEvent c d q s w = s.setWave w.wk fun x => ((((x.setS d 0).setS (d + 1) 0).setS (d + 2) 0).setS (d + 3) 0).setQ q false) ∧
  (∀ c d q s w g pre e post, s.gangs.find c.gk = some g → g.inbox = pre ++ e :: post → (∀ x ∈ pre, g.vtick < x.stamp) → e.stamp ≤ g.vtick →
    let u := popEvent c d q s w
    u.wave w.wk = ((((((s.wave w.wk).setS d (BitVec.ofNat 64 e.stamp)).setS (d + 1)
      (BitVec.ofNat 64 (e.source * 2 ^ 32 + e.length * 2 ^ 16 + (if e.overrun then 2 ^ 8 else 0) + e.kind))).setS (d + 2) e.p0).setS (d + 3) e.p1).setQ q true) ∧
    u.gangs.find c.gk = some { g with inbox := pre ++ post } ∧ (∀ k, k ≠ w.wk → u.wave k = s.wave k) ∧ u.mem = s.mem)

/-- R400: TRAP and, with no debugger, BRK take their trap after the instruction, with its number as code; with a debugger BRK halts every gang of the
launch instead, and stops those that stand. The trap's group stands past the instruction and resumes there. Which launches have a debugger (setting
12), and that gangs that are not resident are halted too, are the model's choice (log 24). -/
def Obligations.SoftwareTrapResults : Prop :=
  (∀ n, ∀ p ∈ [(Instr.trap n, Cause.software), (.brk n, .breakpoint)], ∀ s c, Issues p.1 s c → (p.2 = .breakpoint → s.debugged.contains c.lk = false) →
    ∃ t r, exec p.1 s = .next t ∧ t.traps.find s.nextId = some r ∧ r.cause = p.2 ∧ r.code = n ∧ r.pc = c.g.pc ∧ r.word = c.word ∧ r.resume = .after ∧
      r.fatal = false ∧ r.lane = lowLane c.lanes % 32 ∧ r.wave = lowLane c.lanes / 32 ∧ r.group = some c.gkey ∧
      (∃ as, t.groups.find c.gkey = some { c.g with
        pc := c.g.pc + 4, status := .trapped s.nextId, acted := [], heat := c.g.heat.bind Heat.next, windows := [], acquires := as, fresh := none, stuck := false }) ∧
      (∀ k, k ≠ c.gkey → t.groups.find k = s.groups.find k) ∧
      t = { s with threads := t.threads, gangs := t.gangs, groups := t.groups, traps := t.traps, nextId := s.nextId + 1 } ∧ ThreadsKept s t) ∧
  (∀ n s c, Issues (.brk n) s c → s.debugged.contains c.lk = true → ∃ t, exec (.brk n) s = .next t ∧ t.traps = s.traps ∧ t.mem = s.mem ∧
    (∃ g, t.groups.find c.gkey = some g ∧ g.pc = c.g.pc + 4 ∧ g.status = .ready) ∧
    (s.gangs.wf = true → ∀ k g, s.gangs.find k = some g → launchOfGang k = c.lk → g.reduceOf = none → ∃ h, t.gangs.find k = some h ∧
      h.halted = true ∧ (g.status = .resident → h.status = .quiescing ∧ h.stopWhy = .debugger)))

/-- R401, R432, R437: a service call waits for its subset's loads and stores, then goes to the service context with its four arguments and holds the
group; SYSC 3 ends the launch with a fatal record; a group all of whose subsets have their replies goes on. R401, R432, R437: a service call's reply
writes its status register, and for a service of another runtime its four results, and its group goes on with the next subset. -/
def Obligations.ServiceCalls : Prop :=
  (∀ d a n, ∀ p ∈ [(Instr.syscNull d a, 0), (.syscPostPeerEvent d a, 1), (.syscPostHostEvent d a, 2), (.syscEndLaunch d a, 3), (.syscHold d a, 16),
        (.syscEvict d a, 17)] ++ (if 4 ≤ n ∧ n ≤ 15 then [(.syscReserved d a n, n)] else []) ++ (if 18 ≤ n ∧ n ≤ 255 then [(.syscRuntimeService d a n, n)] else []),
      (∀ s c w ws, Issues p.1 s c → (acting p.1 c).todo = w :: ws → subQuiet (acting p.1 c) s w = .go → p.2 ≠ 3 →
        ∃ t, exec p.1 s = .next t ∧ t.mem = s.mem ∧ t.threads = s.threads ∧ t.waves = s.waves ∧
          t.calls.find s.nextId = some ⟨c.gkey, w.wk, d, a, p.2, (List.range 4).map fun k => w.wv.getS (a + k),
            callReady s c.lk c.launch p.2 (w.wv.getS a) (w.wv.getS (a + 1))⟩ ∧
          ∃ g, t.groups.find c.gkey = some g ∧ g.status = .calling s.nextId ∧ g.pc = c.g.pc) ∧
      (∀ s c w ws, Issues p.1 s c → (acting p.1 c).todo = w :: ws → subQuiet (acting p.1 c) s w = .go → p.2 = 3 →
        ∃ t r l, exec p.1 s = .next t ∧ t.traps.find s.nextId = some r ∧ r.cause = .software ∧ r.fatal = true ∧ r.code = (w.wv.getS a).toNat % 2 ^ 32 ∧
          t.launches.find c.lk = some l ∧ l.fatal.isSome = true) ∧
      (∀ s c, Issues p.1 s c → (acting p.1 c).todo = [] → ∃ t, exec p.1 s = .next t ∧ Moved s t c 1 ∧ ThreadsKept s t ∧ WavesKept s t) ∧
      (∀ s c w ws, Issues p.1 s c → (acting p.1 c).todo = w :: ws → subQuiet (acting p.1 c) s w = .wait →
        exec p.1 s = .next (waitState (acted p.1 s c) c))) ∧
  ((∀ s id st r0 r1 r2 r3 c g n, s.calls.find id = some c → s.gangs.find (gangOfTeam (teamOfGroup c.group)) = some g → g.status = .resident →
      c.ready = some n → ∃ t, exec (.serviceCallReply id st r0 r1 r2 r3) s = .next t ∧ t.mem = s.mem ∧ t.threads = s.threads ∧
        (∀ k, t.wave k = if k = c.wave then (s.wave k).setS c.d (BitVec.ofNat 64 n) else s.wave k) ∧ t.calls = s.calls.del id ∧
        ∀ k g, s.groups.find k = some g → t.groups.find k = some (if g.status = .calling id then { g with status := .ready, acted := g.acted ++ [c.wave % 64] } else g)) ∧
    (∀ s id st r0 r1 r2 r3 c g, s.calls.find id = some c → s.gangs.find (gangOfTeam (teamOfGroup c.group)) = some g → g.status = .resident →
      c.ready = none → 18 ≤ c.code → ∃ t, exec (.serviceCallReply id st r0 r1 r2 r3) s = .next t ∧ t.mem = s.mem ∧ t.threads = s.threads ∧
        (∀ k, t.wave k = if k = c.wave then
          (((((s.wave k).setS c.a (BitVec.ofNat 64 r0)).setS (c.a + 1) (BitVec.ofNat 64 r1)).setS (c.a + 2) (BitVec.ofNat 64 r2)).setS (c.a + 3)
            (BitVec.ofNat 64 r3)).setS c.d (BitVec.ofNat 64 st) else s.wave k) ∧ t.calls = s.calls.del id) ∧
    (∀ s id st r0 r1 r2 r3 c g l f sec e, let lk := launchOfGang (gangOfTeam (teamOfGroup c.group))
      s.calls.find id = some c → s.gangs.find (gangOfTeam (teamOfGroup c.group)) = some g → g.status = .resident → c.ready = none → c.code = 17 →
      s.launches.find lk = some l → s.fnFor lk = some f → let reg := (c.args.getD 0 0).toNat
      let page := (c.args.getD 1 0).toNat
      l.shape.sections.find? (fun d => d.reg == reg) = some sec → 7 ≤ reg → reg ≤ 29 → page < (sec.size + 65535) / 65536 →
      entryPhys s f sec.obj page = some e → f.seesPage sec.obj page (readLE s.mem e 8) = true → physExists e = true → pageInUse s l.fn sec.obj page = false →
      ∃ t, exec (.serviceCallReply id st r0 r1 r2 r3) s = .next t ∧ readLE t.mem e 8 = readLE s.mem e 8 - readLE s.mem e 8 % 2 ∧ BytesKept s t e 8 ∧
        (∀ k, t.wave k = if k = c.wave then (s.wave k).setS c.d 0 else s.wave k) ∧ ∃ l', t.launches.find lk = some l' ∧ l'.evicted = l.evicted ++ [(sec.obj, page)]))

/-- R103 to R107, R418: a bin forms only while it is eligible; once in a core cycle the eligible bin of greatest age, ties by the lowest rank, becomes a
group in the lowest free slot; a bin of the age limit becomes eligible, and every bin of a core does where a core cycle passes in which none of its
groups is ready; the thin group formed first yields its slot, with no window open, to a formation that finds none, of an eligible bin or of threads
for which there is no bin. A deterministic launch forms as `detBin` says, of a wave those bins that stand when its forming begins: which threads it
waits for (log 15) and the order of its formations (log 22) are the model's readings. -/
def Obligations.GroupFormationEvents : Prop :=
  (∀ s core x, x ∈ eligibleBins s core ↔ x ∈ binsOn s core ∧ teamServed s x.1 = true ∧ isDet s x.1 = false ∧
    x.2.eligible = true) ∧
  (∀ s core tk b tm slot, detBin s core = none → mayForm s core = true → (tk, b) ∈ eligibleBins s core →
    (∀ x ∈ eligibleBins s core, x ≠ (tk, b) → x.2.age < b.age ∨ x.2.age = b.age ∧ binRank tk b < binRank x.1 x.2) →
    s.teams.find tk = some tm → freeSlot s tm.core = some slot → ∃ t, exec (.groupFormation core) s = .next t ∧
      t.groups.find (groupKey tk slot) = some ⟨sortNat b.threads, b.pc, .ready, none, [], [], [], s.nextId, 0, some s.now, false⟩ ∧
      (∀ k, k ≠ groupKey tk slot → t.groups.find k = s.groups.find k) ∧
      t.teams.find tk = some { tm with bins := tm.bins.filter fun x => x.seq != b.seq } ∧
      (∀ k th, s.threads.find k = some th → t.threads.find k =
        some (if (b.threads.map (threadKey tk)).contains k then { th with status := .grouped } else th)) ∧
      t.formedAt = sset 0 s.formedAt tm.core (s.now + 1) ∧ t.mem = s.mem ∧ t.waves = s.waves) ∧
  (∀ s core tk b tm slot, detBin s core = some (tk, b) → s.teams.find tk = some tm →
    freeSlot (if b.eligible = true then s else markWave s tk (b.low / 32)) tm.core = some slot → ∃ t, exec (.groupFormation core) s = .next t ∧
      t.groups.find (groupKey tk slot) = some ⟨sortNat b.threads, b.pc, .ready, none, [], [], [], s.nextId, 0, some s.now, false⟩ ∧
      (∀ k, k ≠ groupKey tk slot → t.groups.find k = s.groups.find k) ∧ t.mem = s.mem ∧ t.waves = s.waves ∧
      t.teams.find tk = some { tm with bins := (if b.eligible = true then tm.bins else tm.bins.map fun x =>
        if x.low / 32 = b.low / 32 then { x with eligible := true } else x).filter fun x => x.seq != b.seq }) ∧
  (∀ s core dt, (∀ p ∈ s.teams, p.2.core = core) → noneReady s core = true → idleCycle s core dt = true → ∀ tk tm, s.teams.find tk = some tm →
    teamServed s tk = true → isDet s tk = false → ∃ tm', (s.cyclesPass dt).teams.find tk = some tm' ∧ ∀ b ∈ tm'.bins, b.eligible = true) ∧
  (∀ s team tm b, s.teams.find team = some tm → isDet s team = false → b ∈ tm.bins → b.eligible = false → ageLimitOf s team * 16 ≤ b.age →
    exec (.binAgeLimit team b.seq) s = .next (s.setTeam team fun t =>
      { t with bins := t.bins.map fun x => if x.seq = b.seq then { x with eligible := true } else x })) ∧
  (∀ s core k g, thinGroup s core = some (k, g) → (k, g) ∈ groupsOn s core ∧ g.lanes.length < 32 ∧ g.heat = none ∧
    ∀ p ∈ groupsOn s core, p.2.lanes.length < 32 → p.2.heat = none → isDet s (teamOfGroup p.1) = false → g.formed ≤ p.2.formed) ∧
  (∀ s core k g u, thinGroup s core = some (k, g) → eligibleBins s core ≠ [] ∨ 64 ≤ (binsOn s core).length ∧
      (∃ p ∈ groupsOn s core, p.2.stuck = true ∧ p.2.isTrapped = false) → freeSlot s core = none →
    (∀ w ∈ g.windows, openWindow s (teamOfGroup k) w = false) → g.status = .ready ∨ g.status = .waiting → g.acted = [] → teamServed s (teamOfGroup k) = true →
      dissolve s k (g.lanes.map fun t => (t, g.pc)) = some u →
    exec (.thinGroupYield core) s = .next u ∧ u.mem = s.mem ∧ u.waves = s.waves ∧ u.accesses = s.accesses)

/-- R279, R281, R257: once every member has arrived, a barrier's phase completes and the groups held at it go on, and no group held elsewhere; a GCFG that
every thread of its team has reached with one valid word drains, or else traps GLADE_REGION in every group; drained, it configures its region with
both planes zero. -/
def Obligations.BarrierAndConfigurationEvents : Prop :=
  (∀ s level key m, barMembers s level key = some m → phaseReady s level m = true → Gathered s m.1 →
    ∃ t, exec (.barrierPhaseComplete level key) s = .next t ∧ t.mem = s.mem ∧ Loosened s t ∧
      phasesDone t level key = (phasesDone s level key).map (· + 1) ∧
      (s.threads.wf = true → ∀ k th, s.threads.find k = some th → th.hold ≠ .bar ∨ th.brought ≠ level → t.threads.find k = some th) ∧
      ∀ tk, m.1 = [tk] → GroupsGoOn s t tk fun th => th.hold = .bar ∧ th.brought = level ∧ sget 0 th.bar level ≤ m.2 + 1) ∧
  (∀ s team tm k v, s.teams.find team = some tm → k < 8 → cfgReady s team k tm = true → (∀ th ∈ liveOf s [team], th.brought = v) →
    cfgValid tm k (BitVec.ofNat 64 v) = true → reduceGang s team = none →
    exec (.gcfgArrivalsComplete team k) s = .next (s.setTeam team fun t => { t with cfgDraining := t.cfgDraining.put k (BitVec.ofNat 64 v) })) ∧
  (∀ s team tm k, s.teams.find team = some tm → k < 8 → cfgReady s team k tm = true → allGrouped s [team] = true → noneTrapped s [team] = true →
    (∃ x ∈ liveOf s [team], ∃ y ∈ liveOf s [team], x.brought ≠ y.brought) ∨ reduceGang s team ≠ none ∨
      (∀ x ∈ liveOf s [team], cfgValid tm k (BitVec.ofNat 64 x.brought) = false) →
    exec (.gcfgArrivalsComplete team k) s = .next (trapEach s (groupsIn s [team]))) ∧
  (∀ s team tm k v, s.teams.find team = some tm → tm.cfgDraining.find k = some v → boardNames s [team] [k] = false → Gathered s [team] →
    ∃ t tm', exec (.gcfgDrained team k) s = .next t ∧ t.mem = s.mem ∧ Loosened s t ∧ t.teams.find team = some tm' ∧
      (∀ j, tm'.region j = if j = k then ⟨v, [], [], [], 0⟩ else tm.region j) ∧ sget 0 tm'.cfgs k = sget 0 tm.cfgs k + 1 ∧
      tm'.cfgDraining.find k = none ∧ GroupsGoOn s t team fun th => th.hold = .cfg ∧ sget 0 th.cfgs k ≤ sget 0 tm.cfgs k + 1)

/-- R243, R245 to R250, R252: a step that every thread of its step group has reached drains if it passes its checks, and else traps GLADE_REGION in every
group. Drained, once no engine entry names its regions: with no collided word, its next planes become present with their records cleared and laps
counted, and the groups held at it go on; with one, GLADE_COLLISION is taken instead. A scoreboard entry whose work is done retires. -/
def Obligations.StepEvents : Prop :=
  (∀ s team wide m, wide ≤ 1 → stepReady s team wide = true → drainMask s team wide = none →
    (∀ th ∈ liveOf s (stepTeams s team wide), th.brought % 256 = m) → stepOk s (stepTeams s team wide) m = true →
    exec (.gstepArrivalsComplete team wide) s = .next (setDrain s team wide (some m))) ∧
  (∀ s team wide, wide ≤ 1 → stepReady s team wide = true → drainMask s team wide = none →
    (∀ th ∈ liveOf s (stepTeams s team wide), stepOk s (stepTeams s team wide) (th.brought % 256) = false) →
    allGrouped s (stepTeams s team wide) = true → noneTrapped s (stepTeams s team wide) = true →
    exec (.gstepArrivalsComplete team wide) s = .next (trapEach s (groupsIn s (stepTeams s team wide)))) ∧
  (∀ s team wide m, wide ≤ 1 → s.teams.wf = true → drainMask s team wide = some m → boardNames s (stepTeams s team wide) (maskRegions m) = false →
    collision s (stepTeams s team wide) (maskRegions m) = none → Gathered s (stepTeams s team wide) →
    ∃ t, exec (.gstepDrained team wide) s = .next t ∧ t.mem = s.mem ∧ Loosened s t ∧ drainMask t team wide = none ∧
      stepsDone t team wide = stepsDone s team wide + 1 ∧
      ∀ tk ∈ stepTeams s team wide, (GroupsGoOn s t tk fun th => th.hold = .step ∧ th.brought / 256 = wide ∧
          sget 0 th.steps wide ≤ stepsDone s team wide + 1) ∧
        ∀ tm, s.teams.find tk = some tm → ∃ tm', t.teams.find tk = some tm' ∧ ∀ k, tm'.region k =
          if m.testBit k = true ∧ k < 8 then (stepRegion (seedOf s (gangOfTeam team)) tk k (tm.region k)).1 else tm.region k) ∧
  (∀ s team wide m x v, drainMask s team wide = some m → boardNames s (stepTeams s team wide) (maskRegions m) = false →
    collision s (stepTeams s team wide) (maskRegions m) = some x → collide s (stepTeams s team wide) (gangOfTeam team) x = some v →
    exec (.gstepDrained team wide) s = .next (setDrain v team wide none)) ∧
  (∀ (s : State) tks gk x k g, let tk := teamKey gk (x.2.2.1 / 2048)
    groupOf s tk (x.2.2.1 % 2048) = some (k, g) → s.groups.find k = some g → g.isTrapped = false → tks.contains (teamOfGroup k) = true →
    ∃ v r h, collide s tks gk x = some v ∧ v.mem = s.mem ∧ v.traps.find s.nextId = some r ∧ r.cause = .gladeCollision ∧
      r.offset = x.1 * 2 ^ 24 + x.2.1 * 4 ∧ r.deferred = x.2.2.2 ∧ v.groups.find k = some h ∧ h.lanes = g.lanes ∧ h.status = .trapped s.nextId ∧
      ∀ j g', j ≠ k → s.groups.find j = some g' → ∃ h', v.groups.find j = some h' ∧ h'.lanes = g'.lanes ∧
        (tks.contains (teamOfGroup j) = true → g'.isTrapped = false → h'.status = .held)) ∧
  (∀ seed tk k r, let q := (stepRegion seed tk k r).1
    q.written = [] ∧ q.lap = r.lap + 1 ∧ q.cfg = r.cfg ∧ q.next = q.present) ∧
  (∀ seed tk k w r (rec : Tab W32), (∀ v, rec.vals = [v] → resolveWord seed tk k w r rec = (v, 0)) ∧
    (r.rule = 1 → 2 ≤ rec.vals.length → resolveWord seed tk k w r rec = (rec.vals.headD 0, 0)) ∧
    (r.rule = 2 → 2 ≤ rec.vals.length → resolveWord seed tk k w r rec = (rec.vals.foldl (· + ·) 0, 0))) ∧
  (∀ s team tm n e, s.teams.find team = some tm → tm.board.find n = some e → entryBusy s e = false →
    exec (.scoreboardEntryRetire team n) s = .next (s.setTeam team fun t => { t with board := t.board.del n }).wake)

/-- R216, R217, R229, R231, R235, R160, R163, R312, R322: a load's sector returns: its lane's register takes the extended, converted or filled bytes, as
memory stands or as an allowed earlier write left them; a uniform load's register the bytes, CLD's capability register the half with its validity bit;
the threads have seen the writes they read; memory and all else stay; a sector of many parts leaves memory alone too. That a lane's read of a
correctable sector counts an error (log 4) and that a fault foreseen and not met is taken back from counter 9 (log 12) are the model's choices. -/
def Obligations.LoadReturns : Prop :=
  (∀ s id a f p i j x d th (o : Option Nat), Ready s id a f → a.kind = .load [p] → p.role = 0 → p.threads = [th] → checkAt s f a p.off p.size = .ok i →
    checkAt s f a a.off a.size = .ok j → p.dst = [d] → MayReadAt s a p i o → loadedImage1 p.conv (s.readVal o i.phys p.size) = some x →
    ∃ t, exec (.loadSectorReturn ⟨id, o.toList.map (0, ·)⟩) s = .next t ∧
      (∀ k, t.thread k = if k = threadKey a.team th then { (s.thread k).setV d x with agent := sawPart s a p i o (s.thread k).agent } else s.thread k) ∧
      WavesKept s t ∧ Returned s t a id j.phys) ∧
  (∀ s id a f p i j n th (o : Option Nat), Ready s id a f → a.kind = .load [p] → p.role = 0 → p.threads = [th] → checkAt s f a p.off p.size = .ok i →
    checkAt s f a a.off a.size = .ok j → p.conv = .words n → MayReadAt s a p i o → ∃ t, exec (.loadSectorReturn ⟨id, o.toList.map (0, ·)⟩) s = .next t ∧
      (∀ k, t.thread k = if k = threadKey a.team th then
        { (s.thread k).putWords p.dst (s.readVal o i.phys p.size) with agent := sawPart s a p i o (s.thread k).agent } else s.thread k) ∧
      WavesKept s t ∧ Returned s t a id j.phys) ∧
  (∀ s id a f p q i j u d e th, Ready s id a f → a.kind = .load [p, q] → p.role = 1 → q.role = 2 → p.threads = [th] → q.threads = [th] → p.mate = none →
    p.wave = q.wave → q.dst = [d, e] → p.conv = q.conv → q.conv = .zb4 ∨ q.conv = .zb8 → checkAt s f a p.off p.size = .ok i → checkAt s f a q.off q.size = .ok j →
    checkAt s f a a.off a.size = .ok u → let r := blockPair q.conv (readLE s.mem i.phys p.size) (readLE s.mem j.phys q.size)
    ∃ t, exec (.loadSectorReturn ⟨id, []⟩) s = .next t ∧ t.mem = s.mem ∧
      (∀ k, ∃ g, t.thread k = if k = threadKey a.team th then
        { ((s.thread k).setV d ⟨r.1.f, r.1.s⟩).setV e ⟨r.2.f, r.2.s⟩ with agent := g } else s.thread k) ∧
      ∀ k, t.wave k = if k = q.wave then (s.wave k).raise (r.1.fl ||| r.2.fl) else s.wave k) ∧
  (∀ s id a f p i j n d (o : Option Nat), Ready s id a f → a.kind = .load [p] → p.role = 0 → checkAt s f a p.off p.size = .ok i →
    checkAt s f a a.off a.size = .ok j → p.dst = [d] → p.conv = .uni n → MayReadAt s a p i o → ∃ t, exec (.loadSectorReturn ⟨id, o.toList.map (0, ·)⟩) s = .next t ∧
      (∀ k, t.wave k = if k = p.wave then (s.wave k).setS d (BitVec.ofNat 64 (s.readVal o i.phys p.size)) else s.wave k) ∧
      OnlyAgents s t ∧ Returned s t a id j.phys) ∧
  (∀ s id a f p i j d (o : Option Nat), Ready s id a f → a.kind = .load [p] → p.role = 0 → checkAt s f a p.off p.size = .ok i →
    checkAt s f a a.off a.size = .ok j → p.dst = [d] → p.conv = .cap → MayReadAt s a p i o → ∃ t, exec (.loadSectorReturn ⟨id, o.toList.map (0, ·)⟩) s = .next t ∧
      (∀ k, t.wave k = if k = p.wave then (s.wave k).setC d ⟨BitVec.ofNat 128 (s.readVal o i.phys p.size), s.validBit o i.phys⟩ else s.wave k) ∧
      OnlyAgents s t ∧ Returned s t a id j.phys) ∧
  (∀ s id a f ps j, Ready s id a f → a.kind = .load ps → (∀ p ∈ ps, ∃ i, checkAt s f a p.off p.size = .ok i) → checkAt s f a a.off a.size = .ok j →
    ∃ t, exec (.loadSectorReturn ⟨id, []⟩) s = .next t ∧ t.mem = s.mem ∧ t.accesses.find id = none ∧ t.colours = s.colours ∧ t.valid = s.valid ∧
      ∀ k, t.groups.find k = (s.groups.find k).map fun g => if g.status = .waiting then { g with status := .ready } else g)

/-- R115, R143, R159, R162, R260 to R265, R312: a store, CST, CTAG or atomic is performed at its home in one step: exactly its bytes change, and the write
is the newest of each; a data store clears the validity bits of the halves it touches and CST sets the one it stores; CTAG colours its granules one
after another and clears their bits; an atomic returns the old value to its lane. -/
def Obligations.StoresAndAtomicsPerformed : Prop :=
  (∀ s id a f data cb i, Ready s id a f → a.kind = .store data cb → checkAt s f a a.off a.size = .ok i → toBuffer s a = none → 0 < a.size →
    ∃ t, exec (.storeAcknowledged id) s = .next t ∧ readLE t.mem i.phys a.size = data % 256 ^ a.size ∧ BytesKept s t i.phys a.size ∧
      EntersOrder s t (.team a.team) (cb.getD false) i.phys a.size data ∧
      (∀ h, sget false t.valid h = if cb.isSome = true ∧ h = i.phys / 16 then cb.getD false
        else if i.phys / 16 ≤ h ∧ h ≤ (i.phys + a.size - 1) / 16 then false else sget false s.valid h) ∧
      t.colours = s.colours ∧ AccGone s t id ∧ OnlyAgents s t ∧ t.waves = s.waves ∧ t.teams = s.teams) ∧
  (∀ s id a f data cb p, Ready s id a f → a.kind = .store data cb → a.colour = 0 → toBuffer s a = some p →
    exec (.storeAcknowledged id) s = .next ((bufferWrite s p a.off a.size data).dropAcc id).wake) ∧
  (∀ s id a f g col i, Ready s id a f → a.kind = .tag g col → checkAccess s f a = .ok i →
    ∃ t, exec (.storeAcknowledged id) s = .next t ∧ t.mem = s.mem ∧ t.threads = s.threads ∧ t.waves = s.waves ∧
      t.accesses.find id = (if g ≤ 1 then none else some { a with kind := .tag (g - 1) col, off := a.off + 32 }) ∧
      (∀ j, j ≠ id → t.accesses.find j = s.accesses.find j) ∧
      (∀ n, sget 0 t.colours n = if n = i.phys / 32 then col else sget 0 s.colours n) ∧
      ∀ h, sget false t.valid h = if h = i.phys / 16 ∨ h = i.phys / 16 + 1 then false else sget false s.valid h) ∧
  (∀ s id a f op x y arm dst i, Ready s id a f → a.kind = .atomic op x y arm dst → checkAt s f a a.off a.size = .ok i → 0 < a.size →
    let m := readLE s.mem i.phys a.size
    ∃ t, exec (.atomicPerformed id) s = .next t ∧ BytesKept s t i.phys a.size ∧
      readLE t.mem i.phys a.size = (match (atomicNew op x y m arm).1 with | some v => v % 256 ^ a.size | none => m) ∧
      (match (atomicNew op x y m arm).1 with | some v => EntersOrder s t (.team a.team) false i.phys a.size v | none => t.past = s.past) ∧
      (∀ k, ∃ g, t.thread k = { (if k = threadKey a.team (a.threads.headD 0) then (s.thread k).putWords dst m else s.thread k) with agent := g }) ∧
      (∀ k, t.wave k = if k = waveKey a.team (a.threads.headD 0 / 32) then (s.wave k).raise (atomicNew op x y m arm).2 else s.wave k) ∧
      AccGone s t id ∧ t.colours = s.colours ∧ t.teams = s.teams) ∧
  (∀ s id a f v sq bars i tm, Ready s id a f → a.kind = .ordered v sq bars → checkAt s f a a.off a.size = .ok i → s.teams.find a.team = some tm →
    tm.ended = false → bufferUse s tm.core < 2048 ∨ shadowUse tm + 16 ≤ tm.shadow →
    ∃ t, exec (.orderedValidate id) s = .next t ∧ t.mem = s.mem ∧ AccGone s t id ∧
      t.teams.find a.team = some { tm with
        buffer := tm.buffer ++ [⟨a.obj, a.off, a.threads.headD 0, sq, v, decide (2048 ≤ bufferUse s tm.core), bars, a.info⟩] } ∧
      (∀ k, k ≠ a.team → t.teams.find k = s.teams.find k) ∧ t.threads = s.threads ∧ t.waves = s.waves) ∧
  (∀ s id a f v sq bars i tm, Ready s id a f → a.kind = .ordered v sq bars → checkAt s f a a.off a.size = .ok i → s.teams.find a.team = some tm →
    2048 ≤ bufferUse s tm.core → tm.shadow < shadowUse tm + 16 → ∃ t r l, exec (.orderedValidate id) s = .next t ∧ t.mem = s.mem ∧ AccGone s t id ∧
      t.traps.find s.nextId = some r ∧ r.cause = .orderedTarget ∧ r.fatal = true ∧ r.deferredPrecise = true ∧ r.object = a.obj ∧ r.offset = a.off ∧
      t.launches.find (launchOfGang (gangOfTeam a.team)) = some l ∧ l.fatal.isSome = true)

/-- R219 to R226: an access that fails its check parks with an operand-log entry in the state its cause gives, or waits in its port's fault queue while
the log is full or others wait there, unless it or its instruction holds an entry already; the parts of a sector that do not fail in the same way go
on by themselves, in their place of the order of issue; a resolved access is issued again and, declared fatal, is refused or faulted, but for one that
waits for an evicted page (R437). Nothing of memory and no register changes. -/
def Obligations.AccessFaults : Prop :=
  (∀ (k : AKind) c fatal, failedState k c fatal = if (c = .pageNotPresent ∨ c = .stage2) ∧ fatal = false then .resolving c
    else if k.inWindow = true then .refused c fatal else .faulted c fatal) ∧
  (∀ s id a f c g, Ready s id a f → (∀ ps, a.kind ≠ .load ps) → checkAccess s f a = .fail c g → c ≠ .uncorrectable → TeamGoesOn s a.team →
    a.logged = true ∨ hasEntry s a = true ∨ (logRoom s a = true ∧ ∀ n, queuedBefore s a n = false) →
    ∃ t, exec (.memorySideFault id) s = .next t ∧ t.mem = s.mem ∧ t.threads = s.threads ∧ t.waves = s.waves ∧
      t.accesses.find id = some { a with guest := g, st := failedState a.kind c false, logged := true, foreseen := 0 }) ∧
  (∀ s id a f c g, Ready s id a f → (∀ ps, a.kind ≠ .load ps) → checkAccess s f a = .fail c g → a.logged = false → hasEntry s a = false →
    logRoom s a = false ∨ queuedBefore s a s.nextId = true → ∃ t, exec (.memorySideFault id) s = .next t ∧ t.mem = s.mem ∧ t.threads = s.threads ∧ t.waves = s.waves ∧
      t.accesses.find id = some { a with guest := g, st := .queued c s.nextId, foreseen := 0 }) ∧
  (∀ s id a f c g ps, Ready s id a f → a.kind = .load ps → id ≠ s.nextId → s.accesses.wf = true → checkAccess s f a = .fail c g → c ≠ .uncorrectable →
    TeamGoesOn s a.team → a.logged = true ∨ hasEntry s a = true ∨ (logRoom s a = true ∧ ∀ n, queuedBefore s a n = false) →
    let bad := ps.filter fun p => checkAt s f a p.off p.size == .fail c g
    let rest := ps.filter fun p => !(checkAt s f a p.off p.size == .fail c g)
    ∃ t, exec (.memorySideFault id) s = .next t ∧ t.mem = s.mem ∧ t.threads = s.threads ∧ t.waves = s.waves ∧
      t.accesses.find id = some { a.withParts bad with guest := g, st := failedState a.kind c false, logged := true, foreseen := 0 } ∧
      (rest ≠ [] → t.accesses.find s.nextId = some { a.withParts rest with foreseen := a.foreseen - 1 })) ∧
  (∀ (a : Access) p ps, a.withParts (p :: ps) = { a with
    kind := .load (p :: ps), threads := ((p :: ps).flatMap (·.threads)).eraseDups, off := p.off, size := p.size }) ∧
  (∀ s id a c n, s.accesses.find id = some a → a.st = .queued c n → c ≠ .uncorrectable → TeamGoesOn s a.team →
    hasEntry s a = true ∨ (logRoom s a = true ∧ queuedBefore s a n = false) →
    ∃ t, exec (.faultEntersLog id) s = .next t ∧ t.mem = s.mem ∧ t.threads = s.threads ∧ t.waves = s.waves ∧
      t.accesses.find id = some { a with st := failedState a.kind c false, logged := true }) ∧
  (∀ s id a f c g, s.accesses.find id = some a → fnOfTeam s a.team = some f → a.st = .resolving c → c = .pageNotPresent ∨ c = .stage2 →
    s.gangs.find (gangOfTeam a.team) = some g → g.status = .resident → a.kind ≠ .fetch →
    exec (.faultReplay id) s = .next (s.setAcc id fun x => { x with st := .issued, pins := [] }).wake) ∧
  (∀ s id a f c g i, s.accesses.find id = some a → fnOfTeam s a.team = some f → a.st = .resolving c → c = .pageNotPresent ∨ c = .stage2 →
    s.gangs.find (gangOfTeam a.team) = some g → g.status = .resident → a.kind = .fetch → checkAt s f a a.off a.size = .ok i →
    exec (.faultReplay id) s = .next { s with
      accesses := s.accesses.del id
      groups := s.groups.mapVals fun _ g => if g.status = .fetching id then { g with status := .ready } else g }) ∧
  (∀ s id, waitsEvicted s id = true → exec (.faultDeclaredFatal id) s = .refused .notEnabled) ∧
  (∀ s id a c, s.accesses.find id = some a → a.st = .resolving c → c = .pageNotPresent ∨ c = .stage2 → waitsEvicted s id = false → TeamGoesOn s a.team →
    a.kind ≠ .fetch → exec (.faultDeclaredFatal id) s = .next (s.setAcc id fun x => { x with st := if a.kind.inWindow then .refused c false else .faulted c false }).wake) ∧
  (∀ s id a c k g, s.accesses.find id = some a → a.st = .resolving c → c = .pageNotPresent ∨ c = .stage2 → waitsEvicted s id = false → a.kind = .fetch →
    s.groups = [(k, g)] → g.status = .fetching id → ∃ t r, exec (.faultDeclaredFatal id) s = .next t ∧ t.mem = s.mem ∧
      t.traps.find s.nextId = some r ∧ r.cause = c ∧ r.pc = a.info.pc ∧ r.deferredPrecise = false ∧
      t.groups.find k = some { g with status := .trapped s.nextId, fresh := none, stuck := false } ∧ t.accesses = s.accesses.del id)

/-- R116, R145, R223, R226, R392, R85: a refused store stops its thread's group at its boundary with one deferred-precise record, a uniform store of a
mixed group only its own subset, a thread in a bin alone (uniform is what its decode table makes of its word, R95), and of an exited thread it leaves
a record that stops nothing; CANCEL ends the launches of exactly the parked accesses it names; a record is resumed, or declared fatal, which ends its
launch; an unassigned word is illegal at its own place, and so in a service context, which does what its other words do to its files (that these are
the uniform operations is the model's choice, log 29). R10. -/
def Obligations.TrapEvents : Prop :=
  (∀ s id a c fatal k g, s.accesses.find id = some a → a.st = .refused c fatal → uniformStore s a = false → Answered s a → a.threads ≠ [] →
    (s.thread (threadKey a.team (a.threads.headD 0))).status = .grouped → groupOf s a.team (a.threads.headD 0) = some (k, g) →
    g.status = .ready ∨ g.status = .waiting → ∃ t r, exec (.storeRefused id) s = .next t ∧ t.mem = s.mem ∧ t.threads = s.threads ∧ t.waves = s.waves ∧
      t.traps.find s.nextId = some r ∧ NamesLowest s a (fun x => ∃ u ∈ x.threads, u ∈ g.lanes) r ∧ r.resume = .boundary ∧ r.group = some k ∧
      (s.groups.find k = some g → t.groups.find k = some { g with status := .trapped s.nextId, fresh := none, stuck := false })) ∧
  (∀ s id a c fatal k g slot, s.accesses.find id = some a → a.st = .refused c fatal → uniformStore s a = true → a.threads ≠ [] →
    (s.thread (threadKey a.team (a.threads.headD 0))).status = .grouped → groupOf s a.team (a.threads.headD 0) = some (k, g) →
    g.status = .ready ∨ g.status = .waiting → (∃ u ∈ g.lanes, u ∉ a.threads) → freeSlot s (coreOf s a.team) = some slot → groupKey a.team slot ≠ k →
    ∃ t r, exec (.storeRefused id) s = .next t ∧ t.mem = s.mem ∧ t.threads = s.threads ∧ t.waves = s.waves ∧
      t.traps.find (s.nextId + 1) = some r ∧ NamesAccess r a c ∧ r.fatal = fatal ∧ r.resume = .boundary ∧
      t.groups.find k = some { g with lanes := g.lanes.filter fun u => !a.threads.contains u, status := .ready } ∧
      t.groups.find (groupKey a.team slot) = some { g with
        lanes := g.lanes.filter fun u => a.threads.contains u, formed := s.nextId, status := .trapped (s.nextId + 1), fresh := none, stuck := false }) ∧
  (∀ s id a c fatal x slot, s.accesses.find id = some a → a.st = .refused c fatal → uniformStore s a = true ∨ Answered s a → a.threads ≠ [] →
    (s.thread (threadKey a.team (a.threads.headD 0))).status = .filed → s.teams.find a.team = some x → freeSlot s x.core = some slot →
    ∃ t r, exec (.storeRefused id) s = .next t ∧ t.mem = s.mem ∧ t.waves = s.waves ∧ t.traps.find (s.nextId + 1) = some r ∧ r.resume = .boundary ∧
      r.deferredPrecise = true ∧ r.lane = a.threads.headD 0 % 32 ∧ r.wave = a.threads.headD 0 / 32 ∧ t.groups.find (groupKey a.team slot) = some
        ⟨[a.threads.headD 0], binPc s a.team (a.threads.headD 0), .trapped (s.nextId + 1), none, [], [], [], s.nextId, 0, none, false⟩) ∧
  (∀ s id a c fatal, s.accesses.find id = some a → a.st = .refused c fatal → uniformStore s a = false → Answered s a → a.threads ≠ [] →
    (s.thread (threadKey a.team (a.threads.headD 0))).status = .exited → ∃ t r, exec (.storeRefused id) s = .next t ∧ t.mem = s.mem ∧
      t.threads = s.threads ∧ t.traps.find s.nextId = some r ∧
      NamesLowest s a (fun x => ∃ u ∈ x.threads, (s.thread (threadKey a.team u)).status = .exited) r ∧ r.resume = .nothing ∧ r.group = none) ∧
  (∀ s port slot pc, cancelled s port slot pc = [] → EnginesApart s slot pc → exec (.cancel port slot pc) s = .next s) ∧
  (∀ s port slot pc id a c l, cancelled s port slot pc = [(id, a, c)] → EnginesApart s slot pc →
    s.launches.find (launchOfGang (gangOfTeam a.team)) = some l → ∃ t r l', exec (.cancel port slot pc) s = .next t ∧ t.mem = s.mem ∧ AccGone s t id ∧
      t.traps.find s.nextId = some r ∧ r.fatal = true ∧ r.pc = a.info.pc ∧ r.cause = c ∧ r.object = a.obj ∧ r.offset = a.off ∧
      t.launches.find (launchOfGang (gangOfTeam a.team)) = some l' ∧ l'.fatal.isSome = true) ∧
  (∀ s rec r, s.traps.find rec = some r → r.done = false → r.fatal = false → r.cause ≠ .uncorrectable → r.cause ≠ .vfReset →
    exec (.trapResume rec) s = .next (resumeTrap s rec)) ∧
  (∀ s rec r l, s.traps.find rec = some r → r.done = false → s.launches.find r.launch = some l → ∃ t, exec (.trapDeclareFatal rec) s = .next t ∧
    t = { s with traps := t.traps, launches := t.launches } ∧ t.traps.find rec = some { r with done := true, fatal := true } ∧
    t.launches.find r.launch = some { l with fatal := some (l.fatal.getD { r with done := true, fatal := true }) } ∧
    (∀ k, k ≠ rec → t.traps.find k = s.traps.find k) ∧ ∀ k, k ≠ r.launch → t.launches.find k = s.launches.find k) ∧
  (∀ s c, ctx? s = some c → exec .unassignedOpcode s = .next (takeTrap s c.gkey (c.trapArgs .illegalInstruction (lowLane c.all)))) ∧
  (∀ s n w ls, let x := (s.services.find n).getD Service.init
    serviceRuns s n = true → n ≤ 64 ∨ keyOf w < 0x500 ∨ 0x580 ≤ keyOf w →
    (serviceOp s n w = none ∨ (∃ k, serviceOp s n w = some k ∧ k < 0x400) →
      execService n w ls s = .next { s with services := s.services.put n { x with traps := (.illegalInstruction, w) :: x.traps } }) ∧
    ∀ k i, serviceOp s n w = some k → filesOnly k w = true → infoOf k w (ls.getD 0 0) (ls.getD 1 0) = .ok i → i.wf 128 false = true →
      execService n w ls s = .next { s with services := s.services.put n (match serviceEff x i.iss s with
        | .inl y => y.past i.iss
        | .inr c => { x with traps := (c, w) :: x.traps }) }) ∧
  (∀ s x d a b g, serviceEff x (issSadd d a b g) s = .inl (if x.file.getQ g = true then
    { x with file := x.file.setS d (x.file.getS a + x.file.getS b) } else x))

/-- R212, R216, R266, R329 to R331, R423, R425, R426: changed table entries take effect with the invalidation, and an access that had translated before
completes under the old ones; a peer module's access is performed at its physical address, an ordered flow's in sequence, and the host's at its
object's page, which must be host-visible; behind a failed link, and through a flow that a reset has closed, nothing is performed, and the host's
store is dropped and counted; its access to an ordered object is discarded and counted. A store's page is copied before the store where a snapshot
holds it; the scrubber corrects a sector that nothing has written since, and its stack counts that; a failed link stays failed. The model's own
choices in it: the codes of access kinds (log 25), the names of links (log 4), where outside agents stand (log 7), that an access out of its flow's
sequence is refused (log 9), and that the host's store to a read-only page is discarded (log 31). -/
def Obligations.OutsideAccesses : Prop :=
  (∀ s fn f ws kept, s.fns.find fn = some f → (∀ w ∈ ws, physExists w.1 = true ∧ physExists (w.1 + 7) = true) →
    ∃ t, exec (.memoryPortInvalidate fn ⟨ws, kept, []⟩) s = .next t ∧ EntriesKept s t ws ∧ t.threads = s.threads ∧ t.waves = s.waves ∧
      (∀ id, t.accesses.find id = (s.accesses.find id).map fun a =>
        if id ∈ kept ∧ a.st = .issued ∧ s.fnOf (launchOfGang (gangOfTeam a.team)) = fn then a.pinned s f else a) ∧
      ∀ pre a v, ws = pre ++ [(a, v)] → readLE t.mem a 8 = v % 2 ^ 64) ∧
  (∀ s (f : Fn) (a : Access) off p, a.pins.find (off / 65536) = some p → a.xlate s f off = if p.size ≤ off then .fail .pageNotPresent 0 else .ok { p with
    phys := p.phys / 65536 * 65536 + off % 65536, guest := p.guest / 65536 * 65536 + off % 65536 }) ∧
  (∀ s src o seq old addr data k, s.boot = .ready → src < 65 * 256 → k ≤ 5 → addr % 2 ^ k = 0 → addr + 2 ^ k ≤ Config.hbmBytes →
    (o % 2 = 1 → seq = sget 0 s.flows src) → let flows := if o % 2 = 1 then sset 0 s.flows src (seq + 1) else s.flows
    let far := linkDown s.failed linkDie (2 ^ 64 + src % 256 * 2 ^ 56) = true
    let near := linkDown s.failed linkDie addr = true ∨ ∃ g, s.fns.find (src / 256) = some g ∧ g.shut = true
    (far → ∀ op, op ≤ 1 → exec (.peerModuleAccess src o seq ⟨2 ^ k, op, old⟩ addr data) s = .next s) ∧
    (¬far → near → ∀ op, op ≤ 1 → exec (.peerModuleAccess src o seq ⟨2 ^ k, op, old⟩ addr data) s = .next { s with flows := flows }) ∧
    (¬far → ¬near →
      (∃ t, exec (.peerModuleAccess src o seq ⟨2 ^ k, 0, old⟩ addr data) s = .next t ∧ t = { s with hosts := t.hosts, flows := flows }) ∧
      ∃ t, exec (.peerModuleAccess src o seq ⟨2 ^ k, 1, old⟩ addr data) s = .next t ∧ readLE t.mem addr (2 ^ k) = data % 256 ^ 2 ^ k ∧
        BytesKept s t addr (2 ^ k) ∧ EntersOrder s t (.peer (src % 256)) false addr (2 ^ k) (data % 256 ^ 2 ^ k) ∧ t.threads = s.threads ∧
        t.accesses = s.accesses ∧ t.flows = flows)) ∧
  (∀ s src seq op addr data o, o % 2 = 1 → linkDown s.failed linkDie (2 ^ 64 + src % 256 * 2 ^ 56) = false → seq ≠ sget 0 s.flows src →
    exec (.peerModuleAccess src o seq op addr data) s = .refused .notEnabled) ∧
  (∀ s host fn f obj off k data order old p, s.boot = .ready → s.fns.find fn = some f → k ≤ 5 → off % 2 ^ k = 0 → obj ≠ 0 →
    translate s.mem f obj off false = .ok p → p.hostvis = true → let cut := hostCut s = true ∨ linkDown s.failed linkDie p.phys = true
    (¬cut → ∃ t, exec (.hostMemoryAccess fn obj off (2 ^ k) ⟨host, 0, order, old⟩ data) s = .next t ∧ t = { s with hosts := t.hosts }) ∧
    (cut → exec (.hostMemoryAccess fn obj off (2 ^ k) ⟨host, 0, order, old⟩ data) s = .next s) ∧
    (p.snapcopy = false → p.ro = true → exec (.hostMemoryAccess fn obj off (2 ^ k) ⟨host, 1, order, old⟩ data) s = .next s) ∧
    (p.snapcopy = false → p.ro = false → ¬cut → ∃ t, exec (.hostMemoryAccess fn obj off (2 ^ k) ⟨host, 1, order, old⟩ data) s = .next t ∧
      readLE t.mem p.phys (2 ^ k) = data % 256 ^ 2 ^ k ∧ BytesKept s t p.phys (2 ^ k) ∧
      EntersOrder s t (.host host) false p.phys (2 ^ k) (data % 256 ^ 2 ^ k) ∧ t.threads = s.threads ∧ t.accesses = s.accesses) ∧
    (p.snapcopy = false → p.ro = false → cut → exec (.hostMemoryAccess fn obj off (2 ^ k) ⟨host, 1, order, old⟩ data) s =
      .next (s.setFn fn fun f => { f with dropped := f.dropped + 1 }))) ∧
  (∀ s host fn f obj off k op data order old g, s.boot = .ready → s.fns.find fn = some f → k ≤ 5 → op ≤ 1 → off % 2 ^ k = 0 → obj ≠ 0 →
    translate s.mem f obj off false = .fail .orderedTarget g →
    exec (.hostMemoryAccess fn obj off (2 ^ k) ⟨host, op, order, old⟩ data) s = .next (s.setFn fn fun f => { f with hostDiscarded := f.hostDiscarded + 1 })) ∧
  (∀ s host fn f obj off size data order old, s.boot = .ready → s.fns.find fn = some f →
    exec (.hostMemoryAccess fn obj off size ⟨host, 2, order, old⟩ data) s = .next (hostFence s host).wake ∧
    exec (.hostMemoryAccess fn 0 off size ⟨host, 0, order, old⟩ data) s = .next s) ∧
  (∀ s acc frame lk obj off f e src, heldAt s acc = some (lk, obj, off, f) → entryPhys s f obj (off / 65536) = some e →
    frameOf s f obj (off / 65536) = some src → (readLE s.mem e 8).testBit 12 = true → frame % 65536 = 0 → physExists (frame + 65535) = true → frame ≠ src →
    src % 65536 = 0 → Memory.wf s.mem = true → e + 8 ≤ frame ∨ frame + 65536 ≤ e → physExists e = true → ∃ t, exec (.snapshotPageCopy acc frame) s = .next t ∧
      (∀ n, n < 65536 → src + n < e ∨ e + 8 ≤ src + n → readByte t.mem (frame + n) = readByte s.mem (src + n)) ∧
      (∀ b, b < frame ∨ frame + 65536 ≤ b → b < e ∨ e + 8 ≤ b → readByte t.mem b = readByte s.mem b) ∧
      readLE t.mem e 8 = readLE s.mem e 8 - 2 ^ 12 ∧ t.threads = s.threads ∧ t.accesses = s.accesses) ∧
  (∀ s n v, exec (.scrubSector n v) s = .next (if sget .ok s.ecc n = .correctable ∧ sget 0 s.versions n = v then
    { s with ecc := sset .ok s.ecc n .ok, errorCounts := sset 0 s.errorCounts (2 * stackOf n) (sget 0 s.errorCounts (2 * stackOf n) + 1) } else s)) ∧
  (∀ s n, ∃ t, exec (.linkFailure n) s = .next t ∧ (∀ m, m ∈ t.failed ↔ m = n ∨ m ∈ s.failed) ∧ t = ({ s with failed := t.failed }).wake)

/-- R285, R289 to R292, R297, R302 to R304: an operation starts by reading its source, with no byte yet written, or parks or aborts at its source's fault;
it finishes by making its writes, each exactly its bytes, is counted, releases them and raises its flags; one that failed stops its thread and is
counted, with the flags of what it has converted; a chain acquires at the control word of its record, and ends at a record it does not own; CPYM's
command enters its macro's queue. The flags of a failed operation (log 17), and that one of a launch that will be replayed stays (log 23), are the
model's readings. -/
def Obligations.CopyEvents : Prop :=
  (∀ s gk k x rest ws fl old, HeadCmd s gk k x rest → x.q.kind ≠ .cpyc → x.ch.op = none →
    loadOp s x.fn x.die ⟨x.q.view, old⟩ gk x.tk (sourceTeam gk x.tk (x.q.kind == .halo) x.q.par) x.q.mode x.q.low x.q.conv x.q.par x.q.scap x.q.dcap
      = .ok (ws, fl) →
    ∃ t, exec (.copyOperationStart gk k ⟨[], old⟩) s = .next t ∧ t.mem = s.mem ∧ t.teams = s.teams ∧ t.threads = s.threads ∧ t.waves = s.waves ∧
      ∃ o, chanOf t gk k = some { x.ch with op := some o } ∧ o.id = x.q.id ∧ o.loaded = true ∧ o.writes = bySector ws ∧ o.flags = fl ∧
        o.follow = x.q.follow ∧ o.wrote = []) ∧
  (∀ s gk k x rest c obj off old, HeadCmd s gk k x rest → x.q.kind ≠ .cpyc → x.ch.op = none →
    loadOp s x.fn x.die ⟨x.q.view, old⟩ gk x.tk (sourceTeam gk x.tk (x.q.kind == .halo) x.q.par) x.q.mode x.q.low x.q.conv x.q.par x.q.scap x.q.dcap
      = .fault c obj off →
    ∃ t, exec (.copyOperationStart gk k ⟨[], old⟩) s = .next t ∧ t = { s with gangs := t.gangs } ∧ ∃ o, chanOf t gk k = some { x.ch with op := some o } ∧
      o.loaded = false ∧ MetFault o c obj off) ∧
  (∀ s gk k x rest o, HeadCmd s gk k x rest → x.ch.op = some o → o.loaded = true → o.fails = none → o.follow = none → o.record = none →
    standing s x.tk = true → (∀ w ∈ o.writes, w.made = true) →
    ∃ t, exec (.copyOperationFinish gk k) s = .next t ∧ t.mem = s.mem ∧ t.threads = s.threads ∧ Signalled s t gk k x rest o.flags o.wrote) ∧
  (∀ s gk k x rest o w i, HeadCmd s gk k x rest → x.ch.op = some o → o.loaded = true → o.fails = none → o.follow = none → o.record = none →
    standing s x.tk = true → o.writes = [w] → w.made = false → w.glade = false → (∀ b ∈ w.bytes, b < 256) →
    w.off % 32 + w.bytes.length ≤ 32 → 0 < w.bytes.length →
    memCheck s x.fn x.die w.cap.object w.off w.bytes.length w.cap.colour .store = .ok i →
    ∃ t, exec (.copyOperationFinish gk k) s = .next t ∧ readLE t.mem i.phys w.bytes.length = numOf w.bytes ∧ BytesKept s t i.phys w.bytes.length ∧
      EntersOrder s t (.engine x.die) false i.phys w.bytes.length (numOf w.bytes) ∧ t.threads = s.threads ∧ t.teams = s.teams ∧
      Signalled s t gk k x rest o.flags (View.join o.wrote (View.ofWrite (i.kind == 2) (s.writeNo + 1) i.phys w.bytes.length))) ∧
  (∀ s gk k x rest o e j, HeadCmd s gk k x rest → x.ch.op = some o → o.fails = some e →
    (e.1 = .uncorrectable → replays s (launchOfGang gk) = false) → o.record = none ∨ o.par.counts = [] →
    StandsIn s x.tk x.q.low j → (∃ g, s.groups.find j = some g) →
    ∃ t, exec (.copyOperationAbort gk k) s = .next t ∧ t.mem = s.mem ∧ t.threads = s.threads ∧ EngineTrap s t j e.1 x.q.info ∧
      Signalled s t gk k x rest o.flags o.wrote) ∧
  (∀ s gk k x rest o e, HeadCmd s gk k x rest → x.ch.op = some o → o.fails = some e → e.1 = .uncorrectable → replays s (launchOfGang gk) = true →
    exec (.copyOperationAbort gk k) s = .next (s.consume (launchOfGang gk))) ∧
  (∀ s gk k x rest early old, HeadCmd s gk k x rest → x.q.kind = .cpyc → x.ch.op = none → readRecord s x old x.q.chain = .ends →
    ∃ t, exec (.chainRecordWalk gk ⟨k, early, old⟩) s = .next t ∧ t.mem = s.mem ∧ t.threads = s.threads ∧ t.waves = s.waves ∧
      chanOf t gk k = some { x.ch with op := none, queue := rest }) ∧
  (∀ s gk k x rest c obj off early old, HeadCmd s gk k x rest → x.q.kind = .cpyc → x.ch.op = none → readRecord s x old x.q.chain = .fault c obj off →
    ∃ t, exec (.chainRecordWalk gk ⟨k, early, old⟩) s = .next t ∧ t = { s with gangs := t.gangs, nextId := s.nextId + 1 } ∧
      ∃ o, chanOf t gk k = some { x.ch with op := some o } ∧ o.loaded = false ∧ MetFault o c obj off) ∧
  (∀ s gk k x rest o v ws fl old, HeadCmd s gk k x rest → x.q.kind = .cpyc → x.ch.op = none → readRecord s x old x.q.chain = .op o v →
    opBad (s.setChan gk k fun ch => { ch with queue := { x.q with view := v } :: rest }) x.tk x.tk false o.par o.src o.dst = none →
    o.par.conv = 0 → opRanges x.tk x.tk o.par = [] → loadOp (walking s gk k x rest v) x.fn x.die ⟨v, old⟩ gk x.tk x.tk x.q.mode x.q.low
      (s.thread (threadKey x.tk x.q.low)).conv o.par o.src o.dst = .ok (ws, fl) →
    ∃ t, exec (.chainRecordWalk gk ⟨k, [], old⟩) s = .next t ∧ t.mem = s.mem ∧ t.threads = s.threads ∧
      ∃ p, chanOf t gk k = some { x.ch with op := some p, queue := { x.q with view := v } :: rest } ∧ p.loaded = true ∧ p.writes = bySector ws ∧
        p.flags = fl ∧ p.record = o.record ∧ p.next = o.next) ∧
  (∀ s gk k x rest o v tm rs, HeadCmd s gk k x rest → x.q.kind = .cpym → x.q.followBad = false → x.ch.op = some o → o.follow = some v →
    o.loaded = true → o.fails = none → standing s x.tk = true → (∀ w ∈ o.writes, w.made = true) → s.teams.find x.tk = some tm →
    checkCmd s x.tk (x.q.wave % 64) v.toNat 0 x.q.info.lanes = .ok rs → boardRoom s rs.1 = true →
    ∃ t tm' q, exec (.cpymFollowIssue gk k) s = .next t ∧ t.mem = s.mem ∧ t.teams.find x.tk = some tm' ∧
      (tm'.mac (cmdMacro v.toNat)).queue = (tm.mac (cmdMacro v.toNat)).queue ++ [q] ∧ q.word = v ∧ q.wave = x.q.wave % 64 ∧ q.scales = x.q.scales ∧
      chanOf t gk k = some { x.ch with op := some { o with follow := none } })

/-- R332, R333, R336, R337, R340, R342, R343: a macro's head command runs when it starts and shows its outcome when it finishes: the timeline counts it,
its registers and flags land, or its thread stops; while a gang quiesces, the command that stood at the head still runs (R338). MCLR clears exactly
the accumulators of the row groups it names, MWLD replaces exactly its bank. -/
def Obligations.MatrixEvents : Prop :=
  (∀ s tk m tm g q rest d, s.teams.find tk = some tm → s.gangs.find (gangOfTeam tk) = some g → g.mayStart s (gangOfTeam tk) = true ∨ g.status = .quiescing ∧ q.last = true →
    (tm.mac m).queue = q :: rest →
    q.started = false → runCmd (seedOf s (gangOfTeam tk)) (gangOfTeam tk) tk tm (tm.mac m) q = .ok d →
    ∃ t tm', exec (.macroCommandStart tk m) s = .next t ∧ t = { s with teams := t.teams } ∧ t.teams.find tk = some tm' ∧
      (∀ k, k ≠ tk → t.teams.find k = s.teams.find k) ∧ tm'.regions = d.team.regions ∧
      (tm'.mac m).acc = d.mac.acc ∧ (tm'.mac m).banks = d.mac.banks ∧ (tm'.mac m).done = (tm.mac m).done ∧
      (tm'.mac m).queue = { q with started := true, flags := d.flags, regs := d.regs } :: rest) ∧
  (∀ s tk m tm g q rest e, s.teams.find tk = some tm → s.gangs.find (gangOfTeam tk) = some g → g.mayStart s (gangOfTeam tk) = true ∨ g.status = .quiescing ∧ q.last = true →
    (tm.mac m).queue = q :: rest →
    q.started = false → runCmd (seedOf s (gangOfTeam tk)) (gangOfTeam tk) tk tm (tm.mac m) q = .error e →
    ∃ t tm', exec (.macroCommandStart tk m) s = .next t ∧ t = { s with teams := t.teams } ∧ t.teams.find tk = some tm' ∧
      tm'.regions = tm.regions ∧ (tm'.mac m).acc = (tm.mac m).acc ∧ (tm'.mac m).banks = (tm.mac m).banks ∧
      (tm'.mac m).queue = { q with started := true, fails := some e } :: rest ∧
      (tm'.mac m).checks = if e.1 = .matrixCheck then min 255 ((tm.mac m).checks + 1) else (tm.mac m).checks) ∧
  (∀ seed gk tk t m (q : MCmd), q.word.toNat / 2 ^ 60 % 16 = 3 → ∃ d, runCmd seed gk tk t m q = .ok d ∧ d.team = t ∧ d.flags = 0 ∧ d.regs = [] ∧
    d.mac.banks = m.banks ∧ ∀ p, d.mac.acc.find p = if q.word.toNat.testBit (p / 256) = true then none else m.acc.find p) ∧
  (∀ seed gk tk t m (q : MCmd), q.word.toNat / 2 ^ 60 % 16 = 1 → ∃ d, runCmd seed gk tk t m q = .ok d ∧ d.team = t ∧ d.flags = 0 ∧ d.regs = [] ∧
    d.mac.acc = m.acc ∧ (∀ b, b ≠ q.word.toNat / 2 ^ 57 % 4 → d.mac.banks.find b = m.banks.find b) ∧
    ∃ b, d.mac.banks.find (q.word.toNat / 2 ^ 57 % 4) = some b ∧ b.fmt = q.word.toNat / 2 ^ 53 % 16 ∧ b.meta1 = none ∧
      b.cells = (t.region (q.word.toNat / 2 ^ 49 % 8)).readBytes (q.word.toNat / 2 ^ 36 % 2 ^ 13 * 64) 16384) ∧
  (∀ s tk m tm q rest, s.teams.find tk = some tm → (tm.mac m).queue = q :: rest → q.started = true → q.fails = none →
    ∃ t, exec (.macroCommandFinish tk m) s = .next t ∧ t.mem = s.mem ∧
      t.teams.find tk = some (tm.setMac m fun x => { x with queue := rest, done := x.done + 1 }) ∧
      (∀ k th, s.threads.find k = some th → t.threads.find k = some (match q.regs.find? fun r => threadKey tk r.1 == k with
        | some r => th.setV (q.word.toNat / 2 ^ 52 % 128) r.2
        | none => th)) ∧
      ∀ w, t.wave w = if w = waveKey tk q.wave then (s.wave w).raise q.flags else s.wave w) ∧
  (∀ s tk m tm q rest e j, s.teams.find tk = some tm → (tm.mac m).queue = q :: rest → q.started = true → q.fails = some e →
    StandsIn s tk q.low j → (∃ g, s.groups.find j = some g) →
    ∃ t, exec (.macroCommandFinish tk m) s = .next t ∧ t.mem = s.mem ∧ t.threads = s.threads ∧ t.waves = s.waves ∧
      t.teams.find tk = some (tm.setMac m fun x => { x with queue := rest, done := x.done + 1 }) ∧ EngineTrap s t j e.1 q.info)

/-- R360 to R362: the next run starts once its header, its steps and its rank list have been read and are well formed. R363 to R365: each step has its
action, on the chunks its expressions name, and the run goes on at the next step; WAIT acquires as TLWAIT does. -/
def Obligations.RelayStepEvents : Prop :=
  (∀ s gang g f q rest hb r list n sb es lb p old, s.gangs.find gang = some g → s.fnFor (launchOfGang gang) = some f → g.status = .resident →
    g.relay.active = none → g.relay.queue = q :: rest → runsOnDie s (dieOfQuad g.quad) < 64 → q.fails = none →
    let x : RCtx := ⟨gang, g, q, f, s.fnOf (launchOfGang gang), q.wave / 64, dieOfQuad g.quad⟩
    progRead s x old q.header 64 16 = .ok hb → parseHeader q hb = some (r, list, n) → progRead s x old (q.header + 64) (16 * n) 16 = .ok sb →
    let ws := (cutBytes 16 n sb).map fun b => BitVec.ofNat 128 (numOf b)
    (∀ i w, ws[i]? = some w → relayStepOk i w = true) →
    progAt x list (8 * r.n) 8 = .ok p → cachedList f x.die p.1 p.2 r.n = some es ∨
      cachedList f x.die p.1 p.2 r.n = none ∧ progRead s x old list (8 * r.n) 8 = .ok lb ∧
        es = (cutBytes 8 r.n lb).map (fun b => BitVec.ofNat 64 (numOf b)) →
    (∀ e ∈ es, rankOk e = true) → ∃ t, exec (.relayRunStart ⟨gang, old⟩) s = .next t ∧ t.mem = s.mem ∧ t.threads = s.threads ∧ t.waves = s.waves ∧
      (∃ g', t.gangs.find gang = some g' ∧ g'.relay.queue = rest) ∧
      RunIs t gang fun v => v.id = q.id ∧ v.coll = r.coll ∧ v.rank = r.rank ∧ v.n = r.n ∧ v.ranks = es ∧ v.steps = ws ∧ v.idx = 0 ∧ v.phase = .step) ∧
  (∀ s gang x w bs old, AtStep s gang 1 x w .step → rankCut s x (exprVal x.r w (stepPeer w) false) = false →
    readChunk s x old (x.r.buf (stepSbuf w)) (exprVal x.r w (stepSch w) false) (stepLen w) (elemSize x.r.signature) = .ok bs →
    ∃ t, exec (.relaySend ⟨gang, old⟩) s = .next t ∧ Sends s t gang x (exprVal x.r w (stepPeer w) false) (stepLen w) bs) ∧
  (∀ s gang x w c u, AtStep s gang 2 x w .step → x.r.accepted.find? (fun c => c.sender == exprVal x.r w (stepPeer w) false) = some c →
    c.len = stepLen w →
    writeChunk s x (x.r.buf (stepDbuf w)) (exprVal x.r w (stepDch w) false) (stepLen w) (elemSize x.r.signature) c.bytes = .ok u →
    ∃ t, exec (.relayRecv gang) s = .next t ∧ t.mem = u.1.mem ∧ GoesTo t gang (x.r.idx + 1) ∧ RunIs t gang fun r => ∀ d ∈ r.accepted, d.sender ≠ c.sender) ∧
  (∀ s gang x w c u, AtStep s gang 3 x w .step → x.r.accepted.find? (fun c => c.sender == exprVal x.r w (stepPeer w) false) = some c →
    c.len = stepLen w → let es := elemSize x.r.signature
    (∃ p, chunkAt (x.r.buf 3) 0 (stepLen w) es .r = .ok p) → (∃ p, chunkAt (x.r.buf (stepSbuf w)) (exprVal x.r w (stepSch w) false) (stepLen w) es .r = .ok p) →
    writeChunk s x (x.r.buf 3) 0 (stepLen w) es c.bytes = .ok u →
    ∃ t, exec (.relayRrs gang) s = .next t ∧ t.mem = u.1.mem ∧
      RunIs t gang fun r => r.phase = .reducing ((stepLen w * es + 63) / 64) ∧ r.idx = x.r.idx) ∧
  (∀ s gang x w, AtStep s gang 3 x w .reduced → rankCut s x (exprVal x.r w (stepPeer w) true) = false →
    ∃ t, exec (.relayRrs gang) s = .next t ∧ Sends s t gang x (exprVal x.r w (stepPeer w) true) (stepLen w) x.r.buffer) ∧
  (∀ s gang x w c u, AtStep s gang 4 x w .step → x.r.accepted.find? (fun c => c.sender == exprVal x.r w (stepPeer w) false) = some c →
    c.len = stepLen w → let es := elemSize x.r.signature
    (∃ p, chunkAt (x.r.buf 3) 0 (stepLen w) es .r = .ok p) → (∃ p, chunkAt (x.r.buf (stepSbuf w)) (exprVal x.r w (stepSch w) false) (stepLen w) es .r = .ok p) →
    (∃ p, chunkAt (x.r.buf (stepDbuf w)) (exprVal x.r w (stepDch w) false) (stepLen w) es .w = .ok p) →
    writeChunk s x (x.r.buf 3) 0 (stepLen w) es c.bytes = .ok u →
    ∃ t, exec (.relayRrd gang) s = .next t ∧ t.mem = u.1.mem ∧
      RunIs t gang fun r => r.phase = .reducing ((stepLen w * es + 63) / 64) ∧ r.idx = x.r.idx) ∧
  (∀ s gang x w, AtStep s gang 4 x w .reduced → ∃ t, exec (.relayRrd gang) s = .next t ∧ t.mem = s.mem ∧ GoesTo t gang (x.r.idx + 1)) ∧
  (∀ s gang x w bs u old, AtStep s gang 5 x w .step →
    readChunk s x old (x.r.buf (stepSbuf w)) (exprVal x.r w (stepSch w) false) (stepLen w) (elemSize x.r.signature) = .ok bs →
    writeChunk s x (x.r.buf (stepDbuf w)) (exprVal x.r w (stepDch w) false) (stepLen w) (elemSize x.r.signature) bs = .ok u →
    ∃ t, exec (.relayCopy ⟨gang, old⟩) s = .next t ∧ t.mem = u.1.mem ∧ GoesTo t gang (x.r.idx + 1)) ∧
  (∀ s gang x w l, AtStep s gang 6 x w .step → s.launches.find (launchOfGang gang) = some l →
    stepValue w ≤ timelineOf s x.g l (coreOf s x.tk) (stepPeer w) → ∃ t, exec (.relayWait gang) s = .next t ∧ t.mem = s.mem ∧ GoesTo t gang (x.r.idx + 1) ∧
      RunIs t gang fun r => r.view = View.join x.r.view (timelineGiven x.g l (stepPeer w) (stepValue w))) ∧
  (∀ s gang x w, AtStep s gang 7 x w .step → ∃ t, exec (.relayLoop gang) s = .next t ∧ t.mem = s.mem ∧
    if sget 0 x.r.loops (stepCtr w) + 1 < stepLen w then
      GoesTo t gang (stepAux w) ∧ RunIs t gang fun r => sget 0 r.loops (stepCtr w) = sget 0 x.r.loops (stepCtr w) + 1
    else GoesTo t gang (x.r.idx + 1) ∧ RunIs t gang fun r => sget 0 r.loops (stepCtr w) = 0) ∧
  (∀ s gang x w, AtStep s gang 8 x w .step → ∃ t, exec (.relayEnd gang) s = .next t ∧ RunEnds s t gang x 1) ∧
  (∀ s f die tk obj colour v again o bs i, memCheck s f die obj o bs.length colour .store = .ok i → ∃ u, engWrite s f die tk obj colour v again [(o, bs)] = .ok u ∧
    BytesKept s u.1 i.phys bs.length ∧ readLE u.1.mem i.phys bs.length = numOf bs % 256 ^ bs.length ∧
    u.2 = View.join v (View.ofWrite (i.kind == 2) (s.writeNo + (if again then 0 else 1)) i.phys bs.length)) ∧
  (∀ (r : Run) w e swap, 0 < r.n → exprVal r w e swap < r.n) ∧
  (∀ (r : Run) w k, k < 8192 → exprVal r w k false = k % r.n ∧ exprVal r w (16384 + k) false = (r.rank + k) % r.n ∧
    (0 < r.n → (exprVal r w (32768 + k) false : Int) = ((r.rank : Int) - k) % r.n) ∧ exprVal r w (49152 + k) false = (r.rank ^^^ k) % r.n ∧
    ∀ m, m < 4 → (r.loops.find (stepCtr w) = none → exprVal r w (m * 16384 + 8192 + k) false = exprVal r w (m * 16384 + k) false) ∧
      ∀ v, r.loops.find (stepCtr w) = some v → k + v < 8192 → exprVal r w (m * 16384 + 8192 + k) false = exprVal r w (m * 16384 + (k + v)) false)

/-- R366 to R371: a chunk is accepted by the engine of the run it is for, whose sender goes on, or marks its collective mismatched, whose runs then end
only so; flits land one by one; then a reduce kernel of 32 threads starts on an idle core of the die with its chunks in c1 to c3, and at its
retirement the step goes on with its flags and writes; notices and expired patience end runs with their status. Which runs are peers and when abort
notices go (log 20), and the key of a reduce kernel (log 21), are the model's readings. -/
def Obligations.RelayMessageEvents : Prop :=
  (∀ s c j fn coll sg n sn tg len bs gk g r h, j ≠ 0 → s.chunks.find? (fun c => c.id == j) = some c → s.gangs.find c.source = some h →
    h.status = .resident → c.module = Config.moduleId → peerOf s c.fn c.coll (BitVec.ofNat 64 c.target) = some (gk, g, r) → Reaches s h g →
    g.status = .resident → (∀ d ∈ r.accepted, d.sender ≠ c.sender) → r.signature = c.signature → r.n = c.n →
    ∃ t, exec (.relayChunkArrival j fn coll sg n sn tg len bs) s = .next t ∧ t.mem = s.mem ∧ t.chunks = s.chunks.filter (fun d => d.id != j) ∧
      (RunIs t gk fun v => v.accepted = r.accepted ++ [c]) ∧
      ∀ q f, h.relay.active = some q → q.phase = .sending j → s.fns.find (s.fnOf (launchOfGang c.source)) = some f → GoesTo t c.source (q.idx + 1)) ∧
  (∀ s c j fn coll sg n sn tg len bs gk g r f h, j ≠ 0 → s.chunks.find? (fun c => c.id == j) = some c → s.gangs.find c.source = some h →
    h.status = .resident → c.module = Config.moduleId → peerOf s c.fn c.coll (BitVec.ofNat 64 c.target) = some (gk, g, r) → Reaches s h g →
    g.status = .resident → (∀ d ∈ r.accepted, d.sender ≠ c.sender) → r.signature ≠ c.signature ∨ r.n ≠ c.n → s.fns.find c.fn = some f →
    ∃ t f', exec (.relayChunkArrival j fn coll sg n sn tg len bs) s = .next t ∧ t.mem = s.mem ∧ t.fns.find c.fn = some f' ∧
      c.coll ∈ f'.mismatched) ∧
  (∀ s gang x, rctx s gang = some x → x.f.mismatched.contains x.r.coll = true →
    exec (.relayEnd gang) s = .refused .notEnabled ∧ exec (.relayPatienceExpired gang) s = .refused .notEnabled) ∧
  (∀ s gang x n, rctx s gang = some x → x.r.phase = .reducing (n + 1) → ∃ t, exec (.flitLanded gang) s = .next t ∧ t = { s with gangs := t.gangs } ∧
    RunIs t gang fun r => r = { x.r with phase := .reducing n }) ∧
  (∀ s gang x core l, rctx s gang = some x → s.launches.find (launchOfGang gang) = some l → x.r.phase = .reducing 0 → dieOfCore core = x.die →
    x.f.quads.contains (core / Config.coresPerQuad) = true → quadHeld s (core / Config.coresPerQuad) = false → teamsOn s core = [] →
    s.gangs.find (gang + 65536) = none → (∀ p ∈ s.groups, gangOfTeam (teamOfGroup p.1) ≠ gang + 65536) →
    let tk := teamKey (gang + 65536) 0
    ∃ t, exec (.reduceKernelDispatch gang core) s = .next t ∧ t.mem = s.mem ∧
      (∃ g, t.gangs.find (gang + 65536) = some g ∧ g.reduceOf = some gang ∧ g.quad = core / Config.coresPerQuad ∧ g.status = .resident) ∧
      (∃ m, t.teams.find tk = some m ∧ m.count = 32 ∧ m.core = core ∧ m.regions = [] ∧ m.ownsMacros = false) ∧
      (∃ g, t.groups.find (groupKey tk 0) = some g ∧ g.lanes = List.range 32 ∧ g.pc = x.r.reduce ∧ g.status = .ready) ∧
      (∃ w, t.waves.find (waveKey tk 0) = some w ∧ w.mode = x.r.mode ∧ w.getC 31 = x.r.code ∧
        w.getS 1 = BitVec.ofNat 64 (stepLen (x.r.steps.getD x.r.idx 8)) ∧ w.getS 2 = BitVec.ofNat 64 (sigOp x.r.signature) ∧
        w.getS 3 = BitVec.ofNat 64 (sigType x.r.signature) ∧
        let step := x.r.steps.getD x.r.idx 8
        let n := stepLen step * elemSize x.r.signature
        let chunk (b : Cap) (c rights : Nat) : Cap := Cap.mk' b.object (b.base + c * n) n rights b.colour true
        w.getC 1 = chunk (x.r.buf 3) 0 1 ∧ w.getC 2 = chunk (x.r.buf (stepSbuf step)) (exprVal x.r step (stepSch step) false) 1 ∧
        (stepOp step ≠ 3 → w.getC 3 = chunk (x.r.buf (stepDbuf step)) (exprVal x.r step (stepDch step) false) 2) ∧
        (stepOp step = 3 → ∃ obj, 1 ≤ obj ∧ obj < 2 ^ 32 ∧ w.getC 3 = Cap.mk' obj 0 n 2 0 true)) ∧
      RunIs t gang fun r => r.phase = .kernel (gang + 65536)) ∧
  (∀ s rk gang k x, s.gangs.find rk = some k → k.reduceOf = some gang → rk ≠ gang → rctx s gang = some x → x.r.phase = .kernel rk →
    retirable s rk k = true → (∀ l, s.launches.find (launchOfGang rk) = some l → l.fatal = none) →
    (∀ tk tm, gangOfTeam tk = rk → s.teams.find tk = some tm → tm.buffer = []) →
    ∃ t, exec (.gangRetire rk) s = .next t ∧ t.mem = s.mem ∧ t.waves.find (waveKey (teamKey rk 0) 0) = none ∧ t.gangs.find rk = none ∧
      RunIs t gang fun r => r = { x.r with
        phase := .reduced, flags := x.r.flags ||| (s.wave (waveKey (teamKey rk 0) 0)).flags.setWidth 5
        wrote := View.join x.r.wrote (teamWrote s (teamKey rk 0)) }) ∧
  (∀ s gang x, rctx s gang = some x → x.g.relay.aborts.contains x.r.coll = true →
    ∃ t, exec (.relayAbortNotice gang x.r.coll 3) s = .next t ∧ RunEnds s t gang x 3) ∧
  (∀ s gang x j, rctx s gang = some x → x.f.mismatched.contains x.r.coll = true → StandsIn s x.tk x.r.low j →
    (∃ g, s.groups.find j = some g) →
    ∃ t, exec (.relayAbortNotice gang x.r.coll 4) s = .next t ∧ RunEnds s t gang x 4 ∧ EngineTrap s t j .collMismatch x.r.info) ∧
  (∀ s gang x, rctx s gang = some x → x.g.status = .resident → x.f.mismatched.contains x.r.coll = false → x.r.expired = true →
    ∃ t, exec (.relayPatienceExpired gang) s = .next t ∧ RunEnds s t gang x 2)

/-- R379 to R386: a timer that falls due is idle and its event stands in the inbox, or its unpopped event is marked overrun; a post takes a place while
one is free and is stamped then; the inbox stays in stamp order; HOLD pauses exactly the patience timers on its source, RESUME restarts them with what
they had left, and a relay run waits under its peer's HOLD likewise, also that of a peer on another module or of a gang packed away to one, by a way
that has not failed; a post that can no longer be placed is discarded and counted, or its call answered; the event window takes a store for a gang
that has not retired and discards any other; before Ready, and behind a failed host link, it takes none. What a retired gang's posts come to, here and
in the event window, and how a peer's notice names it are the model's choices (log 24). -/
def Obligations.TimerAndInboxEvents : Prop :=
  (∀ s gk k g d p, s.gangs.find gk = some g → g.status = .resident → sget .idle g.timers k = .armed d p → d ≤ g.vt / 5 →
    (∀ e ∈ g.inbox, ¬(e.kind = 1 ∧ e.source = k)) → ∃ t g', exec (.timerExpiry gk k) s = .next t ∧ t = ({ s with gangs := t.gangs }).wake ∧
      t.gangs.find gk = some g' ∧ sget .idle g'.timers k = .idle ∧ (∀ j, j ≠ k → sget .idle g'.timers j = sget .idle g.timers j) ∧
      g'.inbox.Perm (⟨d, 1, k, 0, false, 0, 0⟩ :: g.inbox) ∧ ∀ j, j ≠ gk → t.gangs.find j = s.gangs.find j) ∧
  (∀ s gk k g d p, s.gangs.find gk = some g → g.status = .resident → sget .idle g.timers k = .armed d p → d ≤ g.vt / 5 →
    (∃ e ∈ g.inbox, e.kind = 1 ∧ e.source = k) → ∃ t g', exec (.timerExpiry gk k) s = .next t ∧ t = ({ s with gangs := t.gangs }).wake ∧
      t.gangs.find gk = some g' ∧ sget .idle g'.timers k = .idle ∧
      g'.inbox = g.inbox.map fun e => if e.kind = 1 ∧ e.source = k then { e with overrun := true } else e) ∧
  (∀ e es, (es.Pairwise fun a b => a.stamp ≤ b.stamp) → ((insertEvent e es).Pairwise fun a b => a.stamp ≤ b.stamp) ∧ (insertEvent e es).Perm (e :: es)) ∧
  (∀ s gk g kind src len p0 p1 x, s.gangs.find gk = some g → placesUsed s gk g < 8188 → len ≤ 16 → g.reduceOf = none → kind ≠ 4 → x ∈ s.posts →
    x.gang = gk → x.kind = kind → x.source = src → x.length = len → x.p0.toNat = p0 → x.p1.toNat = p1 → (∀ y ∈ s.posts, y ≠ x → y.kind ≠ kind) →
    ∃ t g', exec (.inboxEventArrival gk kind src len p0 p1) s = .next t ∧ t.mem = s.mem ∧ t.gangs.find gk = some g' ∧
      g'.inbox = insertEvent (stamped g kind src len p0 p1) g.inbox ∧ t.posts.length + 1 = s.posts.length ∧
      ∀ id c, x.call = some id → s.calls.find id = some c → t.calls.find id = some { c with ready := some 0 }) ∧
  (∀ s gk g src len p0 p1, s.gangs.find gk = some g → placesUsed s gk g < 8188 → len ≤ 16 → g.reduceOf = none →
    ∃ t g', exec (.inboxEventArrival gk 4 src len p0 p1) s = .next t ∧ t.mem = s.mem ∧ t.posts = s.posts ∧ t.gangs.find gk = some g' ∧
      g'.inbox = insertEvent (stamped g 4 src len p0 p1) g.inbox) ∧
  (∀ s fn bytes f l, let lk := bytes / 2 ^ 32 % 2 ^ 32
    s.boot = .ready → hostCut s = false → s.fns.find fn = some f → s.launches.find lk = some l → l.fn = fn → l.status ≠ .done → gangOpen s lk l (bytes % 2 ^ 32) = true →
    exec (.hostEventStore fn bytes) s = .next { s with posts := s.posts ++ [⟨gangKey lk (bytes % 2 ^ 32), 2, bytes / 2 ^ 64 % 2 ^ 32, 16,
      BitVec.ofNat 64 (bytes / 2 ^ 128), BitVec.ofNat 64 (bytes / 2 ^ 192), none⟩] }) ∧
  (∀ s fn bytes, let lk := bytes / 2 ^ 32 % 2 ^ 32
    s.boot = .ready → hostCut s = false → (∀ l, s.launches.find lk = some l → l.fn ≠ fn ∨ l.status = .done ∨ gangOpen s lk l (bytes % 2 ^ 32) = false) →
    exec (.hostEventStore fn bytes) s = .next (s.setFn fn fun f => { f with discarded := f.discarded + 1 })) ∧
  (∀ s fn bytes, s.boot ≠ .ready ∨ hostCut s = true → exec (.hostEventStore fn bytes) s = .next s) ∧
  (∀ s i n g, s.notices[i]? = some n → n.hold = true → (∀ m ∈ s.notices.take i, m.target ≠ n.target) → s.gangs.find n.target = some g →
    g.status = .resident → ∃ t, exec (.holdNotice (.here i)) s = .next t ∧ t.notices = s.notices.eraseIdx i ∧ t.mem = s.mem ∧
      ∃ g', t.gangs.find n.target = some g' ∧ ∀ k, g'.timers.find k = (g.timers.find k).map fun tm => match tm with
        | .armed d (some p) => if p = n.source % 65536 ∧ launchOfGang n.source = launchOfGang n.target then .held (d - g.vt / 5) p else tm
        | _ => tm) ∧
  (∀ s i n g, s.notices[i]? = some n → n.hold = false → (∀ m ∈ s.notices.take i, m.target ≠ n.target) → s.gangs.find n.target = some g →
    g.status = .resident → ∃ t, exec (.resumeNotice (.here i)) s = .next t ∧ t.notices = s.notices.eraseIdx i ∧ t.mem = s.mem ∧
      ∃ g', t.gangs.find n.target = some g' ∧ ∀ k, g'.timers.find k = (g.timers.find k).map fun tm => match tm with
        | .held r p => if p = n.source % 65536 ∧ launchOfGang n.source = launchOfGang n.target then .armed (g.vt / 5 + r) (some p) else tm
        | _ => tm) ∧
  (∀ s hold gang idx g l, s.gangs.find gang = some g → s.launches.find (launchOfGang gang) = some l → g.status = .resident → idx < l.gangs → idx < l.placed →
    (∀ h, s.gangs.find (gangKey (launchOfGang gang) idx) = some h → Config.dies ≤ dieOfQuad h.quad ∧
      wayCut s (dieOfQuad g.quad) (dieOfQuad h.quad / Config.dies) = false) → g.timerNames idx = true →
    ∃ t, exec (if hold then .holdNotice (.packed gang idx) else .resumeNotice (.packed gang idx)) s = .next t ∧ t = ({ s with gangs := t.gangs }).wake ∧
      ∃ g', t.gangs.find gang = some g' ∧ ∀ k, g'.timers.find k = (g.timers.find k).map fun tm => match hold, tm with
        | true, .armed d (some p) => if p = idx then .held (d - g.vt / 5) p else tm
        | false, .held r p => if p = idx then .armed (g.vt / 5 + r) (some p) else tm
        | _, _ => tm) ∧
  (∀ s gang rank g r e, peerRank rank = true → s.gangs.find gang = some g → g.status = .resident → g.relay.active = some r → r.waitsFor = some e →
    e.toNat = rank → rank ∉ r.holds → wayCut s (dieOfQuad g.quad) (rankModule (BitVec.ofNat 64 rank)) = false →
      ∃ t, exec (.holdNotice (.peer gang rank)) s = .next t ∧ t = ({ s with gangs := t.gangs }).wake ∧
      t.gangs.find gang = some { g with relay := { g.relay with active := some { r with holds := r.holds ++ [rank] } } }) ∧
  (∀ s gang rank g r, peerRank rank = true → s.gangs.find gang = some g → g.status = .resident → g.relay.active = some r → rank ∈ r.holds →
    wayCut s (dieOfQuad g.quad) (rankModule (BitVec.ofNat 64 rank)) = false →
    (∀ h ∈ r.holds, h < 2 ^ 64) →
    ∃ t, exec (.resumeNotice (.peer gang rank)) s = .next t ∧ t = ({ s with gangs := t.gangs }).wake ∧
      t.gangs.find gang = some { g with relay := { g.relay with active := some { r with holds := r.holds.filter fun h => h != rank } } }) ∧
  (∀ s p x, s.posts = [x] → p x = true → let t := endPosts s p
    t.posts = [] ∧ t.mem = s.mem ∧ (∀ id c, x.call = some id → s.calls.find id = some c → t.calls.find id = some { c with ready := some 2 }) ∧
      ∀ f, x.call = none → s.fns.find (s.fnOf (launchOfGang x.gang)) = some f →
        t.fns.find (s.fnOf (launchOfGang x.gang)) = some { f with discarded := f.discarded + 1 })

/-- R402 to R411, R420, R444: a 64-byte store to the spawn window appends its record as a queued launch while the queue has room, any other store is
counted and discarded, and one to a full queue is held; the head's record is checked once, and a failed check completes the launch with its status;
its dependence makes it ready; each aging step raises its class; of the best class the queues are admitted from in turn, with the seed read and the
ordered bits and snapshot marks set; a head that could not be placed for the delay stops the most recently placed gang of the worst class below its
own. The order of the turns and the start of the delay are the model's reading (log 22); so is status 1 for a portable image under a remapped table
(log 31). -/
def Obligations.QueueEvents : Prop :=
  (∀ s fn f off bytes, s.boot = .ready → hostCut s = false → s.fns.find fn = some f → off % 64 = 0 → off / 64 < 16 → ((f.queues.find (off / 64)).getD []).length < 256 →
    ∃ t f' l, exec (.spawnWindowStore fn off 64 bytes) s = .next t ∧ t.mem = s.mem ∧ t.launches.find s.nextId = some l ∧
      l.fn = fn ∧ l.queue = off / 64 ∧ l.status = .queued ∧ l.checked = false ∧ l.image = bytes % 2 ^ 512 % 2 ^ 16 ∧
      l.gangs = bytes % 2 ^ 512 / 2 ^ 16 % 2 ^ 16 + 1 ∧ l.depval = BitVec.ofNat 64 (bytes % 2 ^ 512 / 2 ^ 384) ∧
      l.compval = BitVec.ofNat 64 (bytes % 2 ^ 512 / 2 ^ 448) ∧ t.fns.find fn = some f' ∧
      (f'.queues.find (off / 64)).getD [] = (f.queues.find (off / 64)).getD [] ++ [s.nextId]) ∧
  (∀ s fn f off size bytes, s.boot = .ready → hostCut s = false → s.fns.find fn = some f → size ≠ 64 ∨ off % 64 ≠ 0 ∨ 16 ≤ off / 64 →
    exec (.spawnWindowStore fn off size bytes) s = .next (s.setFn fn fun f => { f with discarded := f.discarded + 1 })) ∧
  (∀ s fn f off bytes, s.boot = .ready → hostCut s = false → s.fns.find fn = some f → off % 64 = 0 → off / 64 < 16 →
    256 ≤ ((f.queues.find (off / 64)).getD []).length → exec (.spawnWindowStore fn off 64 bytes) s = notNow) ∧
  (∀ s fn off size bytes, s.boot ≠ .ready ∨ hostCut s = true → exec (.spawnWindowStore fn off size bytes) s = .next s) ∧
  (∀ s fn q k l f rest m, Head s fn q k l f rest → l.status = .queued → l.checked = false → checkRecord f l = .ok m →
    exec (.launchHeadCheck fn q) s = .next (s.setLaunch k fun _ => if m.depval = 0 then { m with status := .ready, readyAt := s.rt, fitAt := s.rt } else m)) ∧
  (∀ s fn q k l f rest st, Head s fn q k l f rest → l.fn = fn → l.status = .queued → l.checked = false → checkRecord f l = .error st →
    physExists (timelineAt f l.comp) = true → physExists (timelineAt f l.comp + 127) = true →
    ∃ t, exec (.launchHeadCheck fn q) s = .next t ∧ Finished s t k l f st ∧ BytesKept s t (timelineAt f l.comp) 128) ∧
  (∀ f l, (l.image = 0 ∨ f.images.find l.image = none → checkRecord f l = .error 1) ∧
    ∀ m i, checkRecord f l = .ok m → f.images.find l.image = some i → m.checked = true ∧ m.shape = i ∧ m.need.fitsEmpty = true ∧
      (m.det = true → i.promiseD = true) ∧ (i.portable = true → f.tableReset = true)) ∧
  (∀ s fn q k l f rest, Head s fn q k l f rest → l.status = .queued → l.checked = true → l.depval.toNat ≤ readLE s.mem (timelineAt f l.dep) 8 →
    readLE s.mem (timelineAt f l.dep + 8) 4 = 0 →
    exec (.dependenceMet fn q) s = .next (s.setLaunch k fun l => { l with
      status := .ready, readyAt := s.rt, fitAt := s.rt, given := View.join l.given (sget [] f.signals l.dep) })) ∧
  (∀ s fn q k l f rest, Head s fn q k l f rest → l.fn = fn → l.status = .queued → l.checked = true →
    l.depval.toNat ≤ readLE s.mem (timelineAt f l.dep) 8 → readLE s.mem (timelineAt f l.dep + 8) 4 ≠ 0 →
    physExists (timelineAt f l.comp) = true → physExists (timelineAt f l.comp + 127) = true →
    ∃ t, exec (.dependenceMet fn q) s = .next t ∧ Finished s t k l f 9) ∧
  (∀ s fn q k l f rest, Head s fn q k l f rest → l.status = .ready → 0 < l.cls → f.agingStep * (l.queue / 4 - l.cls + 1) ≤ s.rt - l.readyAt →
    exec (.headAging fn q) s = .next (s.setLaunch k fun l => { l with cls := l.cls - 1 })) ∧
  (∀ s fn q k l f rest, Head s fn q k l f rest → l.status = .ready → nextQueue s = some (16 * fn + q) →
    (∀ u, admitLaunch s k l f = some u → exec (.launchAdmit fn q) s = .next { u with admitTurn := sset 0 s.admitTurn l.cls (16 * fn + q + 1) }) ∧
    (admitLaunch s k l f = none → exec (.launchAdmit fn q) s = notNow)) ∧
  (∀ s k l (f : Fn) u, s.launches.find k = some l → admitLaunch s k l f = some u →
    let snaps := if l.replayable = true then writableObjs l else []
    u.mem = (snaps.foldl (snapObj f) ((orderedTargets l).foldl (fun s o => markObj s f 51 true o) s)).mem ∧ u.fns = s.fns ∧ u.admitTurn = s.admitTurn ∧
    ∃ l', u.launches.find k = some l' ∧ l'.status = .admitting ∧ l'.targets = orderedTargets l ∧ l'.snapObjs = snaps ∧
      ((recordFlags l.record).1.testBit 3 = false → l'.seed = 0) ∧ ((recordFlags l.record).1.testBit 3 = true → seedBytes s f l.arg = some l'.seed)) ∧
  (∀ s (f : Fn) k b o a j, descAddr s f o = some a → physExists (a + 8) = true → k < 64 → j < 64 →
    (readLE (markObj s f k b o).mem (a + 8) 8).testBit j = if j = k then b else (readLE s.mem (a + 8) 8).testBit j) ∧
  (∀ s n, nextQueue s = some n → ∃ h ∈ fittingHeads s, h.1 = n ∧ ∀ g ∈ fittingHeads s, h.2.cls ≤ g.2.cls ∧
    (g.2.cls = h.2.cls → let turn := sget 0 s.admitTurn h.2.cls
      (turn ≤ g.1 → turn ≤ n ∧ n ≤ g.1) ∧ (n < turn → n ≤ g.1))) ∧
  (∀ s fn q k l f rest v, Head s fn q k l f rest → l.status = .ready ∨ l.status = .admitting → f.preemptDelay ≤ s.rt - max l.readyAt l.fitAt →
    fitsNow s f k l = false → fitsNow (quietly s) f k l = false → victim s f l.cls = some v →
    exec (.priorityPreemption fn q) s = .next (stopAll s .preemption (stopSet s v))) ∧
  (∀ s (f : Fn) c v, victim s f c = some v → let cls (k : Nat) := ((s.launches.find (launchOfGang k)).map (·.cls)).getD 0
    ∃ g, (v, g) ∈ s.gangs ∧ MayStopFor f g ∧ c < cls v ∧
      ∀ p ∈ s.gangs, MayStopFor f p.2 → c < cls p.1 → cls p.1 < cls v ∨ cls p.1 = cls v ∧ p.2.order ≤ g.order)

/-- R29, R41, R403, R409 to R414, R417, R432: a gang is placed with the state of R29; a stop halts its clock from then on and sends every partner HOLD; a
debugger's halt of a gang that has stopped keeps it halted; once quiesced a gang is saved and keeps its state; resumed, it stands on its new quad with
its clock where it stopped; packed by a die that cannot place it, it arrives suspended on another, and a gang that no quad here can place may leave
for another module, by a way that has not failed; retired, it is gone, and lock bits that its exited threads held are reported. A HOLD and a resume
serve a reduce kernel too. The codes of stops and reports (log 25), the stops by a debugger and the dies from 4 up (log 24) are the model's own. -/
def Obligations.GangEvents : Prop :=
  (∀ s lk l f quad cores, s.launches.find lk = some l → s.fnFor lk = some f → l.status = .admitting ∨ l.status = .running → l.fatal = none →
    l.placed < l.gangs → l.cohort = false → l.shape.teams ≤ 4 → 0 < l.waves → l.waves ≤ 64 → (launchQuads s f l).contains quad = true →
    roomOn s f lk l quad cores l.needs = true → (∀ core ∈ cores, groupsOn s core = []) →
    (∀ p ∈ s.groups, gangOfTeam (teamOfGroup p.1) ≠ gangKey lk l.placed) → (∀ p ∈ s.teams, gangOfTeam p.1 ≠ gangKey lk l.placed) →
    s.debugged.contains lk = false ∨ s.started.contains lk = true →
    ∃ t l', exec (.gangPlace lk l.placed quad cores) s = .next t ∧ t.mem = s.mem ∧ Placed t l (gangKey lk l.placed) quad cores ∧
      t.launches.find lk = some l' ∧ l'.status = .running ∧ l'.placed = l.placed + 1 ∧
      (l.placed = 0 → l.replays = 0 → l'.origins = originsOf s f l) ∧
      ∀ f', t.fns.find l.fn = some f' → ∀ q ks, f'.queues.find q = some ks → lk ∉ ks) ∧
  (∀ s gk g l why, s.gangs.find gk = some g → s.launches.find (launchOfGang gk) = some l → l.cohort = false → g.status = .resident → g.reduceOf = none →
    why ∈ [0, 1, 3, 4] → (why = 0 → preempted s gk = true) → (why = 4 → g.halted = false) →
    ∃ t, exec (.gangStop gk why) s = .next t ∧ t = { s with gangs := t.gangs, notices := t.notices, teams := t.teams } ∧
      t.gangs.find gk = some { g with
        status := .quiescing, stopAt := s.now, halted := g.halted || decide (3 ≤ why), kept := g.kept || decide (why = 3)
        stopWhy := if why = 0 then .preemption else if why = 1 then .migration else if why = 3 then .step else .debugger } ∧
      (∀ k, t.teams.find k = (s.teams.find k).map fun tm => if gangOfTeam k = gk then
        { tm with macros := tm.macros.mapVals fun _ m =>
          { m with queue := m.queue.zipIdx.map fun q => { q.1 with last := decide (q.2 < m.mustRun) } } } else tm) ∧
      (∀ k, k ≠ gk → t.gangs.find k = s.gangs.find k) ∧ (∀ p ∈ t.gangs, partner t gk p.1 p.2 = true → ⟨true, gk, p.1, s.now⟩ ∈ t.notices) ∧
      ∀ n ∈ t.notices, n ∈ s.notices ∨ n.hold = true ∧ n.source = gk ∧ n.sent = s.now) ∧
  (∀ s gk g l, s.gangs.find gk = some g → s.launches.find (launchOfGang gk) = some l → l.cohort = false → g.status = .suspended ∨ g.status = .quiescing →
    g.reduceOf = none → g.halted = false → exec (.gangStop gk 4) s = .next (s.setGang gk fun g => { g with halted := true })) ∧
  (∀ s gk g l id c, s.gangs.find gk = some g → s.launches.find (launchOfGang gk) = some l → l.cohort = false ∨ g.reduceOf.isSome = true →
    g.status = .resident → g.holdUntil = none → holdCall s gk = some (id, c) →
    ∃ t g', exec (.gangStop gk 5) s = .next t ∧ t.mem = s.mem ∧ t.gangs.find gk = some g' ∧ g'.status = .quiescing ∧
      g'.stopWhy = .hold ∧ g'.quad = g.quad ∧ g'.kept = true ∧ g'.holdUntil = some (s.now + 5 * (c.args.getD 0 0).toNat, id)) ∧
  (∀ s gk gk2 g l, s.gangs.find gk = some g → s.launches.find (launchOfGang gk) = some l → l.det = true → l.cohort = false → g.status = .resident →
    g.reduceOf = none → launchOfGang gk2 = launchOfGang gk →
    (∃ h, s.gangs.find gk2 = some h ∧ h.status = .suspended ∧ h.holdUntil = none ∧ h.kept = false) ∨
      (s.gangs.find gk2 = none ∧ l.placed ≤ gk2 % 131072 ∧ gk2 % 131072 < l.gangs) →
    g.slice + 100000 ≤ s.rt → ∃ t, exec (.timeSliceExpiry gk gk2) s = .next t ∧ t = { s with gangs := t.gangs, notices := t.notices, teams := t.teams } ∧
      t.gangs.find gk = some { g with status := .quiescing, stopAt := s.now, stopWhy := .slice, heir := some gk2 }) ∧
  (∀ s gk, let ks := stopSet s gk
    gk ∈ ks → (∃ g, s.gangs.find gk = some g ∧ g.status = .quiescing) →
    (∀ k ∈ ks, ∃ g, s.gangs.find k = some g ∧ (g.status = .suspended ∨ g.status = .quiescing ∧ quiesced s k g = true)) →
    exec (.gangSaved gk) s = .next { s with
      gangs := s.gangs.mapVals fun k g => if k ∈ ks then { g with status := .suspended } else g
      teams := s.teams.mapVals fun k tm => if gangOfTeam k ∈ ks ∧ (s.gangs.find (gangOfTeam k)).any (fun g => g.status == .quiescing) = true then
        { tm with board := [], boardLeft := tm.board } else tm }) ∧
  (∀ s gk g l f quad cores u, let lk := launchOfGang gk
    s.gangs.find gk = some g → s.launches.find lk = some l → s.fnFor lk = some f → l.cohort = false ∨ g.reduceOf.isSome = true → l.fatal = none →
    g.status = .suspended → (∀ t id, g.holdUntil = some (t, id) → t ≤ s.now) → debugHeld s lk g = false → g.heir = none →
    g.relay.active = none ∨ runsOnDie (unreserved s [gk]) (dieOfQuad quad) < 64 →
    (g.kept = true → quad = g.quad ∧ cores = ownCores s gk) → (g.kept = false → (launchQuads s f l).contains quad = true ∧
      roomOn (unreserved s [gk]) f lk l quad cores (savedNeeds s l gk) = true) → restart s gk quad cores = some u →
    exec (.gangResume gk quad ⟨cores, []⟩) s = .next u ∧ u.mem = s.mem ∧ u.waves = s.waves ∧ u.threads = s.threads ∧ (∃ g', u.gangs.find gk = some g' ∧
      g'.status = .resident ∧ g'.quad = quad ∧ g'.vt = g.vt ∧ g'.timers = g.timers ∧ g'.inbox = g.inbox ∧ g'.kept = false ∧ g'.holdUntil = none) ∧
    (g.reduceOf = none → ∃ l', u.launches.find lk = some l' ∧ l'.stops = sset 0 l.stops (gk % 65536)
      (sget 0 l.stops (gk % 65536) + (s.now / 5 - g.stopAt / 5)))) ∧
  (∀ s gk die g l f, let ks := stopSet s gk
    let lk := launchOfGang gk
    let on (d : Nat) : List Nat := f.quads.filter fun q => dieOfQuad q == d
    s.gangs.find gk = some g → s.launches.find lk = some l → s.fnFor lk = some f → dieOfQuad g.quad ≠ die → l.span ≠ 0 →
    (∀ k ∈ ks, ∃ h, s.gangs.find k = some h ∧ h.status = .suspended ∧ h.holdUntil = none ∧ h.kept = false ∧ debugHeld s lk h = false) →
    seatsFor f lk l (on (dieOfQuad g.quad)) ks ks s = none →
    (die < Config.dies → (seatsFor f lk l (on die) ks ks s).isSome = true → exec (.gangPack gk die) s =
      .next { s with gangs := s.gangs.mapVals fun k g => if k ∈ ks then { g with status := .moving, quad := (on die).headD g.quad } else g }) ∧
    (l.span = 2 → Config.dies ≤ die → (∀ k ∈ ks, ∀ h, s.gangs.find k = some h → wayCut s (dieOfQuad h.quad) (die / Config.dies) = false) →
      exec (.gangPack gk die) s =
      .next { s with gangs := s.gangs.mapVals fun k g => if k ∈ ks then { g with status := .moving, quad := die * Config.quadsPerDie } else g })) ∧
  (∀ s gk die l f, s.gangs.find gk = none → s.launches.find (launchOfGang gk) = some l → s.fnFor (launchOfGang gk) = some f → gk % 131072 = l.placed →
    l.status = .admitting ∨ l.status = .running → l.fatal = none → l.placed < l.gangs → l.cohort = false → l.span = 2 → Config.dies ≤ die →
    wayCut s linkDie (die / Config.dies) = false →
    fitsNow s f (launchOfGang gk) l = false → ∃ t l', exec (.gangPack gk die) s = .next t ∧ t.mem = s.mem ∧
      (∃ g, t.gangs.find gk = some g ∧ g.status = .moving ∧ g.quad = die * Config.quadsPerDie) ∧
      t.launches.find (launchOfGang gk) = some l' ∧ l'.placed = l.placed + 1) ∧
  (∀ s gk, gk ∈ stopSet s gk → (∀ k ∈ stopSet s gk, ∃ g, s.gangs.find k = some g ∧ g.status = .moving ∧ g.quad < Config.quads) →
    exec (.gangMigrateAccept gk) s = .next { s with gangs := s.gangs.mapVals fun k g => if k ∈ stopSet s gk then { g with status := .suspended } else g }) ∧
  (∀ s gk g l, s.gangs.find gk = some g → retirable s gk g = true → s.launches.find (launchOfGang gk) = some l → l.fatal = none → g.reduceOf = none →
    (∀ tk tm, gangOfTeam tk = gk → s.teams.find tk = some tm → tm.buffer = []) → ∃ t l', exec (.gangRetire gk) s = .next t ∧ t.mem = s.mem ∧
      (∀ k, t.gangs.find k = if k = gk then none else s.gangs.find k) ∧ (∀ k, gangOfTeam k = gk → t.teams.find k = none) ∧
      t.launches.find (launchOfGang gk) = some l' ∧ l'.retired = l.retired + 1 ∧
      t.reports = if orphansOf s gk = 0 then s.reports else (5, orphansOf s gk) :: s.reports)

/-- R270, R272, R392, R406, R420, R422 to R424: a launch all of whose gangs have retired is Done with status 0; by a fatal record it ends with status 6
and its gangs go; a folded word starts from its value at the first dispatch, also where another launch's completion has cleared its object's ordered
bit since; an uncorrectable error of a replayable launch replays it from its first gang, three times at most, and one of a launch no longer replayable
ends it with 8 (log 31); a function reset ends every launch of the function with status 7, and its pending calls with 0x17. The codes of reports are
the model's own (log 25), and that closed flows stay closed is its choice (log 23). A peer's closure message comes by a way that has not failed. -/
def Obligations.LaunchEnds : Prop :=
  (∀ s lk l f, s.launches.find lk = some l → s.fnFor lk = some f → l.status = .running → l.fatal = none → l.consumed = false →
    (∀ p ∈ s.traps, p.2.launch = lk → p.2.done = true) → l.gangs ≤ l.retired → Plain l →
    physExists (timelineAt f l.comp) = true → physExists (timelineAt f l.comp + 127) = true →
    ∃ t, exec (.launchComplete lk) s = .next t ∧ Finished s t lk l f 0 ∧ BytesKept s t (timelineAt f l.comp) 128) ∧
  (∀ s lk l f r, s.launches.find lk = some l → s.fnFor lk = some f → l.status = .running ∨ l.status = .admitting → l.fatal = some r →
    r.cause ≠ .uncorrectable → Plain l → physExists (timelineAt f l.comp) = true → physExists (timelineAt f l.comp + 127) = true →
    ∃ t, exec (.launchComplete lk) s = .next t ∧ Finished s t lk l f 6 ∧ BytesKept s t (timelineAt f l.comp) 128 ∧ NoGangs t lk ∧
      readLE t.mem (timelineAt f l.comp + 16) 1 = r.cause.code) ∧
  (∀ (f : Fn) l g tm p s v u i,
    translate s.mem f p.obj p.off true = .ok i ∨ (∀ j, translate s.mem f p.obj p.off true ≠ .ok j) ∧ translate s.mem f p.obj p.off false = .ok i →
      foldWords f l [(g, tm, p)] [(p.obj, p.off)] s v = some u →
    readLE u.1.mem i.phys 4 = (foldWord (BitVec.ofNat 32 (originWord s l p.obj p.off i.phys)) [p]).toNat ∧ BytesKept s u.1 i.phys 4 ∧
    u.2 = View.join v (View.ofWrite (i.kind == 2) (s.writeNo + 1) i.phys 4)) ∧
  (∀ s lk l f, s.launches.find lk = some l → s.fnFor lk = some f → l.status = .running → l.fatal = none → l.consumed = true → l.replayable = true → l.errors < 3 →
    Plain l → (recordFlags l.record).1.testBit 3 = false → orderedTargets l = [] → writableObjs l = [] →
    ∃ t l', exec (.launchReplay lk) s = .next t ∧ t.mem = s.mem ∧ NoGangs t lk ∧ t.launches.find lk = some l' ∧ l'.status = .admitting ∧
      l'.replays = l.replays + 1 ∧ l'.errors = l.errors + 1 ∧ l'.placed = 0 ∧ l'.retired = 0 ∧ l'.consumed = false ∧ l'.timelines = []) ∧
  (∀ s lk l f, s.launches.find lk = some l → s.fnFor lk = some f → l.status = .running → l.fatal = none → l.consumed = true →
    l.errors = 3 ∨ l.replayable = false →
    (∀ p ∈ s.traps, p.2.launch = lk → p.2.done = true) → Plain l → physExists (timelineAt f l.comp) = true → physExists (timelineAt f l.comp + 127) = true →
    ∃ t, exec (.launchComplete lk) s = .next t ∧ Finished s t lk l f 8 ∧ NoGangs t lk) ∧
  (∀ s fn f, fn ≠ 0 → s.fns.find fn = some f → s.launches.wf = true →
    (∀ p ∈ openLaunches s fn, Plain p.2 ∧ physExists (timelineAt f p.2.comp) = true ∧ physExists (timelineAt f p.2.comp + 127) = true) →
    ∃ t, exec (.functionReset fn) s = .next t ∧ (∃ f', t.fns.find fn = some f' ∧ f'.shut = true) ∧
      (∀ p ∈ openLaunches s fn, let a := timelineAt f p.2.comp
        p.2.compval.toNat ≤ readLE t.mem a 8 ∧ readLE t.mem (a + 8) 4 = 7 ∧ (∃ l', t.launches.find p.1 = some l' ∧ l'.status = .done) ∧
        ∃ f', t.fns.find fn = some f' ∧ ∀ q ks, f'.queues.find q = some ks → p.1 ∉ ks) ∧
      t.reports = ((openLaunches s fn).map fun p => (2, p.1)).reverse ++ (6, fn) :: (endCalls s fn).reports ∧
      ∀ j g, t.gangs.find j = some g → s.fnOf (launchOfGang j) ≠ fn) ∧
  (∀ s fn id c, (id, c) ∈ s.calls → s.fnOf (launchOfGang (gangOfTeam (teamOfGroup c.group))) = fn → (0x17, id) ∈ (endCalls s fn).reports) ∧
  (∀ s peer fn, wayCut s linkDie peer = false → (∀ gk x, rctx s gk = some x → x.fnId = fn → ∀ e ∈ x.r.ranks, rankModule e ≠ peer) →
    ∃ t, exec (.flowClosed peer fn) s = .next t ∧ t.mem = s.mem ∧ t.gangs = s.gangs ∧ ∀ f, s.fns.find fn = some f →
      ∃ f', t.fns.find fn = some f' ∧ peer ∈ f'.closedFlows) ∧
  (∀ s peer fn gk g x j, wayCut s linkDie peer = false → s.gangs = [(gk, g)] → wayCut s (dieOfQuad g.quad) peer = false → rctx s gk = some x → x.fnId = fn →
    (∃ e ∈ x.r.ranks, rankModule e = peer) → StandsIn s x.tk x.r.low j →
    (∃ g, s.groups.find j = some g) → ∃ t, exec (.flowClosed peer fn) s = .next t ∧ RunEnds s t gk x 5 ∧ EngineTrap s t j .peerReset x.r.info)

/-- R98, R404, R415, R421, R440 to R445, R447, R450: the boot's transitions and what each reset leaves (the flash and the fuses); a settings write makes
or changes its function and is measured; the power manager slows the quads of the worst class first and restores them in that order, once no die is
hot; over-temperature holds the hottest die's quads at divider 8 until it has cooled; above 115 °C everything stops; the management window shows the
feature list. The model's own choices in it: settings' numbers, which of them are partition settings, and their digest, extended where they have
changed (log 5); reset values of links, dividers and sensors, the error counts at 0, no sample taken and the one started service core after a cold
reset (log 4), its measurements at 0 (log 5), memory's bytes at 0 and the keys from 2^64 on kept (log 3); what the power sensor reads with no quad
left to slow, and that a reading finds its row's action in force (log 4); the codes of sensors, reports and window reads, the power sample's rates and
what a module reset does outside Ready (log 25); and which quads are the hottest (log 31). -/
def Obligations.ModuleEvents : Prop :=
  (∀ s, s.boot = .rom → exec .bootRomStart s = .next { s with boot := .checking s.activeSlot }) ∧
  (∀ s n i, s.boot = .checking n → s.slots.find n = some i → exec .bootRomStart s = .next
    (if i.magicOk = true ∧ i.body.length = i.size ∧ i.digest = Config.sha512 i.body ∧ Config.firmwareSigOk i.head i.sig = true ∧ s.fusedSvn ≤ i.svn then
      { s with boot := .verified, runningSlot := n } else { s with boot := .fallback })) ∧
  (∀ s, s.boot = .fallback → exec .bootRomStart s = .next (if slotOk s (1 - s.activeSlot) = true then
      { s with boot := .verified, runningSlot := 1 - s.activeSlot } else { s with boot := .recovery, fns := [(0, Fn.physical)] })) ∧
  (∀ s i, s.boot = .verified → s.slots.find s.runningSlot = some i → exec .bootRomStart s = .next
    { s with boot := .initialising, runningSvn := i.svn, m0 := extend s.m0 i.digest, serviceCores := List.range 32 }) ∧
  (∀ s, s.boot = .initialising → exec .trainingDone s = .next { s with boot := .ready, colours := [], valid := [], fns := [(0, Fn.physical)] }) ∧
  (∀ s, ∃ t, exec .coldReset s = .next t ∧ t.boot = .rom ∧ t.now = 0 ∧ t.gangs = [] ∧ t.launches = [] ∧ t.fns = [] ∧ t.groups = [] ∧ t.accesses = [] ∧
    t.traps = [] ∧ t.failed = [] ∧ t.dividers = [] ∧ t.serviceCores = [0] ∧ t.errorCounts = [] ∧ t.sampled = 0 ∧ t.m0 = 0 ∧ t.m1 = 0 ∧ t.slots = s.slots ∧
      t.activeSlot = s.activeSlot ∧ t.fusedSvn = s.fusedSvn ∧
    ∀ a, readByte t.mem a = if 2 ^ 64 ≤ a then readByte s.mem a else 0) ∧
  (∀ s, s.boot ≠ .ready → exec .moduleReset s = .next s) ∧
  (∀ s, s.boot = .ready → (∀ fn, openLaunches s fn = []) → exec .moduleReset s = exec .coldReset s) ∧
  (∀ s fn n v f, s.boot = .ready → fn ≤ 64 → n ∉ [3, 12, 13] → applySetting ((s.fns.find fn).getD Fn.init) n v = some f →
    exec (.settingWrite fn n v) s = .next { s with
      fns := s.fns.put fn f, m1 := noteSettings s (s.fns.put fn f) }) ∧
  (∀ s fns, noteSettings s fns = if partition fns = partition s.fns then s.m1 else extend s.m1 (Config.sha512 ((partition fns).map (BitVec.ofNat 8)))) ∧
  (∀ (f : Fn) v w x, { f with dirRoot := v, images := w, caps := x }.settings = f.settings) ∧
  (∀ s fn n v, s.boot ≠ .ready → exec (.settingWrite fn n v) s = .next s) ∧
  (∀ s fn v f, s.boot = .ready → fn ≤ 64 → applySetting ((s.fns.find fn).getD Fn.init) 13 v = some f →
    freshObjs s ((s.fns.find fn).getD Fn.init) (imageOf (v / 2 ^ 64)) = true →
    f.images.find (v % 2 ^ 64) = some (imageOf (v / 2 ^ 64)) ∧
    exec (.settingWrite fn 13 v) s = .next
      (mapImage { s with fns := s.fns.put fn f, m1 := noteSettings s (s.fns.put fn f) } f (imageOf (v / 2 ^ 64)))) ∧
  (∀ s fn lk op l, s.boot = .ready → fn ≤ 64 → op < 4 → s.launches.find lk = some l → l.fn = fn →
    exec (.settingWrite fn 12 (4 * lk + op)) s = .next (debug s lk op).wake) ∧
  (∀ s fn v f, s.boot = .ready → fn ≤ 64 → f = { (s.fns.find fn).getD Fn.init with quads := (List.range Config.quads).filter fun k => v.testBit k } →
    (∀ gk g, (gk, g) ∈ s.gangs → g.occupies = true → (s.fnOf (launchOfGang gk) = fn ↔ g.quad ∈ f.quads)) →
    ∃ t, exec (.settingWrite fn 3 v) s = .next t ∧ t.fns.find fn = some f ∧
      (∀ k g, k ≠ fn → s.fns.find k = some g → ∃ g', t.fns.find k = some g' ∧ ∀ q, q ∈ g'.quads ↔ q ∈ g.quads ∧ q ∉ f.quads) ∧ t.mem = s.mem) ∧
  (∀ f v, (applySetting f 0 v = if v ∈ [64, 128, 256, 512, 1024] then some { f with ageLimit := v } else none) ∧
    (applySetting f 1 v = if 1000 ≤ v ∧ v ≤ 10000000 then some { f with preemptDelay := v } else none) ∧
    (applySetting f 2 v = if 10000 ≤ v ∧ v ≤ 100000000 then some { f with agingStep := v } else none) ∧
    applySetting f 6 v = some { f with dirRoot := v } ∧ applySetting f 10 v = some { f with timelineBase := v } ∧
    (∀ h k, 0 < h → h < 65536 → applySetting f 11 (h + 65536 * (k : Cap).bits.toNat + (if k.valid then 2 ^ 144 else 0)) =
      if k.wellMade = true then some { f with caps := f.caps.put h k } else none)) ∧
  (∀ k : Cap, k.wellMade = true → (k.valid = true → k.object ≠ 0) ∧ k.bits.toNat % 16 = 0 ∧ k.rights < 64) ∧
  (∀ s rates ds, let w := projectedDraw rates
    s.sampled ≤ s.now / 5 / 10000 → dividersOk ds = true → (if 2400 < w then slows s ds else restores s ds) = true →
    ∃ t, exec (.powerSample rates ds) s = .next t ∧
    t = { s with dividers := t.dividers, sensors := t.sensors, sampled := s.now / 5 / 10000 + 1 } ∧ sget 0 t.sensors 0 = min w (if ds = [] then 2880 else 2400) ∧
    (∀ q d, ds = [(q, d)] → sget 1 t.dividers q = (if sget .cool s.thermal (q / 40) = .hot then 8 else d)) ∧
    ∀ q, (∀ p ∈ ds, p.1 ≠ q) → sget 1 t.dividers q = sget 1 s.dividers q) ∧
  (∀ s rates ds, s.now / 5 / 10000 < s.sampled → exec (.powerSample rates ds) s = notNow) ∧
  (∀ x₁ x₂ x₃ x₄ x₅, projectedDraw [x₁, x₂, x₃, x₄, x₅] = 600 * x₁ / 100 + 350 * x₂ / 100 + 600 * x₃ / 100 + 200 * x₄ / 100 + 450 * x₅ / 100) ∧
  (∀ s ds, slows s ds = true → (ds = [] → ∀ q c, (q, c) ∈ powerQuads s → s.divider q = 8) ∧ ∀ p ∈ ds, s.divider p.1 < p.2 ∧
    ∃ c, (p.1, c) ∈ powerQuads s ∧ ∀ q d, (q, d) ∈ powerQuads s → c < d → 1 < (setDividers s ds).divider q) ∧
  (∀ s ds, restores s ds = true → ∀ p ∈ ds, (∀ die, die < 4 → sget 0 s.sensors (16 + die) < 100 ∧ sget .cool s.thermal die = .cool) ∧ p.2 < s.divider p.1 ∧
    ∀ c, (p.1, c) ∈ powerQuads s →
    ∀ q d, (q, d) ∈ powerQuads s → c < d → (setDividers s ds).divider q = 1) ∧
  (∀ s die temp ds, hottest s die temp = true → 100 ≤ temp → temp < 105 → sget .cool s.thermal die = .cool ∨ 103 ≤ temp → dividersOk ds = true → cools s die ds = true →
    ∃ t, exec (.thermalThrottle die temp ds) s = .next t ∧ t = { s with dividers := t.dividers, sensors := t.sensors } ∧ sget 0 t.sensors (16 + die) = temp) ∧
  (∀ s die temp, hottest s die temp = true → 105 ≤ temp → temp ≤ 115 → sget .cool s.thermal die = .cool → ∃ t, exec (.overTemperature die temp) s = .next t ∧
    t = { s with dividers := t.dividers, sensors := t.sensors, thermal := t.thermal, reports := (1, die) :: s.reports } ∧ sget .cool t.thermal die = .hot ∧
    (∀ q, q / 40 = die → sget 1 t.dividers q = 8) ∧ ∀ q, q / 40 ≠ die → sget 1 t.dividers q = sget 1 s.dividers q) ∧
  (∀ s t, rowHolds s t = true → (∀ d, d < 4 → sget 0 t.sensors (16 + d) ≤ topTemp t) ∧ (topTemp t < 100 ∨ (topTemp t < 105 ∧ 100 ≤ topTemp s) ∨
    topTemp t ≤ 115 ∧ ∃ d, d < 4 ∧ sget 0 t.sensors (16 + d) = topTemp t ∧ sget .cool t.thermal d = .hot)) ∧
  (∀ s die temp, sget .cool s.thermal die = .hot → temp < 103 →
    rowHolds s { s with sensors := sset 0 s.sensors (16 + die) temp, thermal := sset .cool s.thermal die .cool } = true → ∃ t, exec (.overTemperatureClear die temp) s = .next t ∧
    t = { s with sensors := t.sensors, thermal := t.thermal } ∧ sget .cool t.thermal die = .cool) ∧
  (∀ s die temp, die < 4 → 115 < temp → ∃ t, exec (.thermalTrip die temp) s = .next t ∧ t = { s with sensors := t.sensors, boot := .tripped }) ∧
  (∀ s object off size op data, op.op = 3 → hostCut s = false → exec (.hostMemoryAccess 0 object off size op data) s = .next (readWindow s off size)) ∧
  (∀ s fn object off size op data, s.boot ≠ .ready → op.op ≠ 3 ∨ fn ≠ 0 → exec (.hostMemoryAccess fn object off size op data) s = .next
    (if op.op = 0 ∧ hostCut s = false then { s with replies := ((bytesOf 0 size).map (BitVec.ofNat 8)) :: s.replies } else s)) ∧
  (∀ s off size, ∃ bs, (readWindow s off size).replies = bs :: s.replies ∧ bs.length = size ∧
    ∀ i, i < size → off + i < 0x48 → bs[i]? = some (featureByte (off + i))) ∧
  (∀ s, ∀ p ∈ [(0x000, 0x0120080401010001), (0x008, 0x0000000000400428), (0x010, 0x0000000101010005), (0x020, 0x0000000002010042), (0x040, 0)],
    (readWindow s p.1 8).replies = ((bytesOf p.2 8).map (BitVec.ofNat 8)) :: s.replies) ∧
  [featureNext 0 0x0120080401010001, featureNext 0x10 0x0000000101010005, featureNext 0x20 0x0000000002010042, featureNext 0x40 0] =
    [some 0x10, some 0x20, some 0x40, none]

/-- R29, R90 to R98, R404, R444 to R449: a portable image is checked, finalised and placed under its handle, or the load answers the status of its first
failing check; a mark in a table entry changes one bit; a decode table is replaced whole or not at all; an update fills the other slot and switches
only to a valid image; commit raises the fused minimum; management requests are answered in Ready, and before it leave everything as it is; an error
in memory that cannot be corrected counts for its stack as it arises. The model's own choices in it: the bytes of replies, the codes of reports and
sensors and when management is served (log 25), that a handle in use succeeds and the order of statuses (log 26), and when an error counts (log 4). -/
def Obligations.FirmwareAndManagementEvents : Prop :=
  (∀ s fn f src len h co so, s.fns.find fn = some f → s.boot = .ready → 1 ≤ h → h ≤ 65535 →
    (f.tableReset = false → exec (.zpfLoad fn src len h co so) s = .next { s with reports := (3, 7) :: s.reports }) ∧
    (f.tableReset = true → (f.images.find h).isSome = true → exec (.zpfLoad fn src len h co so) s = .next { s with reports := (3, 0) :: s.reports }) ∧
    (f.tableReset = true → f.images.find h = none → physExists src = true → len = 0 ∨ physExists (src + (len - 1)) = true →
      (∀ e, zHeader s.mem src len = .error e → exec (.zpfLoad fn src len h co so) s = .next { s with reports := (3, e.code) :: s.reports }) ∧
      (∀ z e, zHeader s.mem src len = .ok z → finalise z = .error e → exec (.zpfLoad fn src len h co so) s = .next { s with reports := (3, e.code) :: s.reports }) ∧
      ∀ z n u v, zHeader s.mem src len = .ok z → finalise z = .ok n → freshObjs s f (nativeImage z n co so) = true →
        loadBytes f co s 0 (n.words.flatMap fun w => bytesOf w 4) = some u →
        loadSections f src u so z.sections = some v → let i := nativeImage z n co so
        ∃ t f', exec (.zpfLoad fn src len h co so) s = .next t ∧ t.mem = (mapImage v f i).mem ∧ t.colours = (mapImage v f i).colours ∧
          t.reports = (3, 0) :: v.reports ∧ (∀ g, v.fns.find fn = some g → t.fns.find fn = some f' ∧ f'.images.find h = some i ∧
            (∀ k, k ≠ h → f'.images.find k = g.images.find k) ∧ (∀ k c, g.caps.find k = some c → f'.caps.find k = some c) ∧
            ∃ d, f'.measure = extend g.measure d))) ∧
  (∀ (s : State) a n, a % 65536 = 0 → (s.clearFrame a).mem = s.mem ∧
    (sget 0 (s.clearFrame a).colours n = if a / 32 ≤ n ∧ n < a / 32 + 2048 then 0 else sget 0 s.colours n) ∧
    sget false (s.clearFrame a).valid n = if a / 16 ≤ n ∧ n < a / 16 + 4096 then false else sget false s.valid n) ∧
  (∀ (s : State) a k b, physExists a = true → k < 64 → BytesKept s (setMemBit s a k b) a 8 ∧
    ∀ j, j < 64 → (readLE (setMemBit s a k b).mem a 8).testBit j = if j = k then b else (readLE s.mem a 8).testBit j) ∧
  (∀ z n, finalise z = .ok n → (z.flags.testBit 0 = true → n.promiseD = z.flags.testBit 1)) ∧
  (∀ s fn f es, s.fns.find fn = some f → s.boot = .ready → es.length = 2048 → (∀ e ∈ es, e < 65536) →
    ((∃ p ∈ s.gangs, s.fnOf (launchOfGang p.1) = fn) → exec (.decodeTableLoad fn es) s = .next { s with reports := (4, 1) :: s.reports }) ∧
    ((∀ p ∈ s.gangs, s.fnOf (launchOfGang p.1) ≠ fn) → (∃ e ∈ es, entryOk e = false) →
      exec (.decodeTableLoad fn es) s = .next { s with reports := (4, 2) :: s.reports }) ∧
    ((∀ p ∈ s.gangs, s.fnOf (launchOfGang p.1) ≠ fn) → (∀ e ∈ es, entryOk e = true) → ∃ t f', exec (.decodeTableLoad fn es) s = .next t ∧
      t.reports = (4, 0) :: s.reports ∧ t.fns.find fn = some f' ∧ (∀ k, k < 2048 → tableEntry f' k = es.getD k 0) ∧ (∀ k, k ≠ fn → t.fns.find k = s.fns.find k) ∧
      (∃ d, f'.measure = extend f.measure d) ∧ t.mem = s.mem)) ∧
  (∀ s image, s.boot = .ready ∨ s.boot = .recovery → image.length ≤ 67108864 → ∃ t, exec (.pldmFirmwareUpdate image) s = .next t ∧
    t = { s with slots := t.slots, activeSlot := t.activeSlot } ∧ t.slots.find (1 - s.activeSlot) = some (FwImage.ofBytes image) ∧
    (∀ k, k ≠ 1 - s.activeSlot → t.slots.find k = s.slots.find k) ∧
    t.activeSlot = if (FwImage.ofBytes image).ok s.fusedSvn = true then 1 - s.activeSlot else s.activeSlot) ∧
  (∀ s image, s.boot ≠ .ready → s.boot ≠ .recovery → exec (.pldmFirmwareUpdate image) s = .next s) ∧
  (∀ s, exec .activateCommit s = .next (if s.boot = .ready then { s with fusedSvn := max s.fusedSvn s.runningSvn } else s)) ∧
  (∀ i ∈ [Instr.getVersion, .getCapabilities, .getDigests], ∀ s, s.boot ≠ .ready → exec i s = .next s) ∧
  (∀ s, s.boot = .ready → exec .getVersion s = .next { s with replies := Config.spdmReply 0 :: s.replies } ∧
    exec .getCapabilities s = .next { s with replies := Config.spdmReply 1 :: s.replies } ∧
    (∀ o, exec (.negotiateAlgorithms o) s = .next { s with replies := [BitVec.ofNat 8 (o % 4)] :: s.replies }) ∧
    (∃ r, exec .getDigests s = .next { s with replies := r :: s.replies } ∧ r.length = 64) ∧
    (∀ o n, exec (.getCertificate o n) s = .next { s with replies := ((Config.certificateChain.drop o).take n) :: s.replies }) ∧
    (∀ i n, exec (.getMeasurements i n) s = .next { s with
      replies := (measurementMessage s i n ++ Config.attestSign s.runningSvn (measurementMessage s i n)) :: s.replies }) ∧
    (∀ x y, exec (.pldmPlatformMonitoring 0 x y) s = .next { s with replies := ((bytesOf (sget 0 s.sensors 0) 8).map (BitVec.ofNat 8)) :: s.replies } ∧
      (x < 16 → exec (.pldmPlatformMonitoring 4 x y) s = .next { s with replies := ((bytesOf (sget 0 s.errorCounts x) 8).map (BitVec.ofNat 8)) :: s.replies }) ∧
      exec (.pldmPlatformMonitoring 5 x y) s = .next { s with replies := ((bytesOf (throttledQuads s) 8).map (BitVec.ofNat 8)) :: s.replies }) ∧
    ∀ die y, die < 4 → junctionOk s die y = true → ∃ t, exec (.pldmPlatformMonitoring 1 die y) s = .next t ∧ sget 0 t.sensors (16 + die) = y ∧
      t.replies = ((bytesOf y 8).map (BitVec.ofNat 8)) :: s.replies ∧ t = { s with sensors := t.sensors, replies := t.replies }) ∧
  (measurementsFor 1 = [1] ∧ measurementsFor 2 = [2] ∧ measurementsFor 255 = [1, 2] ++ (List.range 65).map (16 + ·) ∧
    ∀ s, measurement s 1 = some s.m0 ∧ measurement s 2 = some s.m1 ∧
      ∀ fn, fn ≤ 64 → measurement s (16 + fn) = some (((s.fns.find fn).map (·.measure)).getD 0)) ∧
  (∀ s x c k, sget 0 (upset x c s).errorCounts k = sget 0 s.errorCounts k + if c = false ∧ k = 2 * (x * 32 / (96 * 2 ^ 30)) + 1 then 1 else 0)
end

