-- ==== Sys2Proof/Laws/Tab.lean ====
section
/-! SUPPORT. The laws of finite maps: reading after each update, for any list; and that updates keep the canonical form. -/
namespace Sys2Proof.Machine

variable {α : Type}

theorem Tab.find_put (t : Tab α) (k j : Nat) (v : α) : (t.put k v).find j = if j = k then some v else t.find j := by
  induction t with
  | nil => simp only [Tab.put, Tab.find]
  | cons p t ih =>
    obtain ⟨i, u⟩ := p
    unfold Tab.put
    split
    · simp only [Tab.find]
    · split
      · next h => subst h; simp only [Tab.find]; split <;> rfl
      · next h => simp only [Tab.find, ih]; split <;> split <;> first | rfl | omega

/-- What is found stands in the map. -/
theorem Tab.mem_of_find {k : Nat} {v : α} : ∀ {t : Tab α}, t.find k = some v → (k, v) ∈ t
  | (i, u) :: t, h => by
    by_cases e : k = i
    · simp [Tab.find, e] at h; simp [e, h]
    · exact .tail _ (Tab.mem_of_find (by simpa [Tab.find, e] using h))

theorem Tab.find_modify (t : Tab α) (k j : Nat) (f : α → α) : (t.modify k f).find j = if j = k then (t.find j).map f else t.find j := by
  unfold Tab.modify
  induction t with
  | nil => simp [Tab.find]
  | cons p t ih =>
    obtain ⟨i, u⟩ := p
    simp only [List.map_cons]
    by_cases h : i = k
    · subst h
      simp only [if_true, Tab.find, ih]
      split <;> simp_all
    · simp only [h, if_false, Tab.find, ih]
      split
      · next e => subst e; simp [h]
      · rfl

theorem Tab.find_mapVals (t : Tab α) (f : Nat → α → α) (j : Nat) : (t.mapVals f).find j = (t.find j).map (f j) := by
  unfold Tab.mapVals
  induction t with
  | nil => rfl
  | cons p t ih =>
    obtain ⟨i, u⟩ := p
    simp only [List.map_cons, Tab.find, ih]
    split
    · next e => subst e; rfl
    · rfl

theorem Tab.find_del (t : Tab α) (k j : Nat) : (t.del k).find j = if j = k then none else t.find j := by
  unfold Tab.del
  induction t with
  | nil => simp [Tab.find]
  | cons p t ih =>
    obtain ⟨i, u⟩ := p
    by_cases h : i = k
    · subst h
      simp only [List.filter_cons, beq_self_eq_true, Bool.not_true, Bool.false_eq_true, if_false, ih, Tab.find]
      split <;> rfl
    · have hb : (!(i == k)) = true := by simp [h]
      simp only [List.filter_cons, hb, if_true, Tab.find, ih]
      split
      · next e => subst e; simp [h]
      · rfl

theorem sget_sset [DecidableEq α] (d : α) (t : Tab α) (k j : Nat) (v : α) : sget d (sset d t k v) j = if j = k then v else sget d t j := by
  unfold sget sset
  split
  · next h => rw [Tab.find_del]; split <;> simp [h]
  · rw [Tab.find_put]; split <;> simp

/-! ### The canonical form -/

theorem Tab.risingFrom_mono {t : Tab α} {a b : Nat} (h : Tab.risingFrom b t = true) (hab : a ≤ b) : Tab.risingFrom a t = true := by
  cases t with
  | nil => rfl
  | cons p t =>
    obtain ⟨i, u⟩ := p
    simp only [Tab.risingFrom, Bool.and_eq_true, decide_eq_true_eq] at *
    exact ⟨by omega, h.2⟩

theorem Tab.risingFrom_put {t : Tab α} {lo k : Nat} {v : α} (h : Tab.risingFrom lo t = true) (hk : lo ≤ k) :
    Tab.risingFrom lo (t.put k v) = true := by
  induction t generalizing lo with
  | nil => simp [Tab.put, Tab.risingFrom, hk]
  | cons p t ih =>
    obtain ⟨i, u⟩ := p
    simp only [Tab.risingFrom, Bool.and_eq_true, decide_eq_true_eq] at h
    unfold Tab.put
    split
    · next hlt => simp [Tab.risingFrom, hk, h.2]; omega
    · split
      · next _ he => subst he; simp [Tab.risingFrom, hk, h.2]
      · next h1 h2 => simp only [Tab.risingFrom, Bool.and_eq_true, decide_eq_true_eq]; exact ⟨h.1, ih h.2 (by omega)⟩

theorem Tab.risingFrom_filter {t : Tab α} {lo : Nat} (f : Nat × α → Bool) (h : Tab.risingFrom lo t = true) :
    Tab.risingFrom lo (t.filter f) = true := by
  induction t generalizing lo with
  | nil => rfl
  | cons p t ih =>
    obtain ⟨i, u⟩ := p
    simp only [Tab.risingFrom, Bool.and_eq_true, decide_eq_true_eq] at h
    simp only [List.filter_cons]
    split
    · simp only [Tab.risingFrom, Bool.and_eq_true, decide_eq_true_eq]; exact ⟨h.1, ih h.2⟩
    · exact ih (Tab.risingFrom_mono h.2 (by omega))

theorem Tab.mem_put {t : Tab α} {k : Nat} {v : α} {p : Nat × α} (h : p ∈ t.put k v) : p = (k, v) ∨ p ∈ t := by
  induction t with
  | nil => simp [Tab.put] at h; exact .inl h
  | cons q t ih =>
    obtain ⟨i, u⟩ := q
    unfold Tab.put at h
    split at h
    · rcases List.mem_cons.1 h with h | h
      · exact .inl h
      · exact .inr h
    · split at h
      · rcases List.mem_cons.1 h with h | h
        · exact .inl h
        · exact .inr (List.mem_cons_of_mem _ h)
      · rcases List.mem_cons.1 h with h | h
        · exact .inr (h ▸ List.mem_cons_self)
        · exact (ih h).imp id (List.mem_cons_of_mem _)

/-- Writing a map with a default keeps its canonical form. -/
theorem sparseWf_sset [DecidableEq α] {d : α} {t : Tab α} (k : Nat) (v : α) (h : sparseWf d t = true) : sparseWf d (sset d t k v) = true := by
  simp only [sparseWf, Tab.wf, Bool.and_eq_true, List.all_eq_true] at *
  unfold sset
  split
  · exact ⟨Tab.risingFrom_filter _ h.1, fun p hp => h.2 p (List.mem_filter.1 hp).1⟩
  · next hv =>
    refine ⟨Tab.risingFrom_put h.1 (Nat.zero_le _), fun p hp => ?_⟩
    rcases Tab.mem_put hp with rfl | hp
    · simp [hv]
    · exact h.2 p hp

end Sys2Proof.Machine
end

