-- ==== Sys2Proof/Laws/Canonical.lean ====
section
/-! SUPPORT. Memory: every operation keeps its canonical form, and what each byte reads after a write. -/
namespace Sys2Proof.Machine

/-- Reset's memory is in canonical form. -/
theorem reset_memory_wf : Memory.wf State.reset.mem = true := rfl

theorem writeByte_wf {m : List Host.Cell} (a : Nat) (v : Byte) (h : Memory.wf m = true) : Memory.wf (writeByte m a v) = true := sparseWf_sset a v h

theorem writeLE_wf {m : List Host.Cell} (a n v : Nat) (h : Memory.wf m = true) : Memory.wf (writeLE m a n v) = true := by
  induction n generalizing a v with
  | zero => exact h
  | succ n ih => exact writeByte_wf a _ (ih (a + 1) (v / 256))

@[simp] theorem writeMem_mem (s : State) (a n v : Nat) : (s.writeMem a n v).mem = writeLE s.mem a n v := by
  unfold State.writeMem
  split
  · next h => subst h; rfl
  · rfl

theorem writeMem_wf {s : State} (a n v : Nat) (h : Memory.wf s.mem = true) : Memory.wf (s.writeMem a n v).mem = true := by
  rw [writeMem_mem]; exact writeLE_wf a n v h

@[simp] theorem writeAs_mem (s : State) (x : Made) (a n v : Nat) : (s.writeAs x a n v).mem = writeLE s.mem a n v := writeMem_mem s a n v

theorem writeAs_wf {s : State} (x : Made) (a n v : Nat) (h : Memory.wf s.mem = true) : Memory.wf (s.writeAs x a n v).mem = true :=
  writeMem_wf a n v h

theorem agentWrite_wf {s : State} (place : Place) (a n v : Nat) (rel : List Release) (h : Memory.wf s.mem = true) :
    Memory.wf (s.agentWrite place a n v rel).mem = true := writeAs_wf _ a n v h

theorem setMemBit_wf {s : State} (a k : Nat) (b : Bool) (h : Memory.wf s.mem = true) : Memory.wf (setMemBit s a k b).mem = true := by
  simp only [setMemBit]
  generalize (if b then _ else _ : Nat) = w
  split
  · exact h
  · exact writeMem_wf _ _ _ h

theorem markPages_wf (f : Fn) (obj k : Nat) (b : Bool) (n : Nat) {s : State} (h : Memory.wf s.mem = true) :
    Memory.wf (markPages f obj k b n s).mem = true := by
  induction n generalizing s with
  | zero => exact h
  | succ n ih =>
    refine ih ?_
    split
    · split
      · exact setMemBit_wf _ _ _ h
      · exact h
    · exact h

theorem filter_wf {m : List Host.Cell} (p : Host.Cell → Bool) (h : Memory.wf m = true) : Memory.wf (m.filter p) = true := by
  simp only [Memory.wf, sparseWf, Tab.wf, Bool.and_eq_true, List.all_eq_true] at *
  exact ⟨Tab.risingFrom_filter p h.1, fun q hq => h.2 q (List.mem_filter.1 hq).1⟩

theorem put_wf {m : List Host.Cell} {a : Nat} {v : Byte} (hv : v ≠ 0#8) (h : Memory.wf m = true) : Memory.wf (Tab.put a v m) = true := by
  have := sparseWf_sset a v h
  rwa [sset, if_neg hv] at this

theorem foldl_put_wf {l m : List Host.Cell} (k : Nat → Nat) (hl : ∀ p ∈ l, p.2 ≠ 0#8) (h : Memory.wf m = true) :
    Memory.wf (l.foldl (fun u p => Tab.put (k p.1) p.2 u) m) = true := by
  induction l generalizing m with
  | nil => exact h
  | cons p l ih => exact ih (fun q hq => hl q (List.mem_cons_of_mem _ hq)) (put_wf (hl p List.mem_cons_self) h)

theorem copyKeys_wf {m : List Host.Cell} (src dst n : Nat) (h : Memory.wf m = true) : Memory.wf (copyKeys m src dst n) = true := by
  refine foldl_put_wf (fun j => dst + (j - src)) (fun p hp => ?_) (filter_wf _ h)
  have h2 := h
  simp only [Memory.wf, sparseWf, Bool.and_eq_true, List.all_eq_true] at h2
  have := h2.2 p (List.mem_filter.1 hp).1
  simpa using this

theorem copyFrame_wf {s : State} (src dst : Nat) (h : Memory.wf s.mem = true) : Memory.wf (copyFrame s src dst).mem = true := copyKeys_wf src dst 65536 h

theorem resetModule_wf {s : State} (h : Memory.wf s.mem = true) : Memory.wf (resetModule s).mem = true := filter_wf _ h

/-! ### Reading after a write -/

theorem readByte_writeByte (m : List Host.Cell) (a b : Nat) (v : Byte) : readByte (writeByte m a v) b = if b = a then v else readByte m b :=
  sget_sset 0#8 m a b v

/-- A write leaves every other byte alone. -/
theorem readByte_writeLE_outside (m : List Host.Cell) (a n v b : Nat) (h : b < a ∨ a + n ≤ b) : readByte (writeLE m a n v) b = readByte m b := by
  induction n generalizing a v with
  | zero => rfl
  | succ n ih => rw [writeLE, readByte_writeByte, if_neg (by omega), ih (a + 1) (v / 256) (by omega)]

theorem readLE_congr {m m' : List Host.Cell} (a n : Nat) (h : ∀ b, a ≤ b → b < a + n → readByte m b = readByte m' b) : readLE m a n = readLE m' a n := by
  induction n generalizing a with
  | zero => rfl
  | succ n ih => rw [readLE, readLE, h a (by omega) (by omega), ih (a + 1) fun b h1 h2 => h b (by omega) (by omega)]

/-- A read after a write to the same place gives the value written. -/
theorem readLE_writeLE (m : List Host.Cell) (a n v : Nat) : readLE (writeLE m a n v) a n = v % 256 ^ n := by
  induction n generalizing a v with
  | zero => simp [readLE, Nat.mod_one]
  | succ n ih =>
    have h1 : readByte (writeLE m a (n + 1) v) a = BitVec.ofNat 8 v := by rw [writeLE, readByte_writeByte, if_pos rfl]
    have h2 : readLE (writeLE m a (n + 1) v) (a + 1) n = readLE (writeLE m (a + 1) n (v / 256)) (a + 1) n :=
      readLE_congr _ _ fun b h _ => by rw [writeLE, readByte_writeByte, if_neg (by omega)]
    rw [readLE, h1, h2, ih, Nat.pow_succ, Nat.mul_comm (256 ^ n) 256, Nat.mod_mul, BitVec.toNat_ofNat]

/-- A read elsewhere is not touched by a write. -/
theorem readLE_writeLE_outside (m : List Host.Cell) (a n v b k : Nat) (h : b + k ≤ a ∨ a + n ≤ b) : readLE (writeLE m a n v) b k = readLE m b k :=
  readLE_congr b k fun c h1 h2 => readByte_writeLE_outside m a n v c (by omega)

end Sys2Proof.Machine
end

