-- ==== Sys2Proof/Laws/State.lean ====
section
/-! SUPPORT. Reading a field of the state after an update of the state: one lemma for each field and update. -/
namespace Sys2Proof.Machine

variable (s : State)

/-! ### setThread -/

@[simp] theorem State.setThread_now (k : Nat) (f : Thread → Thread) : (s.setThread k f).now = s.now := rfl
@[simp] theorem State.setThread_boot (k : Nat) (f : Thread → Thread) : (s.setThread k f).boot = s.boot := rfl
@[simp] theorem State.setThread_mem (k : Nat) (f : Thread → Thread) : (s.setThread k f).mem = s.mem := rfl
@[simp] theorem State.setThread_colours (k : Nat) (f : Thread → Thread) : (s.setThread k f).colours = s.colours := rfl
@[simp] theorem State.setThread_valid (k : Nat) (f : Thread → Thread) : (s.setThread k f).valid = s.valid := rfl
@[simp] theorem State.setThread_ecc (k : Nat) (f : Thread → Thread) : (s.setThread k f).ecc = s.ecc := rfl
@[simp] theorem State.setThread_versions (k : Nat) (f : Thread → Thread) : (s.setThread k f).versions = s.versions := rfl
@[simp] theorem State.setThread_past (k : Nat) (f : Thread → Thread) : (s.setThread k f).past = s.past := rfl
@[simp] theorem State.setThread_stood (k : Nat) (f : Thread → Thread) : (s.setThread k f).stood = s.stood := rfl
@[simp] theorem State.setThread_writeNo (k : Nat) (f : Thread → Thread) : (s.setThread k f).writeNo = s.writeNo := rfl
@[simp] theorem State.setThread_hosts (k : Nat) (f : Thread → Thread) : (s.setThread k f).hosts = s.hosts := rfl
@[simp] theorem State.setThread_fences (k : Nat) (f : Thread → Thread) : (s.setThread k f).fences = s.fences := rfl
@[simp] theorem State.setThread_failed (k : Nat) (f : Thread → Thread) : (s.setThread k f).failed = s.failed := rfl
@[simp] theorem State.setThread_fns (k : Nat) (f : Thread → Thread) : (s.setThread k f).fns = s.fns := rfl
@[simp] theorem State.setThread_launches (k : Nat) (f : Thread → Thread) : (s.setThread k f).launches = s.launches := rfl
@[simp] theorem State.setThread_gangs (k : Nat) (f : Thread → Thread) : (s.setThread k f).gangs = s.gangs := rfl
@[simp] theorem State.setThread_teams (k : Nat) (f : Thread → Thread) : (s.setThread k f).teams = s.teams := rfl
@[simp] theorem State.setThread_waves (k : Nat) (f : Thread → Thread) : (s.setThread k f).waves = s.waves := rfl
@[simp] theorem State.setThread_groups (k : Nat) (f : Thread → Thread) : (s.setThread k f).groups = s.groups := rfl
@[simp] theorem State.setThread_accesses (k : Nat) (f : Thread → Thread) : (s.setThread k f).accesses = s.accesses := rfl
@[simp] theorem State.setThread_traps (k : Nat) (f : Thread → Thread) : (s.setThread k f).traps = s.traps := rfl
@[simp] theorem State.setThread_calls (k : Nat) (f : Thread → Thread) : (s.setThread k f).calls = s.calls := rfl
@[simp] theorem State.setThread_posts (k : Nat) (f : Thread → Thread) : (s.setThread k f).posts = s.posts := rfl
@[simp] theorem State.setThread_notices (k : Nat) (f : Thread → Thread) : (s.setThread k f).notices = s.notices := rfl
@[simp] theorem State.setThread_chunks (k : Nat) (f : Thread → Thread) : (s.setThread k f).chunks = s.chunks := rfl
@[simp] theorem State.setThread_flows (k : Nat) (f : Thread → Thread) : (s.setThread k f).flows = s.flows := rfl
@[simp] theorem State.setThread_dividers (k : Nat) (f : Thread → Thread) : (s.setThread k f).dividers = s.dividers := rfl
@[simp] theorem State.setThread_thermal (k : Nat) (f : Thread → Thread) : (s.setThread k f).thermal = s.thermal := rfl
@[simp] theorem State.setThread_sensors (k : Nat) (f : Thread → Thread) : (s.setThread k f).sensors = s.sensors := rfl
@[simp] theorem State.setThread_slots (k : Nat) (f : Thread → Thread) : (s.setThread k f).slots = s.slots := rfl
@[simp] theorem State.setThread_activeSlot (k : Nat) (f : Thread → Thread) : (s.setThread k f).activeSlot = s.activeSlot := rfl
@[simp] theorem State.setThread_runningSlot (k : Nat) (f : Thread → Thread) : (s.setThread k f).runningSlot = s.runningSlot := rfl
@[simp] theorem State.setThread_fusedSvn (k : Nat) (f : Thread → Thread) : (s.setThread k f).fusedSvn = s.fusedSvn := rfl
@[simp] theorem State.setThread_runningSvn (k : Nat) (f : Thread → Thread) : (s.setThread k f).runningSvn = s.runningSvn := rfl
@[simp] theorem State.setThread_m0 (k : Nat) (f : Thread → Thread) : (s.setThread k f).m0 = s.m0 := rfl
@[simp] theorem State.setThread_m1 (k : Nat) (f : Thread → Thread) : (s.setThread k f).m1 = s.m1 := rfl
@[simp] theorem State.setThread_debugged (k : Nat) (f : Thread → Thread) : (s.setThread k f).debugged = s.debugged := rfl
@[simp] theorem State.setThread_started (k : Nat) (f : Thread → Thread) : (s.setThread k f).started = s.started := rfl
@[simp] theorem State.setThread_turns (k : Nat) (f : Thread → Thread) : (s.setThread k f).turns = s.turns := rfl
@[simp] theorem State.setThread_formedAt (k : Nat) (f : Thread → Thread) : (s.setThread k f).formedAt = s.formedAt := rfl
@[simp] theorem State.setThread_admitTurn (k : Nat) (f : Thread → Thread) : (s.setThread k f).admitTurn = s.admitTurn := rfl
@[simp] theorem State.setThread_issuedAt (k : Nat) (f : Thread → Thread) : (s.setThread k f).issuedAt = s.issuedAt := rfl
@[simp] theorem State.setThread_acts (k : Nat) (f : Thread → Thread) : (s.setThread k f).acts = s.acts := rfl
@[simp] theorem State.setThread_services (k : Nat) (f : Thread → Thread) : (s.setThread k f).services = s.services := rfl
@[simp] theorem State.setThread_serviceCores (k : Nat) (f : Thread → Thread) : (s.setThread k f).serviceCores = s.serviceCores := rfl
@[simp] theorem State.setThread_errorCounts (k : Nat) (f : Thread → Thread) : (s.setThread k f).errorCounts = s.errorCounts := rfl
@[simp] theorem State.setThread_sampled (k : Nat) (f : Thread → Thread) : (s.setThread k f).sampled = s.sampled := rfl
@[simp] theorem State.setThread_hostEvents (k : Nat) (f : Thread → Thread) : (s.setThread k f).hostEvents = s.hostEvents := rfl
@[simp] theorem State.setThread_replies (k : Nat) (f : Thread → Thread) : (s.setThread k f).replies = s.replies := rfl
@[simp] theorem State.setThread_reports (k : Nat) (f : Thread → Thread) : (s.setThread k f).reports = s.reports := rfl
@[simp] theorem State.setThread_nextId (k : Nat) (f : Thread → Thread) : (s.setThread k f).nextId = s.nextId := rfl
@[simp] theorem State.setThread_free (k : Nat) (f : Thread → Thread) : (s.setThread k f).free = s.free := rfl
@[simp] theorem State.setThread_schedule (k : Nat) (f : Thread → Thread) : (s.setThread k f).schedule = s.schedule := rfl
@[simp] theorem State.setThread_cur (k : Nat) (f : Thread → Thread) : (s.setThread k f).cur = s.cur := rfl
@[simp] theorem State.setThread_fetched (k : Nat) (f : Thread → Thread) : (s.setThread k f).fetched = s.fetched := rfl

/-! ### setWave -/

@[simp] theorem State.setWave_now (k : Nat) (f : Wave → Wave) : (s.setWave k f).now = s.now := rfl
@[simp] theorem State.setWave_boot (k : Nat) (f : Wave → Wave) : (s.setWave k f).boot = s.boot := rfl
@[simp] theorem State.setWave_mem (k : Nat) (f : Wave → Wave) : (s.setWave k f).mem = s.mem := rfl
@[simp] theorem State.setWave_colours (k : Nat) (f : Wave → Wave) : (s.setWave k f).colours = s.colours := rfl
@[simp] theorem State.setWave_valid (k : Nat) (f : Wave → Wave) : (s.setWave k f).valid = s.valid := rfl
@[simp] theorem State.setWave_ecc (k : Nat) (f : Wave → Wave) : (s.setWave k f).ecc = s.ecc := rfl
@[simp] theorem State.setWave_versions (k : Nat) (f : Wave → Wave) : (s.setWave k f).versions = s.versions := rfl
@[simp] theorem State.setWave_past (k : Nat) (f : Wave → Wave) : (s.setWave k f).past = s.past := rfl
@[simp] theorem State.setWave_stood (k : Nat) (f : Wave → Wave) : (s.setWave k f).stood = s.stood := rfl
@[simp] theorem State.setWave_writeNo (k : Nat) (f : Wave → Wave) : (s.setWave k f).writeNo = s.writeNo := rfl
@[simp] theorem State.setWave_hosts (k : Nat) (f : Wave → Wave) : (s.setWave k f).hosts = s.hosts := rfl
@[simp] theorem State.setWave_fences (k : Nat) (f : Wave → Wave) : (s.setWave k f).fences = s.fences := rfl
@[simp] theorem State.setWave_failed (k : Nat) (f : Wave → Wave) : (s.setWave k f).failed = s.failed := rfl
@[simp] theorem State.setWave_fns (k : Nat) (f : Wave → Wave) : (s.setWave k f).fns = s.fns := rfl
@[simp] theorem State.setWave_launches (k : Nat) (f : Wave → Wave) : (s.setWave k f).launches = s.launches := rfl
@[simp] theorem State.setWave_gangs (k : Nat) (f : Wave → Wave) : (s.setWave k f).gangs = s.gangs := rfl
@[simp] theorem State.setWave_teams (k : Nat) (f : Wave → Wave) : (s.setWave k f).teams = s.teams := rfl
@[simp] theorem State.setWave_threads (k : Nat) (f : Wave → Wave) : (s.setWave k f).threads = s.threads := rfl
@[simp] theorem State.setWave_groups (k : Nat) (f : Wave → Wave) : (s.setWave k f).groups = s.groups := rfl
@[simp] theorem State.setWave_accesses (k : Nat) (f : Wave → Wave) : (s.setWave k f).accesses = s.accesses := rfl
@[simp] theorem State.setWave_traps (k : Nat) (f : Wave → Wave) : (s.setWave k f).traps = s.traps := rfl
@[simp] theorem State.setWave_calls (k : Nat) (f : Wave → Wave) : (s.setWave k f).calls = s.calls := rfl
@[simp] theorem State.setWave_posts (k : Nat) (f : Wave → Wave) : (s.setWave k f).posts = s.posts := rfl
@[simp] theorem State.setWave_notices (k : Nat) (f : Wave → Wave) : (s.setWave k f).notices = s.notices := rfl
@[simp] theorem State.setWave_chunks (k : Nat) (f : Wave → Wave) : (s.setWave k f).chunks = s.chunks := rfl
@[simp] theorem State.setWave_flows (k : Nat) (f : Wave → Wave) : (s.setWave k f).flows = s.flows := rfl
@[simp] theorem State.setWave_dividers (k : Nat) (f : Wave → Wave) : (s.setWave k f).dividers = s.dividers := rfl
@[simp] theorem State.setWave_thermal (k : Nat) (f : Wave → Wave) : (s.setWave k f).thermal = s.thermal := rfl
@[simp] theorem State.setWave_sensors (k : Nat) (f : Wave → Wave) : (s.setWave k f).sensors = s.sensors := rfl
@[simp] theorem State.setWave_slots (k : Nat) (f : Wave → Wave) : (s.setWave k f).slots = s.slots := rfl
@[simp] theorem State.setWave_activeSlot (k : Nat) (f : Wave → Wave) : (s.setWave k f).activeSlot = s.activeSlot := rfl
@[simp] theorem State.setWave_runningSlot (k : Nat) (f : Wave → Wave) : (s.setWave k f).runningSlot = s.runningSlot := rfl
@[simp] theorem State.setWave_fusedSvn (k : Nat) (f : Wave → Wave) : (s.setWave k f).fusedSvn = s.fusedSvn := rfl
@[simp] theorem State.setWave_runningSvn (k : Nat) (f : Wave → Wave) : (s.setWave k f).runningSvn = s.runningSvn := rfl
@[simp] theorem State.setWave_m0 (k : Nat) (f : Wave → Wave) : (s.setWave k f).m0 = s.m0 := rfl
@[simp] theorem State.setWave_m1 (k : Nat) (f : Wave → Wave) : (s.setWave k f).m1 = s.m1 := rfl
@[simp] theorem State.setWave_debugged (k : Nat) (f : Wave → Wave) : (s.setWave k f).debugged = s.debugged := rfl
@[simp] theorem State.setWave_started (k : Nat) (f : Wave → Wave) : (s.setWave k f).started = s.started := rfl
@[simp] theorem State.setWave_turns (k : Nat) (f : Wave → Wave) : (s.setWave k f).turns = s.turns := rfl
@[simp] theorem State.setWave_formedAt (k : Nat) (f : Wave → Wave) : (s.setWave k f).formedAt = s.formedAt := rfl
@[simp] theorem State.setWave_admitTurn (k : Nat) (f : Wave → Wave) : (s.setWave k f).admitTurn = s.admitTurn := rfl
@[simp] theorem State.setWave_issuedAt (k : Nat) (f : Wave → Wave) : (s.setWave k f).issuedAt = s.issuedAt := rfl
@[simp] theorem State.setWave_acts (k : Nat) (f : Wave → Wave) : (s.setWave k f).acts = s.acts := rfl
@[simp] theorem State.setWave_services (k : Nat) (f : Wave → Wave) : (s.setWave k f).services = s.services := rfl
@[simp] theorem State.setWave_serviceCores (k : Nat) (f : Wave → Wave) : (s.setWave k f).serviceCores = s.serviceCores := rfl
@[simp] theorem State.setWave_errorCounts (k : Nat) (f : Wave → Wave) : (s.setWave k f).errorCounts = s.errorCounts := rfl
@[simp] theorem State.setWave_sampled (k : Nat) (f : Wave → Wave) : (s.setWave k f).sampled = s.sampled := rfl
@[simp] theorem State.setWave_hostEvents (k : Nat) (f : Wave → Wave) : (s.setWave k f).hostEvents = s.hostEvents := rfl
@[simp] theorem State.setWave_replies (k : Nat) (f : Wave → Wave) : (s.setWave k f).replies = s.replies := rfl
@[simp] theorem State.setWave_reports (k : Nat) (f : Wave → Wave) : (s.setWave k f).reports = s.reports := rfl
@[simp] theorem State.setWave_nextId (k : Nat) (f : Wave → Wave) : (s.setWave k f).nextId = s.nextId := rfl
@[simp] theorem State.setWave_free (k : Nat) (f : Wave → Wave) : (s.setWave k f).free = s.free := rfl
@[simp] theorem State.setWave_schedule (k : Nat) (f : Wave → Wave) : (s.setWave k f).schedule = s.schedule := rfl
@[simp] theorem State.setWave_cur (k : Nat) (f : Wave → Wave) : (s.setWave k f).cur = s.cur := rfl
@[simp] theorem State.setWave_fetched (k : Nat) (f : Wave → Wave) : (s.setWave k f).fetched = s.fetched := rfl

/-! ### setGroup -/

@[simp] theorem State.setGroup_now (k : Nat) (f : Group → Group) : (s.setGroup k f).now = s.now := rfl
@[simp] theorem State.setGroup_boot (k : Nat) (f : Group → Group) : (s.setGroup k f).boot = s.boot := rfl
@[simp] theorem State.setGroup_mem (k : Nat) (f : Group → Group) : (s.setGroup k f).mem = s.mem := rfl
@[simp] theorem State.setGroup_colours (k : Nat) (f : Group → Group) : (s.setGroup k f).colours = s.colours := rfl
@[simp] theorem State.setGroup_valid (k : Nat) (f : Group → Group) : (s.setGroup k f).valid = s.valid := rfl
@[simp] theorem State.setGroup_ecc (k : Nat) (f : Group → Group) : (s.setGroup k f).ecc = s.ecc := rfl
@[simp] theorem State.setGroup_versions (k : Nat) (f : Group → Group) : (s.setGroup k f).versions = s.versions := rfl
@[simp] theorem State.setGroup_past (k : Nat) (f : Group → Group) : (s.setGroup k f).past = s.past := rfl
@[simp] theorem State.setGroup_stood (k : Nat) (f : Group → Group) : (s.setGroup k f).stood = s.stood := rfl
@[simp] theorem State.setGroup_writeNo (k : Nat) (f : Group → Group) : (s.setGroup k f).writeNo = s.writeNo := rfl
@[simp] theorem State.setGroup_hosts (k : Nat) (f : Group → Group) : (s.setGroup k f).hosts = s.hosts := rfl
@[simp] theorem State.setGroup_fences (k : Nat) (f : Group → Group) : (s.setGroup k f).fences = s.fences := rfl
@[simp] theorem State.setGroup_failed (k : Nat) (f : Group → Group) : (s.setGroup k f).failed = s.failed := rfl
@[simp] theorem State.setGroup_fns (k : Nat) (f : Group → Group) : (s.setGroup k f).fns = s.fns := rfl
@[simp] theorem State.setGroup_launches (k : Nat) (f : Group → Group) : (s.setGroup k f).launches = s.launches := rfl
@[simp] theorem State.setGroup_gangs (k : Nat) (f : Group → Group) : (s.setGroup k f).gangs = s.gangs := rfl
@[simp] theorem State.setGroup_teams (k : Nat) (f : Group → Group) : (s.setGroup k f).teams = s.teams := rfl
@[simp] theorem State.setGroup_waves (k : Nat) (f : Group → Group) : (s.setGroup k f).waves = s.waves := rfl
@[simp] theorem State.setGroup_threads (k : Nat) (f : Group → Group) : (s.setGroup k f).threads = s.threads := rfl
@[simp] theorem State.setGroup_accesses (k : Nat) (f : Group → Group) : (s.setGroup k f).accesses = s.accesses := rfl
@[simp] theorem State.setGroup_traps (k : Nat) (f : Group → Group) : (s.setGroup k f).traps = s.traps := rfl
@[simp] theorem State.setGroup_calls (k : Nat) (f : Group → Group) : (s.setGroup k f).calls = s.calls := rfl
@[simp] theorem State.setGroup_posts (k : Nat) (f : Group → Group) : (s.setGroup k f).posts = s.posts := rfl
@[simp] theorem State.setGroup_notices (k : Nat) (f : Group → Group) : (s.setGroup k f).notices = s.notices := rfl
@[simp] theorem State.setGroup_chunks (k : Nat) (f : Group → Group) : (s.setGroup k f).chunks = s.chunks := rfl
@[simp] theorem State.setGroup_flows (k : Nat) (f : Group → Group) : (s.setGroup k f).flows = s.flows := rfl
@[simp] theorem State.setGroup_dividers (k : Nat) (f : Group → Group) : (s.setGroup k f).dividers = s.dividers := rfl
@[simp] theorem State.setGroup_thermal (k : Nat) (f : Group → Group) : (s.setGroup k f).thermal = s.thermal := rfl
@[simp] theorem State.setGroup_sensors (k : Nat) (f : Group → Group) : (s.setGroup k f).sensors = s.sensors := rfl
@[simp] theorem State.setGroup_slots (k : Nat) (f : Group → Group) : (s.setGroup k f).slots = s.slots := rfl
@[simp] theorem State.setGroup_activeSlot (k : Nat) (f : Group → Group) : (s.setGroup k f).activeSlot = s.activeSlot := rfl
@[simp] theorem State.setGroup_runningSlot (k : Nat) (f : Group → Group) : (s.setGroup k f).runningSlot = s.runningSlot := rfl
@[simp] theorem State.setGroup_fusedSvn (k : Nat) (f : Group → Group) : (s.setGroup k f).fusedSvn = s.fusedSvn := rfl
@[simp] theorem State.setGroup_runningSvn (k : Nat) (f : Group → Group) : (s.setGroup k f).runningSvn = s.runningSvn := rfl
@[simp] theorem State.setGroup_m0 (k : Nat) (f : Group → Group) : (s.setGroup k f).m0 = s.m0 := rfl
@[simp] theorem State.setGroup_m1 (k : Nat) (f : Group → Group) : (s.setGroup k f).m1 = s.m1 := rfl
@[simp] theorem State.setGroup_debugged (k : Nat) (f : Group → Group) : (s.setGroup k f).debugged = s.debugged := rfl
@[simp] theorem State.setGroup_started (k : Nat) (f : Group → Group) : (s.setGroup k f).started = s.started := rfl
@[simp] theorem State.setGroup_turns (k : Nat) (f : Group → Group) : (s.setGroup k f).turns = s.turns := rfl
@[simp] theorem State.setGroup_formedAt (k : Nat) (f : Group → Group) : (s.setGroup k f).formedAt = s.formedAt := rfl
@[simp] theorem State.setGroup_admitTurn (k : Nat) (f : Group → Group) : (s.setGroup k f).admitTurn = s.admitTurn := rfl
@[simp] theorem State.setGroup_issuedAt (k : Nat) (f : Group → Group) : (s.setGroup k f).issuedAt = s.issuedAt := rfl
@[simp] theorem State.setGroup_acts (k : Nat) (f : Group → Group) : (s.setGroup k f).acts = s.acts := rfl
@[simp] theorem State.setGroup_services (k : Nat) (f : Group → Group) : (s.setGroup k f).services = s.services := rfl
@[simp] theorem State.setGroup_serviceCores (k : Nat) (f : Group → Group) : (s.setGroup k f).serviceCores = s.serviceCores := rfl
@[simp] theorem State.setGroup_errorCounts (k : Nat) (f : Group → Group) : (s.setGroup k f).errorCounts = s.errorCounts := rfl
@[simp] theorem State.setGroup_sampled (k : Nat) (f : Group → Group) : (s.setGroup k f).sampled = s.sampled := rfl
@[simp] theorem State.setGroup_hostEvents (k : Nat) (f : Group → Group) : (s.setGroup k f).hostEvents = s.hostEvents := rfl
@[simp] theorem State.setGroup_replies (k : Nat) (f : Group → Group) : (s.setGroup k f).replies = s.replies := rfl
@[simp] theorem State.setGroup_reports (k : Nat) (f : Group → Group) : (s.setGroup k f).reports = s.reports := rfl
@[simp] theorem State.setGroup_nextId (k : Nat) (f : Group → Group) : (s.setGroup k f).nextId = s.nextId := rfl
@[simp] theorem State.setGroup_free (k : Nat) (f : Group → Group) : (s.setGroup k f).free = s.free := rfl
@[simp] theorem State.setGroup_schedule (k : Nat) (f : Group → Group) : (s.setGroup k f).schedule = s.schedule := rfl
@[simp] theorem State.setGroup_cur (k : Nat) (f : Group → Group) : (s.setGroup k f).cur = s.cur := rfl
@[simp] theorem State.setGroup_fetched (k : Nat) (f : Group → Group) : (s.setGroup k f).fetched = s.fetched := rfl

/-! ### setTeam -/

@[simp] theorem State.setTeam_now (k : Nat) (f : Team → Team) : (s.setTeam k f).now = s.now := rfl
@[simp] theorem State.setTeam_boot (k : Nat) (f : Team → Team) : (s.setTeam k f).boot = s.boot := rfl
@[simp] theorem State.setTeam_mem (k : Nat) (f : Team → Team) : (s.setTeam k f).mem = s.mem := rfl
@[simp] theorem State.setTeam_colours (k : Nat) (f : Team → Team) : (s.setTeam k f).colours = s.colours := rfl
@[simp] theorem State.setTeam_valid (k : Nat) (f : Team → Team) : (s.setTeam k f).valid = s.valid := rfl
@[simp] theorem State.setTeam_ecc (k : Nat) (f : Team → Team) : (s.setTeam k f).ecc = s.ecc := rfl
@[simp] theorem State.setTeam_versions (k : Nat) (f : Team → Team) : (s.setTeam k f).versions = s.versions := rfl
@[simp] theorem State.setTeam_past (k : Nat) (f : Team → Team) : (s.setTeam k f).past = s.past := rfl
@[simp] theorem State.setTeam_stood (k : Nat) (f : Team → Team) : (s.setTeam k f).stood = s.stood := rfl
@[simp] theorem State.setTeam_writeNo (k : Nat) (f : Team → Team) : (s.setTeam k f).writeNo = s.writeNo := rfl
@[simp] theorem State.setTeam_hosts (k : Nat) (f : Team → Team) : (s.setTeam k f).hosts = s.hosts := rfl
@[simp] theorem State.setTeam_fences (k : Nat) (f : Team → Team) : (s.setTeam k f).fences = s.fences := rfl
@[simp] theorem State.setTeam_failed (k : Nat) (f : Team → Team) : (s.setTeam k f).failed = s.failed := rfl
@[simp] theorem State.setTeam_fns (k : Nat) (f : Team → Team) : (s.setTeam k f).fns = s.fns := rfl
@[simp] theorem State.setTeam_launches (k : Nat) (f : Team → Team) : (s.setTeam k f).launches = s.launches := rfl
@[simp] theorem State.setTeam_gangs (k : Nat) (f : Team → Team) : (s.setTeam k f).gangs = s.gangs := rfl
@[simp] theorem State.setTeam_waves (k : Nat) (f : Team → Team) : (s.setTeam k f).waves = s.waves := rfl
@[simp] theorem State.setTeam_threads (k : Nat) (f : Team → Team) : (s.setTeam k f).threads = s.threads := rfl
@[simp] theorem State.setTeam_groups (k : Nat) (f : Team → Team) : (s.setTeam k f).groups = s.groups := rfl
@[simp] theorem State.setTeam_accesses (k : Nat) (f : Team → Team) : (s.setTeam k f).accesses = s.accesses := rfl
@[simp] theorem State.setTeam_traps (k : Nat) (f : Team → Team) : (s.setTeam k f).traps = s.traps := rfl
@[simp] theorem State.setTeam_calls (k : Nat) (f : Team → Team) : (s.setTeam k f).calls = s.calls := rfl
@[simp] theorem State.setTeam_posts (k : Nat) (f : Team → Team) : (s.setTeam k f).posts = s.posts := rfl
@[simp] theorem State.setTeam_notices (k : Nat) (f : Team → Team) : (s.setTeam k f).notices = s.notices := rfl
@[simp] theorem State.setTeam_chunks (k : Nat) (f : Team → Team) : (s.setTeam k f).chunks = s.chunks := rfl
@[simp] theorem State.setTeam_flows (k : Nat) (f : Team → Team) : (s.setTeam k f).flows = s.flows := rfl
@[simp] theorem State.setTeam_dividers (k : Nat) (f : Team → Team) : (s.setTeam k f).dividers = s.dividers := rfl
@[simp] theorem State.setTeam_thermal (k : Nat) (f : Team → Team) : (s.setTeam k f).thermal = s.thermal := rfl
@[simp] theorem State.setTeam_sensors (k : Nat) (f : Team → Team) : (s.setTeam k f).sensors = s.sensors := rfl
@[simp] theorem State.setTeam_slots (k : Nat) (f : Team → Team) : (s.setTeam k f).slots = s.slots := rfl
@[simp] theorem State.setTeam_activeSlot (k : Nat) (f : Team → Team) : (s.setTeam k f).activeSlot = s.activeSlot := rfl
@[simp] theorem State.setTeam_runningSlot (k : Nat) (f : Team → Team) : (s.setTeam k f).runningSlot = s.runningSlot := rfl
@[simp] theorem State.setTeam_fusedSvn (k : Nat) (f : Team → Team) : (s.setTeam k f).fusedSvn = s.fusedSvn := rfl
@[simp] theorem State.setTeam_runningSvn (k : Nat) (f : Team → Team) : (s.setTeam k f).runningSvn = s.runningSvn := rfl
@[simp] theorem State.setTeam_m0 (k : Nat) (f : Team → Team) : (s.setTeam k f).m0 = s.m0 := rfl
@[simp] theorem State.setTeam_m1 (k : Nat) (f : Team → Team) : (s.setTeam k f).m1 = s.m1 := rfl
@[simp] theorem State.setTeam_debugged (k : Nat) (f : Team → Team) : (s.setTeam k f).debugged = s.debugged := rfl
@[simp] theorem State.setTeam_started (k : Nat) (f : Team → Team) : (s.setTeam k f).started = s.started := rfl
@[simp] theorem State.setTeam_turns (k : Nat) (f : Team → Team) : (s.setTeam k f).turns = s.turns := rfl
@[simp] theorem State.setTeam_formedAt (k : Nat) (f : Team → Team) : (s.setTeam k f).formedAt = s.formedAt := rfl
@[simp] theorem State.setTeam_admitTurn (k : Nat) (f : Team → Team) : (s.setTeam k f).admitTurn = s.admitTurn := rfl
@[simp] theorem State.setTeam_issuedAt (k : Nat) (f : Team → Team) : (s.setTeam k f).issuedAt = s.issuedAt := rfl
@[simp] theorem State.setTeam_acts (k : Nat) (f : Team → Team) : (s.setTeam k f).acts = s.acts := rfl
@[simp] theorem State.setTeam_services (k : Nat) (f : Team → Team) : (s.setTeam k f).services = s.services := rfl
@[simp] theorem State.setTeam_serviceCores (k : Nat) (f : Team → Team) : (s.setTeam k f).serviceCores = s.serviceCores := rfl
@[simp] theorem State.setTeam_errorCounts (k : Nat) (f : Team → Team) : (s.setTeam k f).errorCounts = s.errorCounts := rfl
@[simp] theorem State.setTeam_sampled (k : Nat) (f : Team → Team) : (s.setTeam k f).sampled = s.sampled := rfl
@[simp] theorem State.setTeam_hostEvents (k : Nat) (f : Team → Team) : (s.setTeam k f).hostEvents = s.hostEvents := rfl
@[simp] theorem State.setTeam_replies (k : Nat) (f : Team → Team) : (s.setTeam k f).replies = s.replies := rfl
@[simp] theorem State.setTeam_reports (k : Nat) (f : Team → Team) : (s.setTeam k f).reports = s.reports := rfl
@[simp] theorem State.setTeam_nextId (k : Nat) (f : Team → Team) : (s.setTeam k f).nextId = s.nextId := rfl
@[simp] theorem State.setTeam_free (k : Nat) (f : Team → Team) : (s.setTeam k f).free = s.free := rfl
@[simp] theorem State.setTeam_schedule (k : Nat) (f : Team → Team) : (s.setTeam k f).schedule = s.schedule := rfl
@[simp] theorem State.setTeam_cur (k : Nat) (f : Team → Team) : (s.setTeam k f).cur = s.cur := rfl
@[simp] theorem State.setTeam_fetched (k : Nat) (f : Team → Team) : (s.setTeam k f).fetched = s.fetched := rfl

/-! ### setGang -/

@[simp] theorem State.setGang_now (k : Nat) (f : Gang → Gang) : (s.setGang k f).now = s.now := rfl
@[simp] theorem State.setGang_boot (k : Nat) (f : Gang → Gang) : (s.setGang k f).boot = s.boot := rfl
@[simp] theorem State.setGang_mem (k : Nat) (f : Gang → Gang) : (s.setGang k f).mem = s.mem := rfl
@[simp] theorem State.setGang_colours (k : Nat) (f : Gang → Gang) : (s.setGang k f).colours = s.colours := rfl
@[simp] theorem State.setGang_valid (k : Nat) (f : Gang → Gang) : (s.setGang k f).valid = s.valid := rfl
@[simp] theorem State.setGang_ecc (k : Nat) (f : Gang → Gang) : (s.setGang k f).ecc = s.ecc := rfl
@[simp] theorem State.setGang_versions (k : Nat) (f : Gang → Gang) : (s.setGang k f).versions = s.versions := rfl
@[simp] theorem State.setGang_past (k : Nat) (f : Gang → Gang) : (s.setGang k f).past = s.past := rfl
@[simp] theorem State.setGang_stood (k : Nat) (f : Gang → Gang) : (s.setGang k f).stood = s.stood := rfl
@[simp] theorem State.setGang_writeNo (k : Nat) (f : Gang → Gang) : (s.setGang k f).writeNo = s.writeNo := rfl
@[simp] theorem State.setGang_hosts (k : Nat) (f : Gang → Gang) : (s.setGang k f).hosts = s.hosts := rfl
@[simp] theorem State.setGang_fences (k : Nat) (f : Gang → Gang) : (s.setGang k f).fences = s.fences := rfl
@[simp] theorem State.setGang_failed (k : Nat) (f : Gang → Gang) : (s.setGang k f).failed = s.failed := rfl
@[simp] theorem State.setGang_fns (k : Nat) (f : Gang → Gang) : (s.setGang k f).fns = s.fns := rfl
@[simp] theorem State.setGang_launches (k : Nat) (f : Gang → Gang) : (s.setGang k f).launches = s.launches := rfl
@[simp] theorem State.setGang_teams (k : Nat) (f : Gang → Gang) : (s.setGang k f).teams = s.teams := rfl
@[simp] theorem State.setGang_waves (k : Nat) (f : Gang → Gang) : (s.setGang k f).waves = s.waves := rfl
@[simp] theorem State.setGang_threads (k : Nat) (f : Gang → Gang) : (s.setGang k f).threads = s.threads := rfl
@[simp] theorem State.setGang_groups (k : Nat) (f : Gang → Gang) : (s.setGang k f).groups = s.groups := rfl
@[simp] theorem State.setGang_accesses (k : Nat) (f : Gang → Gang) : (s.setGang k f).accesses = s.accesses := rfl
@[simp] theorem State.setGang_traps (k : Nat) (f : Gang → Gang) : (s.setGang k f).traps = s.traps := rfl
@[simp] theorem State.setGang_calls (k : Nat) (f : Gang → Gang) : (s.setGang k f).calls = s.calls := rfl
@[simp] theorem State.setGang_posts (k : Nat) (f : Gang → Gang) : (s.setGang k f).posts = s.posts := rfl
@[simp] theorem State.setGang_notices (k : Nat) (f : Gang → Gang) : (s.setGang k f).notices = s.notices := rfl
@[simp] theorem State.setGang_chunks (k : Nat) (f : Gang → Gang) : (s.setGang k f).chunks = s.chunks := rfl
@[simp] theorem State.setGang_flows (k : Nat) (f : Gang → Gang) : (s.setGang k f).flows = s.flows := rfl
@[simp] theorem State.setGang_dividers (k : Nat) (f : Gang → Gang) : (s.setGang k f).dividers = s.dividers := rfl
@[simp] theorem State.setGang_thermal (k : Nat) (f : Gang → Gang) : (s.setGang k f).thermal = s.thermal := rfl
@[simp] theorem State.setGang_sensors (k : Nat) (f : Gang → Gang) : (s.setGang k f).sensors = s.sensors := rfl
@[simp] theorem State.setGang_slots (k : Nat) (f : Gang → Gang) : (s.setGang k f).slots = s.slots := rfl
@[simp] theorem State.setGang_activeSlot (k : Nat) (f : Gang → Gang) : (s.setGang k f).activeSlot = s.activeSlot := rfl
@[simp] theorem State.setGang_runningSlot (k : Nat) (f : Gang → Gang) : (s.setGang k f).runningSlot = s.runningSlot := rfl
@[simp] theorem State.setGang_fusedSvn (k : Nat) (f : Gang → Gang) : (s.setGang k f).fusedSvn = s.fusedSvn := rfl
@[simp] theorem State.setGang_runningSvn (k : Nat) (f : Gang → Gang) : (s.setGang k f).runningSvn = s.runningSvn := rfl
@[simp] theorem State.setGang_m0 (k : Nat) (f : Gang → Gang) : (s.setGang k f).m0 = s.m0 := rfl
@[simp] theorem State.setGang_m1 (k : Nat) (f : Gang → Gang) : (s.setGang k f).m1 = s.m1 := rfl
@[simp] theorem State.setGang_debugged (k : Nat) (f : Gang → Gang) : (s.setGang k f).debugged = s.debugged := rfl
@[simp] theorem State.setGang_started (k : Nat) (f : Gang → Gang) : (s.setGang k f).started = s.started := rfl
@[simp] theorem State.setGang_turns (k : Nat) (f : Gang → Gang) : (s.setGang k f).turns = s.turns := rfl
@[simp] theorem State.setGang_formedAt (k : Nat) (f : Gang → Gang) : (s.setGang k f).formedAt = s.formedAt := rfl
@[simp] theorem State.setGang_admitTurn (k : Nat) (f : Gang → Gang) : (s.setGang k f).admitTurn = s.admitTurn := rfl
@[simp] theorem State.setGang_issuedAt (k : Nat) (f : Gang → Gang) : (s.setGang k f).issuedAt = s.issuedAt := rfl
@[simp] theorem State.setGang_acts (k : Nat) (f : Gang → Gang) : (s.setGang k f).acts = s.acts := rfl
@[simp] theorem State.setGang_services (k : Nat) (f : Gang → Gang) : (s.setGang k f).services = s.services := rfl
@[simp] theorem State.setGang_serviceCores (k : Nat) (f : Gang → Gang) : (s.setGang k f).serviceCores = s.serviceCores := rfl
@[simp] theorem State.setGang_errorCounts (k : Nat) (f : Gang → Gang) : (s.setGang k f).errorCounts = s.errorCounts := rfl
@[simp] theorem State.setGang_sampled (k : Nat) (f : Gang → Gang) : (s.setGang k f).sampled = s.sampled := rfl
@[simp] theorem State.setGang_hostEvents (k : Nat) (f : Gang → Gang) : (s.setGang k f).hostEvents = s.hostEvents := rfl
@[simp] theorem State.setGang_replies (k : Nat) (f : Gang → Gang) : (s.setGang k f).replies = s.replies := rfl
@[simp] theorem State.setGang_reports (k : Nat) (f : Gang → Gang) : (s.setGang k f).reports = s.reports := rfl
@[simp] theorem State.setGang_nextId (k : Nat) (f : Gang → Gang) : (s.setGang k f).nextId = s.nextId := rfl
@[simp] theorem State.setGang_free (k : Nat) (f : Gang → Gang) : (s.setGang k f).free = s.free := rfl
@[simp] theorem State.setGang_schedule (k : Nat) (f : Gang → Gang) : (s.setGang k f).schedule = s.schedule := rfl
@[simp] theorem State.setGang_cur (k : Nat) (f : Gang → Gang) : (s.setGang k f).cur = s.cur := rfl
@[simp] theorem State.setGang_fetched (k : Nat) (f : Gang → Gang) : (s.setGang k f).fetched = s.fetched := rfl

/-! ### setLaunch -/

@[simp] theorem State.setLaunch_now (k : Nat) (f : Launch → Launch) : (s.setLaunch k f).now = s.now := rfl
@[simp] theorem State.setLaunch_boot (k : Nat) (f : Launch → Launch) : (s.setLaunch k f).boot = s.boot := rfl
@[simp] theorem State.setLaunch_mem (k : Nat) (f : Launch → Launch) : (s.setLaunch k f).mem = s.mem := rfl
@[simp] theorem State.setLaunch_colours (k : Nat) (f : Launch → Launch) : (s.setLaunch k f).colours = s.colours := rfl
@[simp] theorem State.setLaunch_valid (k : Nat) (f : Launch → Launch) : (s.setLaunch k f).valid = s.valid := rfl
@[simp] theorem State.setLaunch_ecc (k : Nat) (f : Launch → Launch) : (s.setLaunch k f).ecc = s.ecc := rfl
@[simp] theorem State.setLaunch_versions (k : Nat) (f : Launch → Launch) : (s.setLaunch k f).versions = s.versions := rfl
@[simp] theorem State.setLaunch_past (k : Nat) (f : Launch → Launch) : (s.setLaunch k f).past = s.past := rfl
@[simp] theorem State.setLaunch_stood (k : Nat) (f : Launch → Launch) : (s.setLaunch k f).stood = s.stood := rfl
@[simp] theorem State.setLaunch_writeNo (k : Nat) (f : Launch → Launch) : (s.setLaunch k f).writeNo = s.writeNo := rfl
@[simp] theorem State.setLaunch_hosts (k : Nat) (f : Launch → Launch) : (s.setLaunch k f).hosts = s.hosts := rfl
@[simp] theorem State.setLaunch_fences (k : Nat) (f : Launch → Launch) : (s.setLaunch k f).fences = s.fences := rfl
@[simp] theorem State.setLaunch_failed (k : Nat) (f : Launch → Launch) : (s.setLaunch k f).failed = s.failed := rfl
@[simp] theorem State.setLaunch_fns (k : Nat) (f : Launch → Launch) : (s.setLaunch k f).fns = s.fns := rfl
@[simp] theorem State.setLaunch_gangs (k : Nat) (f : Launch → Launch) : (s.setLaunch k f).gangs = s.gangs := rfl
@[simp] theorem State.setLaunch_teams (k : Nat) (f : Launch → Launch) : (s.setLaunch k f).teams = s.teams := rfl
@[simp] theorem State.setLaunch_waves (k : Nat) (f : Launch → Launch) : (s.setLaunch k f).waves = s.waves := rfl
@[simp] theorem State.setLaunch_threads (k : Nat) (f : Launch → Launch) : (s.setLaunch k f).threads = s.threads := rfl
@[simp] theorem State.setLaunch_groups (k : Nat) (f : Launch → Launch) : (s.setLaunch k f).groups = s.groups := rfl
@[simp] theorem State.setLaunch_accesses (k : Nat) (f : Launch → Launch) : (s.setLaunch k f).accesses = s.accesses := rfl
@[simp] theorem State.setLaunch_traps (k : Nat) (f : Launch → Launch) : (s.setLaunch k f).traps = s.traps := rfl
@[simp] theorem State.setLaunch_calls (k : Nat) (f : Launch → Launch) : (s.setLaunch k f).calls = s.calls := rfl
@[simp] theorem State.setLaunch_posts (k : Nat) (f : Launch → Launch) : (s.setLaunch k f).posts = s.posts := rfl
@[simp] theorem State.setLaunch_notices (k : Nat) (f : Launch → Launch) : (s.setLaunch k f).notices = s.notices := rfl
@[simp] theorem State.setLaunch_chunks (k : Nat) (f : Launch → Launch) : (s.setLaunch k f).chunks = s.chunks := rfl
@[simp] theorem State.setLaunch_flows (k : Nat) (f : Launch → Launch) : (s.setLaunch k f).flows = s.flows := rfl
@[simp] theorem State.setLaunch_dividers (k : Nat) (f : Launch → Launch) : (s.setLaunch k f).dividers = s.dividers := rfl
@[simp] theorem State.setLaunch_thermal (k : Nat) (f : Launch → Launch) : (s.setLaunch k f).thermal = s.thermal := rfl
@[simp] theorem State.setLaunch_sensors (k : Nat) (f : Launch → Launch) : (s.setLaunch k f).sensors = s.sensors := rfl
@[simp] theorem State.setLaunch_slots (k : Nat) (f : Launch → Launch) : (s.setLaunch k f).slots = s.slots := rfl
@[simp] theorem State.setLaunch_activeSlot (k : Nat) (f : Launch → Launch) : (s.setLaunch k f).activeSlot = s.activeSlot := rfl
@[simp] theorem State.setLaunch_runningSlot (k : Nat) (f : Launch → Launch) : (s.setLaunch k f).runningSlot = s.runningSlot := rfl
@[simp] theorem State.setLaunch_fusedSvn (k : Nat) (f : Launch → Launch) : (s.setLaunch k f).fusedSvn = s.fusedSvn := rfl
@[simp] theorem State.setLaunch_runningSvn (k : Nat) (f : Launch → Launch) : (s.setLaunch k f).runningSvn = s.runningSvn := rfl
@[simp] theorem State.setLaunch_m0 (k : Nat) (f : Launch → Launch) : (s.setLaunch k f).m0 = s.m0 := rfl
@[simp] theorem State.setLaunch_m1 (k : Nat) (f : Launch → Launch) : (s.setLaunch k f).m1 = s.m1 := rfl
@[simp] theorem State.setLaunch_debugged (k : Nat) (f : Launch → Launch) : (s.setLaunch k f).debugged = s.debugged := rfl
@[simp] theorem State.setLaunch_started (k : Nat) (f : Launch → Launch) : (s.setLaunch k f).started = s.started := rfl
@[simp] theorem State.setLaunch_turns (k : Nat) (f : Launch → Launch) : (s.setLaunch k f).turns = s.turns := rfl
@[simp] theorem State.setLaunch_formedAt (k : Nat) (f : Launch → Launch) : (s.setLaunch k f).formedAt = s.formedAt := rfl
@[simp] theorem State.setLaunch_admitTurn (k : Nat) (f : Launch → Launch) : (s.setLaunch k f).admitTurn = s.admitTurn := rfl
@[simp] theorem State.setLaunch_issuedAt (k : Nat) (f : Launch → Launch) : (s.setLaunch k f).issuedAt = s.issuedAt := rfl
@[simp] theorem State.setLaunch_acts (k : Nat) (f : Launch → Launch) : (s.setLaunch k f).acts = s.acts := rfl
@[simp] theorem State.setLaunch_services (k : Nat) (f : Launch → Launch) : (s.setLaunch k f).services = s.services := rfl
@[simp] theorem State.setLaunch_serviceCores (k : Nat) (f : Launch → Launch) : (s.setLaunch k f).serviceCores = s.serviceCores := rfl
@[simp] theorem State.setLaunch_errorCounts (k : Nat) (f : Launch → Launch) : (s.setLaunch k f).errorCounts = s.errorCounts := rfl
@[simp] theorem State.setLaunch_sampled (k : Nat) (f : Launch → Launch) : (s.setLaunch k f).sampled = s.sampled := rfl
@[simp] theorem State.setLaunch_hostEvents (k : Nat) (f : Launch → Launch) : (s.setLaunch k f).hostEvents = s.hostEvents := rfl
@[simp] theorem State.setLaunch_replies (k : Nat) (f : Launch → Launch) : (s.setLaunch k f).replies = s.replies := rfl
@[simp] theorem State.setLaunch_reports (k : Nat) (f : Launch → Launch) : (s.setLaunch k f).reports = s.reports := rfl
@[simp] theorem State.setLaunch_nextId (k : Nat) (f : Launch → Launch) : (s.setLaunch k f).nextId = s.nextId := rfl
@[simp] theorem State.setLaunch_free (k : Nat) (f : Launch → Launch) : (s.setLaunch k f).free = s.free := rfl
@[simp] theorem State.setLaunch_schedule (k : Nat) (f : Launch → Launch) : (s.setLaunch k f).schedule = s.schedule := rfl
@[simp] theorem State.setLaunch_cur (k : Nat) (f : Launch → Launch) : (s.setLaunch k f).cur = s.cur := rfl
@[simp] theorem State.setLaunch_fetched (k : Nat) (f : Launch → Launch) : (s.setLaunch k f).fetched = s.fetched := rfl

/-! ### setFn -/

@[simp] theorem State.setFn_now (k : Nat) (f : Fn → Fn) : (s.setFn k f).now = s.now := rfl
@[simp] theorem State.setFn_boot (k : Nat) (f : Fn → Fn) : (s.setFn k f).boot = s.boot := rfl
@[simp] theorem State.setFn_mem (k : Nat) (f : Fn → Fn) : (s.setFn k f).mem = s.mem := rfl
@[simp] theorem State.setFn_colours (k : Nat) (f : Fn → Fn) : (s.setFn k f).colours = s.colours := rfl
@[simp] theorem State.setFn_valid (k : Nat) (f : Fn → Fn) : (s.setFn k f).valid = s.valid := rfl
@[simp] theorem State.setFn_ecc (k : Nat) (f : Fn → Fn) : (s.setFn k f).ecc = s.ecc := rfl
@[simp] theorem State.setFn_versions (k : Nat) (f : Fn → Fn) : (s.setFn k f).versions = s.versions := rfl
@[simp] theorem State.setFn_past (k : Nat) (f : Fn → Fn) : (s.setFn k f).past = s.past := rfl
@[simp] theorem State.setFn_stood (k : Nat) (f : Fn → Fn) : (s.setFn k f).stood = s.stood := rfl
@[simp] theorem State.setFn_writeNo (k : Nat) (f : Fn → Fn) : (s.setFn k f).writeNo = s.writeNo := rfl
@[simp] theorem State.setFn_hosts (k : Nat) (f : Fn → Fn) : (s.setFn k f).hosts = s.hosts := rfl
@[simp] theorem State.setFn_fences (k : Nat) (f : Fn → Fn) : (s.setFn k f).fences = s.fences := rfl
@[simp] theorem State.setFn_failed (k : Nat) (f : Fn → Fn) : (s.setFn k f).failed = s.failed := rfl
@[simp] theorem State.setFn_launches (k : Nat) (f : Fn → Fn) : (s.setFn k f).launches = s.launches := rfl
@[simp] theorem State.setFn_gangs (k : Nat) (f : Fn → Fn) : (s.setFn k f).gangs = s.gangs := rfl
@[simp] theorem State.setFn_teams (k : Nat) (f : Fn → Fn) : (s.setFn k f).teams = s.teams := rfl
@[simp] theorem State.setFn_waves (k : Nat) (f : Fn → Fn) : (s.setFn k f).waves = s.waves := rfl
@[simp] theorem State.setFn_threads (k : Nat) (f : Fn → Fn) : (s.setFn k f).threads = s.threads := rfl
@[simp] theorem State.setFn_groups (k : Nat) (f : Fn → Fn) : (s.setFn k f).groups = s.groups := rfl
@[simp] theorem State.setFn_accesses (k : Nat) (f : Fn → Fn) : (s.setFn k f).accesses = s.accesses := rfl
@[simp] theorem State.setFn_traps (k : Nat) (f : Fn → Fn) : (s.setFn k f).traps = s.traps := rfl
@[simp] theorem State.setFn_calls (k : Nat) (f : Fn → Fn) : (s.setFn k f).calls = s.calls := rfl
@[simp] theorem State.setFn_posts (k : Nat) (f : Fn → Fn) : (s.setFn k f).posts = s.posts := rfl
@[simp] theorem State.setFn_notices (k : Nat) (f : Fn → Fn) : (s.setFn k f).notices = s.notices := rfl
@[simp] theorem State.setFn_chunks (k : Nat) (f : Fn → Fn) : (s.setFn k f).chunks = s.chunks := rfl
@[simp] theorem State.setFn_flows (k : Nat) (f : Fn → Fn) : (s.setFn k f).flows = s.flows := rfl
@[simp] theorem State.setFn_dividers (k : Nat) (f : Fn → Fn) : (s.setFn k f).dividers = s.dividers := rfl
@[simp] theorem State.setFn_thermal (k : Nat) (f : Fn → Fn) : (s.setFn k f).thermal = s.thermal := rfl
@[simp] theorem State.setFn_sensors (k : Nat) (f : Fn → Fn) : (s.setFn k f).sensors = s.sensors := rfl
@[simp] theorem State.setFn_slots (k : Nat) (f : Fn → Fn) : (s.setFn k f).slots = s.slots := rfl
@[simp] theorem State.setFn_activeSlot (k : Nat) (f : Fn → Fn) : (s.setFn k f).activeSlot = s.activeSlot := rfl
@[simp] theorem State.setFn_runningSlot (k : Nat) (f : Fn → Fn) : (s.setFn k f).runningSlot = s.runningSlot := rfl
@[simp] theorem State.setFn_fusedSvn (k : Nat) (f : Fn → Fn) : (s.setFn k f).fusedSvn = s.fusedSvn := rfl
@[simp] theorem State.setFn_runningSvn (k : Nat) (f : Fn → Fn) : (s.setFn k f).runningSvn = s.runningSvn := rfl
@[simp] theorem State.setFn_m0 (k : Nat) (f : Fn → Fn) : (s.setFn k f).m0 = s.m0 := rfl
@[simp] theorem State.setFn_m1 (k : Nat) (f : Fn → Fn) : (s.setFn k f).m1 = s.m1 := rfl
@[simp] theorem State.setFn_debugged (k : Nat) (f : Fn → Fn) : (s.setFn k f).debugged = s.debugged := rfl
@[simp] theorem State.setFn_started (k : Nat) (f : Fn → Fn) : (s.setFn k f).started = s.started := rfl
@[simp] theorem State.setFn_turns (k : Nat) (f : Fn → Fn) : (s.setFn k f).turns = s.turns := rfl
@[simp] theorem State.setFn_formedAt (k : Nat) (f : Fn → Fn) : (s.setFn k f).formedAt = s.formedAt := rfl
@[simp] theorem State.setFn_admitTurn (k : Nat) (f : Fn → Fn) : (s.setFn k f).admitTurn = s.admitTurn := rfl
@[simp] theorem State.setFn_issuedAt (k : Nat) (f : Fn → Fn) : (s.setFn k f).issuedAt = s.issuedAt := rfl
@[simp] theorem State.setFn_acts (k : Nat) (f : Fn → Fn) : (s.setFn k f).acts = s.acts := rfl
@[simp] theorem State.setFn_services (k : Nat) (f : Fn → Fn) : (s.setFn k f).services = s.services := rfl
@[simp] theorem State.setFn_serviceCores (k : Nat) (f : Fn → Fn) : (s.setFn k f).serviceCores = s.serviceCores := rfl
@[simp] theorem State.setFn_errorCounts (k : Nat) (f : Fn → Fn) : (s.setFn k f).errorCounts = s.errorCounts := rfl
@[simp] theorem State.setFn_sampled (k : Nat) (f : Fn → Fn) : (s.setFn k f).sampled = s.sampled := rfl
@[simp] theorem State.setFn_hostEvents (k : Nat) (f : Fn → Fn) : (s.setFn k f).hostEvents = s.hostEvents := rfl
@[simp] theorem State.setFn_replies (k : Nat) (f : Fn → Fn) : (s.setFn k f).replies = s.replies := rfl
@[simp] theorem State.setFn_reports (k : Nat) (f : Fn → Fn) : (s.setFn k f).reports = s.reports := rfl
@[simp] theorem State.setFn_nextId (k : Nat) (f : Fn → Fn) : (s.setFn k f).nextId = s.nextId := rfl
@[simp] theorem State.setFn_free (k : Nat) (f : Fn → Fn) : (s.setFn k f).free = s.free := rfl
@[simp] theorem State.setFn_schedule (k : Nat) (f : Fn → Fn) : (s.setFn k f).schedule = s.schedule := rfl
@[simp] theorem State.setFn_cur (k : Nat) (f : Fn → Fn) : (s.setFn k f).cur = s.cur := rfl
@[simp] theorem State.setFn_fetched (k : Nat) (f : Fn → Fn) : (s.setFn k f).fetched = s.fetched := rfl

/-! ### wake -/

@[simp] theorem State.wake_now : (s.wake).now = s.now := rfl
@[simp] theorem State.wake_boot : (s.wake).boot = s.boot := rfl
@[simp] theorem State.wake_mem : (s.wake).mem = s.mem := rfl
@[simp] theorem State.wake_colours : (s.wake).colours = s.colours := rfl
@[simp] theorem State.wake_valid : (s.wake).valid = s.valid := rfl
@[simp] theorem State.wake_ecc : (s.wake).ecc = s.ecc := rfl
@[simp] theorem State.wake_versions : (s.wake).versions = s.versions := rfl
@[simp] theorem State.wake_past : (s.wake).past = s.past := rfl
@[simp] theorem State.wake_stood : (s.wake).stood = s.stood := rfl
@[simp] theorem State.wake_writeNo : (s.wake).writeNo = s.writeNo := rfl
@[simp] theorem State.wake_hosts : (s.wake).hosts = s.hosts := rfl
@[simp] theorem State.wake_fences : (s.wake).fences = s.fences := rfl
@[simp] theorem State.wake_failed : (s.wake).failed = s.failed := rfl
@[simp] theorem State.wake_fns : (s.wake).fns = s.fns := rfl
@[simp] theorem State.wake_launches : (s.wake).launches = s.launches := rfl
@[simp] theorem State.wake_gangs : (s.wake).gangs = s.gangs := rfl
@[simp] theorem State.wake_teams : (s.wake).teams = s.teams := rfl
@[simp] theorem State.wake_waves : (s.wake).waves = s.waves := rfl
@[simp] theorem State.wake_threads : (s.wake).threads = s.threads := rfl
@[simp] theorem State.wake_accesses : (s.wake).accesses = s.accesses := rfl
@[simp] theorem State.wake_traps : (s.wake).traps = s.traps := rfl
@[simp] theorem State.wake_calls : (s.wake).calls = s.calls := rfl
@[simp] theorem State.wake_posts : (s.wake).posts = s.posts := rfl
@[simp] theorem State.wake_notices : (s.wake).notices = s.notices := rfl
@[simp] theorem State.wake_chunks : (s.wake).chunks = s.chunks := rfl
@[simp] theorem State.wake_flows : (s.wake).flows = s.flows := rfl
@[simp] theorem State.wake_dividers : (s.wake).dividers = s.dividers := rfl
@[simp] theorem State.wake_thermal : (s.wake).thermal = s.thermal := rfl
@[simp] theorem State.wake_sensors : (s.wake).sensors = s.sensors := rfl
@[simp] theorem State.wake_slots : (s.wake).slots = s.slots := rfl
@[simp] theorem State.wake_activeSlot : (s.wake).activeSlot = s.activeSlot := rfl
@[simp] theorem State.wake_runningSlot : (s.wake).runningSlot = s.runningSlot := rfl
@[simp] theorem State.wake_fusedSvn : (s.wake).fusedSvn = s.fusedSvn := rfl
@[simp] theorem State.wake_runningSvn : (s.wake).runningSvn = s.runningSvn := rfl
@[simp] theorem State.wake_m0 : (s.wake).m0 = s.m0 := rfl
@[simp] theorem State.wake_m1 : (s.wake).m1 = s.m1 := rfl
@[simp] theorem State.wake_debugged : (s.wake).debugged = s.debugged := rfl
@[simp] theorem State.wake_started : (s.wake).started = s.started := rfl
@[simp] theorem State.wake_turns : (s.wake).turns = s.turns := rfl
@[simp] theorem State.wake_formedAt : (s.wake).formedAt = s.formedAt := rfl
@[simp] theorem State.wake_admitTurn : (s.wake).admitTurn = s.admitTurn := rfl
@[simp] theorem State.wake_issuedAt : (s.wake).issuedAt = s.issuedAt := rfl
@[simp] theorem State.wake_acts : (s.wake).acts = s.acts := rfl
@[simp] theorem State.wake_services : (s.wake).services = s.services := rfl
@[simp] theorem State.wake_serviceCores : (s.wake).serviceCores = s.serviceCores := rfl
@[simp] theorem State.wake_errorCounts : (s.wake).errorCounts = s.errorCounts := rfl
@[simp] theorem State.wake_sampled : (s.wake).sampled = s.sampled := rfl
@[simp] theorem State.wake_hostEvents : (s.wake).hostEvents = s.hostEvents := rfl
@[simp] theorem State.wake_replies : (s.wake).replies = s.replies := rfl
@[simp] theorem State.wake_reports : (s.wake).reports = s.reports := rfl
@[simp] theorem State.wake_nextId : (s.wake).nextId = s.nextId := rfl
@[simp] theorem State.wake_free : (s.wake).free = s.free := rfl
@[simp] theorem State.wake_schedule : (s.wake).schedule = s.schedule := rfl
@[simp] theorem State.wake_cur : (s.wake).cur = s.cur := rfl
@[simp] theorem State.wake_fetched : (s.wake).fetched = s.fetched := rfl

@[simp] theorem State.setThread_threads (k : Nat) (f : Thread → Thread) : (s.setThread k f).threads = s.threads.put k (f (s.thread k)) := rfl
@[simp] theorem State.setWave_waves (k : Nat) (f : Wave → Wave) : (s.setWave k f).waves = s.waves.put k (f (s.wave k)) := rfl
@[simp] theorem State.setGroup_groups (k : Nat) (f : Group → Group) : (s.setGroup k f).groups = s.groups.modify k f := rfl
@[simp] theorem State.setTeam_teams (k : Nat) (f : Team → Team) : (s.setTeam k f).teams = s.teams.modify k f := rfl
@[simp] theorem State.setGang_gangs (k : Nat) (f : Gang → Gang) : (s.setGang k f).gangs = s.gangs.modify k f := rfl
@[simp] theorem State.setLaunch_launches (k : Nat) (f : Launch → Launch) : (s.setLaunch k f).launches = s.launches.modify k f := rfl
@[simp] theorem State.setFn_fns (k : Nat) (f : Fn → Fn) : (s.setFn k f).fns = s.fns.modify k f := rfl

end Sys2Proof.Machine
end

