-- ==== Sys2Proof/Laws/Issue.lean ====
section
/-! SUPPORT. What issuing an instruction does, once for every shape: the context of the group, the lanes and subsets it writes, and the
group's advance. -/
namespace Sys2Proof.Machine

/-! ### Reading threads and waves -/

theorem thread_setThread (s : State) (k j : Nat) (f : Thread → Thread) :
    (s.setThread k f).thread j = if j = k then f (s.thread k) else s.thread j := by
  simp only [State.thread, State.setThread_threads, Tab.find_put]
  split <;> rfl

theorem wave_setWave (s : State) (k j : Nat) (f : Wave → Wave) :
    (s.setWave k f).wave j = if j = k then f (s.wave k) else s.wave j := by
  simp only [State.wave, State.setWave_waves, Tab.find_put]
  split <;> rfl

@[simp] theorem wave_setThread (s : State) (k j : Nat) (f : Thread → Thread) : (s.setThread k f).wave j = s.wave j := rfl
@[simp] theorem thread_setWave (s : State) (k j : Nat) (f : Wave → Wave) : (s.setWave k f).thread j = s.thread j := rfl

theorem Wave.raise_zero (w : Wave) : w.raise 0 = w := by simp [Wave.raise]

theorem Wave.raise_raise (w : Wave) (f g : Flags5) : (w.raise f).raise g = w.raise (f ||| g) := by
  simp only [Wave.raise, BitVec.setWidth_or, BitVec.or_assoc]

theorem wave_raise (s : State) (wk j : Nat) (f : Flags5) : (s.raise wk f).wave j = if j = wk then (s.wave wk).raise f else s.wave j := by
  unfold State.raise
  split
  · next h => subst h; simp only [Wave.raise_zero]; split <;> simp_all
  · exact wave_setWave s wk j _

@[simp] theorem thread_raise (s : State) (wk j : Nat) (f : Flags5) : (s.raise wk f).thread j = s.thread j := by
  unfold State.raise
  split <;> rfl

theorem raise_rest (s : State) (wk : Nat) (f : Flags5) : s.raise wk f = { s with waves := (s.raise wk f).waves } := by
  unfold State.raise
  split <;> rfl

/-! ### The context of the group -/

/-- The function as a launch sees it is the launch's function, but for the pages that EVICT took away. -/
theorem fnFor_find {s : State} {lk : Nat} {l : Launch} {f : Fn} (hl : s.launches.find lk = some l) (h : s.fnFor lk = some f) :
    ∃ g ps, s.fns.find l.fn = some g ∧ f = { g with pages := ps } := by
  simp only [State.fnFor, hl, Option.map_eq_some_iff] at h
  obtain ⟨g, hg, rfl⟩ := h
  exact ⟨g, _, hg, rfl⟩

/-- What the context of a group holds of the state. -/
structure Ctx.Of (s : State) (c : Ctx) : Prop where
  cur : s.cur = some c.gkey
  tk : c.tk = teamOfGroup c.gkey
  gk : c.gk = gangOfTeam c.tk
  lk : c.lk = launchOfGang c.gk
  group : s.groups.find c.gkey = some c.g
  team : s.teams.find c.tk = some c.team
  gang : s.gangs.find c.gk = some c.gang
  launch : s.launches.find c.lk = some c.launch
  fn : s.fnFor c.lk = some c.fn
  serves : c.gang.inService = true
  alive : c.launch.fatal = none
  ready : c.g.status = .ready ∨ c.g.status = .waiting
  all : c.all = mkLanes s c.tk c.g.heat 0 c.g.lanes.eraseDups
  lanes : c.lanes = c.all.filter (selected c.g.heat)
  subs : c.subs = mkSubs s c.tk c.lanes
  xact : c.xact = s.nextId

theorem Ctx.of {s : State} {c : Ctx} (h : ctx? s = some c) : Ctx.Of s c := by
  unfold ctx? at h
  cases hc : s.cur with
  | none => simp [hc] at h
  | some gkey =>
    simp only [hc] at h
    split at h
    next g team gang launch hg ht hgang hl =>
      obtain ⟨hs, h⟩ := (Option.ite_none_right_eq_some).1 h
      split at h
      next => cases h
      next fn hf =>
        cases h
        simp only [Bool.and_eq_true, Bool.or_eq_true, beq_iff_eq, Option.isNone_iff_eq_none] at hs
        exact ⟨hc, rfl, rfl, rfl, hg, ht, hgang, hl, hf, hs.1.1.1, hs.1.1.2, hs.1.2, rfl, rfl, rfl, rfl⟩
    next => cases h

/-! ### Lanes and subsets stand for different threads and waves -/

/-- Keeping the first of each thread or wave number leaves a list without repeats; n bounds the recursion. -/
theorem eraseDups_noRepeat : ∀ (n : Nat) (ts : List Nat), ts.length ≤ n → ts.eraseDups.Nodup
  | _, [], _ => by simp
  | n + 1, x :: ts, h => by
    have hl := (List.length_filter_le (fun y => !y == x) ts).trans (Nat.le_of_succ_le_succ h)
    simpa [List.eraseDups_cons, List.mem_eraseDups] using eraseDups_noRepeat n _ hl

theorem mkLanes_mem {s : State} {tk : Nat} {h : Option Heat} {vl : Nat} {ts : List Nat} {l : Lane} (hl : l ∈ mkLanes s tk h vl ts) :
    l.t ∈ ts ∧ l.key = threadKey tk l.t ∧ l.th = s.thread l.key ∧ l.wk = waveKey tk (l.t / 32) ∧ l.wv = s.wave l.wk := by
  induction ts generalizing vl with
  | nil => cases hl
  | cons t ts ih =>
    rcases List.mem_cons.1 hl with rfl | hl
    · exact ⟨List.mem_cons_self, rfl, rfl, rfl, rfl⟩
    · exact ⟨List.mem_cons_of_mem _ (ih hl).1, (ih hl).2⟩

theorem mkLanes_distinct {s : State} {tk : Nat} {h : Option Heat} {vl : Nat} {ts : List Nat} (hn : ts.Nodup) :
    (mkLanes s tk h vl ts).Pairwise fun a b => a.key ≠ b.key := by
  induction ts generalizing vl with
  | nil => exact List.Pairwise.nil
  | cons t ts ih =>
    rw [List.nodup_cons] at hn
    refine List.Pairwise.cons (fun b hb he => ?_) (ih hn.2)
    have hb' := mkLanes_mem hb
    have : threadKey tk t = threadKey tk b.t := he.trans hb'.2.1
    simp only [threadKey] at this
    exact hn.1 ((by omega : t = b.t) ▸ hb'.1)

theorem Ctx.Of.distinct {s : State} {c : Ctx} (h : Ctx.Of s c) : c.lanes.Pairwise fun a b => a.key ≠ b.key := by
  rw [h.lanes, h.all]
  exact (mkLanes_distinct (eraseDups_noRepeat _ _ le_rfl)).filter _

theorem Ctx.Of.lane {s : State} {c : Ctx} (h : Ctx.Of s c) {l : Lane} (hl : l ∈ c.lanes) :
    l.key = threadKey c.tk l.t ∧ l.th = s.thread l.key ∧ l.wk = waveKey c.tk (l.t / 32) ∧ l.wv = s.wave l.wk := by
  rw [h.lanes, h.all] at hl
  exact (mkLanes_mem (List.mem_filter.1 hl).1).2

theorem Ctx.Of.sub {s : State} {c : Ctx} (h : Ctx.Of s c) {w : Sub} (hw : w ∈ c.subs) :
    w.wk = waveKey c.tk w.w ∧ w.wv = s.wave w.wk := by
  rw [h.subs, mkSubs, List.mem_map] at hw
  obtain ⟨n, _, rfl⟩ := hw
  exact ⟨rfl, rfl⟩

theorem Ctx.Of.distinctSubs {s : State} {c : Ctx} (h : Ctx.Of s c) : c.subs.Pairwise fun a b => a.wk ≠ b.wk := by
  rw [h.subs, mkSubs, List.pairwise_map]
  refine (eraseDups_noRepeat _ _ le_rfl).imp fun {a b} hab he => hab ?_
  simp only [waveKey] at he
  omega

@[simp] theorem guarded_lanes (c : Ctx) (k : Nat) : (c.guarded k).lanes = c.lanes := rfl

theorem guarded_subs_pairwise {s : State} {c : Ctx} (h : Ctx.Of s c) (k : Nat) : (c.guarded k).subs.Pairwise fun a b => a.wk ≠ b.wk :=
  h.distinctSubs.filter _

/-! ### Writing lanes and subsets -/

theorem putLanes_other (ps : List (Lane × LaneOut)) (s : State) (k : Nat) (h : ∀ p ∈ ps, k ≠ p.1.key) :
    (s.putLanes ps).thread k = s.thread k := by
  induction ps generalizing s with
  | nil => rfl
  | cons p ps ih =>
    obtain ⟨l, o⟩ := p
    rw [State.putLanes, ih _ fun q hq => h q (List.mem_cons_of_mem _ hq), thread_raise, thread_setThread,
      if_neg (h (l, o) List.mem_cons_self)]

theorem putLanes_mem (ps : List (Lane × LaneOut)) (s : State) (hd : ps.Pairwise fun a b => a.1.key ≠ b.1.key) {l : Lane} {o : LaneOut}
    (h : (l, o) ∈ ps) : (s.putLanes ps).thread l.key = o.th := by
  induction ps generalizing s with
  | nil => cases h
  | cons p ps ih =>
    rw [List.pairwise_cons] at hd
    rcases List.mem_cons.1 h with rfl | h
    · rw [State.putLanes, putLanes_other _ _ _ fun q hq => hd.1 q hq, thread_raise, thread_setThread, if_pos rfl]
    · exact ih _ hd.2 h

theorem putLanes_wave (ps : List (Lane × LaneOut)) (s : State) (k : Nat) :
    (s.putLanes ps).wave k = (s.wave k).raise (((ps.filter fun p => p.1.wk == k).map fun p => p.2.fl).foldl (· ||| ·) 0) := by
  have acc : ∀ (fs : List Flags5) (a : Flags5), fs.foldl (· ||| ·) a = a ||| fs.foldl (· ||| ·) 0 := by
    intro fs
    induction fs with
    | nil => intro a; simp
    | cons f fs ih => intro a; rw [List.foldl_cons, List.foldl_cons, ih, ih (0 ||| f), BitVec.or_assoc, show (0 : Flags5) ||| f = f from BitVec.zero_or]
  induction ps generalizing s with
  | nil => exact (Wave.raise_zero _).symm
  | cons p ps ih =>
    obtain ⟨l, o⟩ := p
    rw [State.putLanes, ih, wave_raise]
    by_cases h : l.wk = k
    · subst h
      have hb : (l.wk == l.wk) = true := by simp
      simp only [List.filter_cons, hb, if_true, List.map_cons, List.foldl_cons]
      rw [wave_setThread, Wave.raise_raise, acc _ (0 ||| o.fl), show (0 : Flags5) ||| o.fl = o.fl from BitVec.zero_or]
    · have hb : (l.wk == k) = false := by simp [h]
      simp only [List.filter_cons, hb, Bool.false_eq_true, if_false]
      rw [if_neg (fun e => h e.symm), wave_setThread]

theorem putLanes_rest (ps : List (Lane × LaneOut)) (s : State) :
    s.putLanes ps = { s with threads := (s.putLanes ps).threads, waves := (s.putLanes ps).waves } := by
  induction ps generalizing s with
  | nil => rfl
  | cons p ps ih =>
    obtain ⟨l, o⟩ := p
    rw [State.putLanes]
    have h := ih ((s.setThread l.key fun _ => o.th).raise l.wk o.fl)
    have hr := raise_rest (s.setThread l.key fun _ => o.th) l.wk o.fl
    generalize ((s.setThread l.key fun _ => o.th).raise l.wk o.fl) = s1 at *
    rw [h, hr]
    rfl

theorem putSubs_other (ps : List (Sub × Wave)) (s : State) (k : Nat) (h : ∀ p ∈ ps, k ≠ p.1.wk) : (s.putSubs ps).wave k = s.wave k := by
  induction ps generalizing s with
  | nil => rfl
  | cons p ps ih =>
    obtain ⟨w, v⟩ := p
    rw [State.putSubs, ih _ fun q hq => h q (List.mem_cons_of_mem _ hq), wave_setWave, if_neg (h (w, v) List.mem_cons_self)]

theorem putSubs_mem (ps : List (Sub × Wave)) (s : State) (hd : ps.Pairwise fun a b => a.1.wk ≠ b.1.wk) {w : Sub} {v : Wave}
    (h : (w, v) ∈ ps) : (s.putSubs ps).wave w.wk = v := by
  induction ps generalizing s with
  | nil => cases h
  | cons p ps ih =>
    rw [List.pairwise_cons] at hd
    rcases List.mem_cons.1 h with rfl | h
    · rw [State.putSubs, putSubs_other _ _ _ fun q hq => hd.1 q hq, wave_setWave, if_pos rfl]
    · exact ih _ hd.2 h

theorem putSubs_rest (ps : List (Sub × Wave)) (s : State) : s.putSubs ps = { s with waves := (s.putSubs ps).waves } := by
  induction ps generalizing s with
  | nil => rfl
  | cons p ps ih => obtain ⟨w, v⟩ := p; rw [State.putSubs, ih]; rfl

/-! ### The group's advance -/

theorem advance_rest (s : State) (c : Ctx) (I : Iss) (b : Bool) :
    advance s c I b = { s with threads := (advance s c I b).threads, gangs := (advance s c I b).gangs, groups := (advance s c I b).groups } := rfl

@[simp] theorem advance_wave (s : State) (c : Ctx) (I : Iss) (b : Bool) (k : Nat) : (advance s c I b).wave k = s.wave k := rfl

/-- Every thread counts the issue, if it is a lane's and the state holds it. -/
theorem advance_thread (s : State) (c : Ctx) (I : Iss) (b : Bool) (k : Nat) :
    (advance s c I b).thread k = (s.threads.find k).elim Thread.init fun t =>
      if (c.lanes.map (·.key)).contains k then { t with issued := t.issued + 1 } else t := by
  simp only [State.thread, advance, countIssue, State.setGroup_threads, Tab.find_mapVals]
  cases s.threads.find k <;> rfl

theorem advance_gang (s : State) (c : Ctx) (I : Iss) (b : Bool) (k : Nat) :
    (advance s c I b).gangs.find k = if k = c.gk then (s.gangs.find k).map fun g =>
      let n := if I.uniform then max 1 (waveNos c.lanes).length else 1
      let g := g.count 2 n
      let g := if I.uniform then g else g.count 3 1
      if c.inHeat then g.count 8 1 else g
    else s.gangs.find k := by
  simp only [advance, countIssue, State.setGroup_gangs, Tab.find_modify]

theorem advance_group (s : State) (c : Ctx) (I : Iss) (b : Bool) (k : Nat) :
    (advance s c I b).groups.find k = if k = c.gkey then (s.groups.find k).map fun g => g.advance c I b else s.groups.find k := by
  simp only [advance, countIssue, State.setGroup_groups, Tab.find_modify]

theorem pastWaits_rest (s : State) (c : Ctx) (I : Iss) : pastWaits s c I = { s with groups := (pastWaits s c I).groups } := rfl

@[simp] theorem pastWaits_thread (s : State) (c : Ctx) (I : Iss) (k : Nat) : (pastWaits s c I).thread k = s.thread k := rfl
@[simp] theorem pastWaits_wave (s : State) (c : Ctx) (I : Iss) (k : Nat) : (pastWaits s c I).wave k = s.wave k := rfl

theorem pastWaits_group (s : State) (c : Ctx) (I : Iss) (k : Nat) : (pastWaits s c I).groups.find k = if k = c.gkey then
    (s.groups.find k).map fun g => { g with windows := pruned g I, acquires := if I.mem then [] else g.acquires } else s.groups.find k := by
  simp only [pastWaits, State.setGroup_groups, Tab.find_modify]

/-- Where an instruction issues with its own effect, its meaning is what that effect yields. -/
theorem exec_issues {i : Instr} {s : State} {c : Ctx} (hi : isEvent i = false) (h : Issues i s c) :
    exec i s = finish (acting i c) (issOf i) (acted i s c) ((issOf i).eff (acting i c) (acted i s c)) := by
  rw [exec_encoded i s hi, issue, h.current]
  have hh : (c.inHeat && (issOf i).forbid) = false := by
    cases e : c.inHeat
    · rfl
    · simp [h.heat e]
  have hl : c.lanes.isEmpty = false := by cases e : c.lanes <;> simp_all [h.lanes]
  have hg : (c.guarded (issOf i).guard).subs.isEmpty = false := by
    cases e : (c.guarded (issOf i).guard).subs
    · exact absurd e h.guard
    · rfl
  simp only [issueIn, hh, h.waits, hl, hg, h.clear, Bool.false_eq_true, if_false, Bool.or_self]
  rfl

/-- An effect that kept gangs but for counters of the group's own, and groups, followed by the advance, moves the group on. -/
theorem goesOn_of_advance {s s1 : State} {c c' : Ctx} {I J : Iss} {n : Nat} (hc : Ctx.Of s c) (hk : c'.gkey = c.gkey) (hg : c'.gk = c.gk)
    (hgroups : ∃ as, ∀ k, s1.groups.find k = if k = c.gkey then
      (s.groups.find k).map fun g => { g with windows := pruned g J, acquires := as } else s.groups.find k)
    (hgangs : ∃ cs, ∀ k, s1.gangs.find k = (s.gangs.find k).map fun g => if k = c.gk then { g with counters := cs } else g)
    (hn : n = 1 + I.lits) : GoesOn s (advance s1 c' I false) c n := by
  subst hn
  obtain ⟨as, hgroups⟩ := hgroups
  obtain ⟨cs, hgangs⟩ := hgangs
  refine ⟨?_, ?_, ?_⟩
  · let g' := (let m := if I.uniform then max 1 (waveNos c'.lanes).length else 1
      let g := ({ c.gang with counters := cs } : Gang).count 2 m
      let g := if I.uniform then g else g.count 3 1
      if c'.inHeat then g.count 8 1 else g)
    refine ⟨g'.counters, fun k => ?_⟩
    rw [advance_gang, hgangs, hg]
    split
    · next e =>
      subst e
      rw [hc.gang]
      simp only [Option.map_some, Gang.count, g']
      split <;> split <;> rfl
    · cases s.gangs.find k <;> rfl
  · refine ⟨((pruned c.g J).map fun w => { w with left := w.left - 1 }) ++ (match I.la with
        | some n => if false || !(I.load || !(I.dests c').isEmpty) then [] else [⟨c'.xact, n, I.load, I.dests c'⟩]
        | none => []), as, ?_⟩
    rw [advance_group, hk, if_pos rfl, hgroups, if_pos rfl, hc.group]
    rfl
  · intro k hne
    rw [advance_group, hk, if_neg hne, hgroups, if_neg hne]

/-- An effect that changed threads and waves only, followed by the advance, moves the group on. -/
theorem moved_of_advance {s s1 : State} {c c' : Ctx} {I J : Iss} {n : Nat} (hc : Ctx.Of s c) (hk : c'.gkey = c.gkey) (hg : c'.gk = c.gk)
    (h1 : s1 = { pastWaits s c J with threads := s1.threads, waves := s1.waves }) (hn : n = 1 + I.lits) :
    Moved s (advance s1 c' I false) c n := by
  refine ⟨goesOn_of_advance (J := J) hc hk hg ⟨if J.mem then [] else c.g.acquires, fun k => ?_⟩ ⟨c.gang.counters, fun k => ?_⟩ hn, ?_⟩
  · have hs : s1.groups = (pastWaits s c J).groups := by rw [h1]
    rw [hs, pastWaits_group]
    split
    · next e => subst e; rw [hc.group]; simp only [Option.map_some]
    · rfl
  · have hs : s1.gangs = s.gangs := by rw [h1]; rfl
    rw [hs]
    by_cases e : k = c.gk
    · subst e; rw [hc.gang]; simp only [Option.map_some, if_true]
    · simp only [if_neg e]; cases s.gangs.find k <;> rfl
  · rw [advance_rest, h1]; rfl

theorem lane_key_contains {c : Ctx} {l : Lane} (h : l ∈ c.lanes) : (c.lanes.map (·.key)).contains l.key = true := by
  simp only [List.contains_iff_mem, List.mem_map]
  exact ⟨l, h, rfl⟩

theorem lane_key_absent {c : Ctx} {k : Nat} (h : ∀ l ∈ c.lanes, k ≠ l.key) : (c.lanes.map (·.key)).contains k = false := by
  cases e : (c.lanes.map (·.key)).contains k
  · rfl
  · simp only [List.contains_iff_mem, List.mem_map] at e
    obtain ⟨l, hl, he⟩ := e
    exact absurd he.symm (h l hl)

/-- A thread that a lane writes stands in the table afterwards. -/
theorem putLanes_find (ps : List (Lane × LaneOut)) (s : State) {l : Lane} {o : LaneOut} (h : (l, o) ∈ ps) :
    ((s.putLanes ps).threads.find l.key).isSome := by
  have keep : ∀ (ps : List (Lane × LaneOut)) (s : State) (k : Nat), (s.threads.find k).isSome → ((s.putLanes ps).threads.find k).isSome := by
    intro ps
    induction ps with
    | nil => intro s k h; exact h
    | cons p ps ih =>
      intro s k h
      obtain ⟨m, q⟩ := p
      refine ih _ k ?_
      rw [raise_rest]
      show ((s.threads.put m.key _).find k).isSome
      rw [Tab.find_put]
      split <;> simp_all
  induction ps generalizing s with
  | nil => cases h
  | cons p ps ih =>
    rcases List.mem_cons.1 h with rfl | h
    · refine keep ps _ _ ?_
      rw [raise_rest]
      show ((s.threads.put l.key _).find l.key).isSome
      rw [Tab.find_put, if_pos rfl]
      rfl
    · exact ih _ h

/-- An effect that writes the selected lanes makes them what it gives. -/
theorem lanesBecome {s s1 : State} {c c' : Ctx} {I : Iss} {b : Bool} {new : Ctx → Lane → Thread} {fl : Ctx → Lane → Flags5}
    (hc : Ctx.Of s c) (hl : c'.lanes = c.lanes) (ht : ∀ k, s1.thread k = s.thread k) (hw : ∀ k, s1.wave k = s.wave k) :
    LanesBecome s (advance (s1.putLanes (c'.lanes.map fun l => (l, ⟨new c' l, fl c' l⟩))) c' I b) c' new fl := by
  have hd : (c'.lanes.map fun l => (l, (⟨new c' l, fl c' l⟩ : LaneOut))).Pairwise fun a b => a.1.key ≠ b.1.key := by
    rw [List.pairwise_map, hl]; exact hc.distinct
  refine ⟨fun l hm => ?_, fun k hk => ?_, fun k => ?_⟩
  · have hmem : (l, (⟨new c' l, fl c' l⟩ : LaneOut)) ∈ c'.lanes.map fun l => (l, (⟨new c' l, fl c' l⟩ : LaneOut)) :=
      List.mem_map.2 ⟨l, hm, rfl⟩
    have hv := putLanes_mem _ s1 hd hmem
    have hf := putLanes_find _ s1 hmem
    rw [advance_thread]
    unfold State.thread at hv
    cases e : (s1.putLanes (c'.lanes.map fun l => (l, (⟨new c' l, fl c' l⟩ : LaneOut)))).threads.find l.key with
    | none => rw [e] at hf; cases hf
    | some t =>
      rw [e] at hv
      simp only [Option.getD_some] at hv
      simp only [Option.elim_some, lane_key_contains hm, if_true, hv, Thread.counted]
  · have hv := putLanes_other (c'.lanes.map fun l => (l, (⟨new c' l, fl c' l⟩ : LaneOut))) s1 k (by
      intro p hp
      obtain ⟨l, hl, rfl⟩ := List.mem_map.1 hp
      exact hk l hl)
    rw [advance_thread, lane_key_absent hk]
    rw [ht] at hv
    rw [← hv]
    unfold State.thread
    cases (s1.putLanes (c'.lanes.map fun l => (l, (⟨new c' l, fl c' l⟩ : LaneOut)))).threads.find k <;> rfl
  · rw [advance_wave, putLanes_wave, hw, flagsTo, List.filter_map, List.map_map]
    rfl

/-- Threads after the advance are as before but for their counts. -/
theorem advance_threadsKept {s s1 : State} {c : Ctx} {I : Iss} {b : Bool} (ht : ∀ k, s1.thread k = s.thread k) : ThreadsKept s (advance s1 c I b) := by
  intro k
  rw [advance_thread, ← ht]
  unfold State.thread
  cases s1.threads.find k with
  | none => exact ⟨Thread.init.issued, rfl⟩
  | some t =>
    simp only [Option.elim_some, Option.getD_some]
    split
    · exact ⟨_, rfl⟩
    · exact ⟨t.issued, rfl⟩

/-- An effect that writes the acting subsets makes them what it gives. -/
theorem subsBecome {s s1 : State} {c : Ctx} {I : Iss} {b : Bool} {new : Ctx → Sub → Wave}
    (hd : c.subs.Pairwise fun a b => a.wk ≠ b.wk) (ht : ∀ k, s1.thread k = s.thread k) (hw : ∀ k, s1.wave k = s.wave k) :
    SubsBecome s (advance (s1.putSubs (c.subs.map fun w => (w, new c w))) c I b) c new := by
  have hp : (c.subs.map fun w => (w, new c w)).Pairwise fun a b => a.1.wk ≠ b.1.wk := by rw [List.pairwise_map]; exact hd
  refine ⟨fun w hm => ?_, fun k hk => ?_, ?_⟩
  · rw [advance_wave]
    exact putSubs_mem _ s1 hp (List.mem_map.2 ⟨w, hm, rfl⟩)
  · rw [advance_wave, putSubs_other _ s1 k, hw]
    intro p hp
    obtain ⟨w, hw, rfl⟩ := List.mem_map.1 hp
    exact hk w hw
  · exact advance_threadsKept fun k => by rw [← ht, putSubs_rest]; rfl

/-- A lane instruction whose effect writes each selected lane completes. -/
theorem laneDoes_of {i : Instr} {n : Nat} {new : Ctx → Lane → Thread} {fl : Ctx → Lane → Flags5} (hi : isEvent i = false)
    (hn : n = 1 + (issOf i).lits)
    (he : ∀ c s, (issOf i).eff c s = .done (eachLane c s fun l => ⟨new c l, fl c l⟩)) : LaneDoes i n new fl := by
  intro s c h
  have hc := Ctx.of h.current
  rw [exec_issues hi h, he]
  refine ⟨_, rfl, moved_of_advance hc rfl rfl (J := issOf i) ?_ hn, lanesBecome hc rfl (fun _ => rfl) (fun _ => rfl)⟩
  rw [eachLane, putLanes_rest]
  rfl

/-- A uniform instruction whose effect writes each acting subset completes. -/
theorem subDoes_of {i : Instr} {n : Nat} {new : Ctx → Sub → Wave} (hi : isEvent i = false) (hn : n = 1 + (issOf i).lits)
    (he : ∀ c s, (issOf i).eff c s = .done (eachSub c s fun w => new c w)) : SubDoes i n new := by
  intro s c h
  have hc := Ctx.of h.current
  rw [exec_issues hi h, he]
  refine ⟨_, rfl, moved_of_advance hc rfl rfl (J := issOf i) ?_ hn,
    subsBecome (guarded_subs_pairwise hc _) (fun _ => rfl) (fun _ => rfl)⟩
  rw [eachSub, putSubs_rest]
  rfl

theorem firstBad_none {c : Ctx} {f : Sub → Option (Cause × Nat × Nat)} (h : ∀ w ∈ c.subs, f w = none) : firstBad c f = none := by
  simp only [firstBad, List.findSome?_eq_none_iff]
  intro w hw
  rw [h w hw]
  rfl

theorem firstBad_some {c : Ctx} {f : Sub → Option (Cause × Nat × Nat)} {pre post : List Sub} {w : Sub} {cause : Cause} {obj off : Nat}
    (hs : c.subs = pre ++ w :: post) (hp : ∀ v ∈ pre, f v = none) (hw : f w = some (cause, obj, off)) :
    firstBad c f = some { c.trapArgs cause (lowLane w.lanes) with object := obj, offset := off } := by
  rw [firstBad, hs, List.findSome?_append, List.findSome?_eq_none_iff.2 fun v hv => by rw [hp v hv]; rfl]
  simp only [List.findSome?_cons, hw, Option.map_some, Option.none_or]

/-- A uniform instruction that checks every subset and then writes the subsets. -/
theorem subChecked_of {i : Instr} {n : Nat} {bad : Ctx → Sub → Option (Cause × Nat × Nat)} {new : Ctx → Sub → Wave} (hi : isEvent i = false)
    (hn : n = 1 + (issOf i).lits)
    (he : ∀ c s, (issOf i).eff c s = match firstBad c (bad c) with
      | some t => .trap t
      | none => .done (eachSub c s fun w => new c w)) : SubChecked i n bad new := by
  refine ⟨fun s c h hb => ?_, fun s c pre w post cause obj off h hs hp hw => ?_⟩
  · have hc := Ctx.of h.current
    rw [exec_issues hi h, he, firstBad_none hb]
    refine ⟨_, rfl, moved_of_advance hc rfl rfl (J := issOf i) ?_ hn,
      subsBecome (guarded_subs_pairwise hc _) (fun _ => rfl) (fun _ => rfl)⟩
    rw [eachSub, putSubs_rest]
    rfl
  · rw [exec_issues hi h, he, firstBad_some hs hp hw]
    rfl

end Sys2Proof.Machine
end

