-- ==== Sys2Proof/Laws/Memory.lean ====
section
/-! SUPPORT. What memory instructions do at issue: the checks of their lanes, the accesses that leave, and the store windows. -/
namespace Sys2Proof.Machine

/-! ### Checks -/

/-- A passed check answers the object and the place in it. -/
theorem checkCap_ok {c : Cap} {a : Int} {n : Nat} {r : Right} {p : Nat × Nat} (h : checkCap c a n r = .ok p) :
    p = (c.object, (((c.base : Int) + a) % 2 ^ 64).toNat) := by
  simp only [checkCap] at h
  split_ifs at h
  exact (Except.ok.inj h).symm

theorem want_check_ok {w : Want} {p : Nat × Nat} : ∀ {rs : List Right} (rt : Right), w.check (rt :: rs) = .ok p →
    p = (w.cap.object, (((w.cap.base : Int) + w.a) % 2 ^ 64).toNat)
  | [], _, h => checkCap_ok h
  | q :: qs, rt, h => want_check_ok q (by
      rw [Want.check] at h
      · cases hc : checkCap w.cap w.a w.size rt with
        | error e => simp [hc] at h
        | ok r => simpa [hc] using h
      · simp)

theorem checkWants_ok {c : Ctx} {ws : List (List Nat × Nat × Want)} (h : WantsPass ws) (hr : ∀ q ∈ ws, q.2.2.rights ≠ []) :
    checkWants c ws = .ok (ws.map reqOf) := by
  induction ws with
  | nil => rfl
  | cons q ws ih =>
    obtain ⟨ts, wk, w⟩ := q
    obtain ⟨p, hp⟩ := h _ List.mem_cons_self
    have hw := hr _ List.mem_cons_self
    rw [checkWants, ih (fun q hq => h q (List.mem_cons_of_mem _ hq)) fun q hq => hr q (List.mem_cons_of_mem _ hq)]
    simp only at hp hw
    rw [hp]
    cases e : w.rights with
    | nil => exact absurd e hw
    | cons rt rs =>
      rw [e] at hp
      rw [want_check_ok _ hp]
      rfl

theorem checkWants_error {c : Ctx} {pre post : List (List Nat × Nat × Want)} {p : List Nat × Nat × Want} {e : Cause × Nat × Nat}
    (h : WantsPass pre) (hp : p.2.2.check p.2.2.rights = .error e) :
    checkWants c (pre ++ p :: post) = .error { c.trapArgs e.1 (p.1.headD 0) with object := e.2.1, offset := e.2.2 } := by
  induction pre with
  | nil =>
    obtain ⟨ts, wk, w⟩ := p
    rw [List.nil_append, checkWants]
    simp only at hp
    rw [hp]
  | cons q pre ih =>
    obtain ⟨ts, wk, w⟩ := q
    obtain ⟨r, hr⟩ := h _ List.mem_cons_self
    rw [List.cons_append, checkWants, ih fun q hq => h q (List.mem_cons_of_mem _ hq)]
    simp only at hr
    rw [hr]

/-- An instruction that first checks what its lanes ask traps where a check fails. -/
theorem memTraps_of {i : Instr} {wants : Ctx → List (List Nat × Nat × Want)} (hi : isEvent i = false) {k : Ctx → State → List Req → Eff}
    (he : ∀ c s, (issOf i).eff c s = match checkWants c (wants c) with | .error e => .trap e | .ok qs => k c s qs) : MemTraps i wants := by
  intro s c pre p post e h hw hpre hp
  rw [exec_issues hi h, he, hw, checkWants_error hpre hp]
  rfl

theorem laneWants_reqs (n : Nat) (disp : Int) (x b : Nat) (rs : List Right) (c : Ctx) :
    (laneWants n disp x b rs c).map reqOf = c.lanes.map (laneReq n disp x b c) := by
  simp only [laneWants, List.map_map]
  rfl

theorem laneWants_rights {n : Nat} {disp : Int} {x b : Nat} {rt : Right} {rs : List Right} {c : Ctx} :
    ∀ q ∈ laneWants n disp x b (rt :: rs) c, q.2.2.rights ≠ [] := by
  intro q hq
  obtain ⟨l, _, rfl⟩ := List.mem_map.1 hq
  simp

theorem zip_map_self {α β : Type} (f : α → β) (l : List α) : (l.map f).zip l = l.map fun a => (f a, a) := by
  induction l with
  | nil => rfl
  | cons a l ih => simp only [List.map_cons, List.zip_cons_cons, ih]

/-! ### Accesses that leave -/

theorem launchAccs_nextId (accs : List Access) (s : State) : (s.launchAccs accs).nextId = s.nextId + accs.length := by
  induction accs generalizing s with
  | nil => rfl
  | cons a accs ih => rw [State.launchAccs, ih, List.length_cons]; simp only; omega

theorem launchAccs_rest (accs : List Access) (s : State) :
    s.launchAccs accs = { s with accesses := (s.launchAccs accs).accesses, nextId := (s.launchAccs accs).nextId } := by
  induction accs generalizing s with
  | nil => rfl
  | cons a accs ih => rw [State.launchAccs, ih]

theorem launchAccs_kept (accs : List Access) (s : State) (j : Nat) (h : j < s.nextId ∨ s.nextId + accs.length ≤ j) :
    (s.launchAccs accs).accesses.find j = s.accesses.find j := by
  induction accs generalizing s with
  | nil => rfl
  | cons a accs ih =>
    simp only [List.length_cons] at h
    rw [State.launchAccs, ih _ (by simp only; omega)]
    simp only [Tab.find_put]
    rw [if_neg (by omega)]

theorem launchAccs_sent (accs : List Access) (s : State) (k : Nat) (a : Access) (h : accs[k]? = some a) :
    (s.launchAccs accs).accesses.find (s.nextId + k) = some { a with seq := s.nextId + k } := by
  induction accs generalizing s k with
  | nil => cases h
  | cons b accs ih =>
    rw [State.launchAccs]
    cases k with
    | zero =>
      cases h
      rw [launchAccs_kept _ _ _ (by simp only; omega)]
      simp only [Tab.find_put]
      rw [if_pos (by omega)]
      rfl
    | succ k =>
      have := ih { s with accesses := s.accesses.put s.nextId { b with seq := s.nextId }, nextId := s.nextId + 1 } k (by simpa using h)
      have e : s.nextId + (k + 1) = s.nextId + 1 + k := by omega
      rw [e]
      exact this

/-- An effect that changed threads, waves, its gang's counters and its group's acquires, and sent accesses, followed by the advance. -/
theorem sent_of_advance {s s0 : State} {c c' : Ctx} {I J : Iss} {n : Nat} {accs : List Access} (hc : Ctx.Of s c)
    (hk : c'.gkey = c.gkey) (hg : c'.gk = c.gk) (h0 : s0 = { pastWaits s c J with threads := s0.threads, waves := s0.waves })
    {f : Gang → Gang} (hf : ∀ g, f g = { g with counters := (f g).counters }) (hn : n = 1 + I.lits) :
    Sent s (advance ((s0.launchAccs accs).setGang c'.gk f) c' I false) c n accs := by
  have hr := launchAccs_rest accs s0
  have hgr : (s0.launchAccs accs).groups = (pastWaits s c J).groups := by rw [hr, h0]
  have hga : (s0.launchAccs accs).gangs = s.gangs := by rw [hr, h0]; rfl
  have hid : s0.nextId = s.nextId := by rw [h0]; rfl
  have hac : s0.accesses = s.accesses := by rw [h0]; rfl
  refine ⟨goesOn_of_advance (J := J) hc hk hg ⟨if J.mem then [] else c.g.acquires, fun k => ?_⟩
    ⟨(f c.gang).counters, fun k => ?_⟩ hn, ?_, ?_, ?_, ?_⟩
  · rw [show ((s0.launchAccs accs).setGang c'.gk f).groups = (s0.launchAccs accs).groups from rfl, hgr, pastWaits_group]
    split
    · next e => subst e; rw [hc.group]; simp only [Option.map_some]
    · rfl
  · rw [show ((s0.launchAccs accs).setGang c'.gk f).gangs = (s0.launchAccs accs).gangs.modify c'.gk f from rfl,
      hga, Tab.find_modify, hg]
    split
    · next e => subst e; rw [hc.gang]; simp only [Option.map_some]; rw [hf c.gang]
    · cases s.gangs.find k <;> rfl
  · rw [advance_rest, hr, h0]
    rfl
  · show (s0.launchAccs accs).nextId = _
    rw [launchAccs_nextId, hid]
  · intro k a h
    show (s0.launchAccs accs).accesses.find _ = _
    rw [← hid, launchAccs_sent accs s0 k a h]
  · intro j h
    show (s0.launchAccs accs).accesses.find j = _
    rw [launchAccs_kept accs s0 j (by rw [hid]; exact h), hac]

/-! ### Lane loads and stores -/

theorem launchAccs_thread (accs : List Access) (s : State) (k : Nat) : (s.launchAccs accs).thread k = s.thread k := by
  rw [launchAccs_rest]; rfl
theorem launchAccs_wave (accs : List Access) (s : State) (k : Nat) : (s.launchAccs accs).wave k = s.wave k := by
  rw [launchAccs_rest]; rfl

/-- Every lane load is one of this shape. -/
theorem laneLoads_of {i : Instr} {n k words lits t x b l : Nat} {conv : Conv} {disp : Int} (hi : isEvent i = false)
    (he : issOf i = laneLoad n k conv lits disp t x b l) (hn : words = 1 + lits) : LaneLoads i words n k conv disp t x b := by
  refine ⟨fun s c h hp => ?_, memTraps_of hi fun c s => by rw [he]; rfl⟩
  have hc := Ctx.of h.current
  have hq : checkWants (acting i c) (laneWants n disp x b [.r] (acting i c)) = .ok ((acting i c).lanes.map (laneReq n disp x b (acting i c))) := by
    rw [checkWants_ok (ws := laneWants n disp x b [.r] (acting i c)) hp laneWants_rights, laneWants_reqs]
  have hf : (issOf i).eff (acting i c) (acted i s c) = .done (sendLoads (acting i c) (acted i s c) ((acting i c).issued [x])
      ((((acting i c).lanes.map (laneReq n disp x b (acting i c))).zip (acting i c).lanes).map fun q =>
        (q.1, ⟨[q.2.t], q.2.wk, q.1.off, n, (acting i c).span q.2 t k, conv, 0, none, q.1.cap⟩))) := by
    rw [he]
    show (match checkWants (acting i c) (laneWants n disp x b [.r] (acting i c)) with | .error e => _ | .ok qs => _) = _
    rw [hq]
  rw [exec_issues hi h, hf, zip_map_self, List.map_map]
  refine ⟨_, rfl, ?_, ?_, ?_⟩
  · exact sent_of_advance (s0 := acted i s c) (c' := acting i c) (I := issOf i) (J := issOf i) hc rfl rfl rfl (fun _ => rfl) (by rw [he]; exact hn)
  · exact advance_threadsKept fun k => by
      show ((acted i s c).launchAccs _).thread k = _
      rw [launchAccs_thread]; rfl
  · intro k
    show ((acted i s c).launchAccs _).wave k = _
    rw [launchAccs_wave]; rfl

theorem Ctx.Of.lane_t {s : State} {c : Ctx} (h : Ctx.Of s c) : c.lanes.Pairwise fun a b => a.t ≠ b.t := by
  refine List.Pairwise.imp_of_mem (fun {a b} ha hb hab e => hab ?_) h.distinct
  rw [(h.lane ha).1, (h.lane hb).1, e]

theorem entries_one (ls : List Lane) (f : Lane → Req) (hf : ∀ l, (f l).threads = [l.t]) (hd : ls.Pairwise fun a b => a.t ≠ b.t) {l : Lane}
    (hl : l ∈ ls) : entriesOf (ls.map f) l.t = 1 := by
  induction ls with
  | nil => cases hl
  | cons m ls ih =>
    rw [List.pairwise_cons] at hd
    simp only [entriesOf, List.map_cons, List.filter_cons, hf] at ih ⊢
    rcases List.mem_cons.1 hl with rfl | h
    · have h0 : (ls.map f).filter (fun q => q.threads.contains l.t) = [] := by
        rw [List.filter_eq_nil_iff]
        intro q hq
        obtain ⟨k, hk, rfl⟩ := List.mem_map.1 hq
        rw [hf]
        simp [hd.1 k hk]
      rw [h0]
      simp
    · have hne : m.t ≠ l.t := hd.1 l h
      have : ([m.t].contains l.t) = false := by simp; exact fun e => hne e.symm
      rw [this]
      exact ih hd.2 h

theorem windowFits_lanes {s : State} {c : Ctx} (h : Ctx.Of s c) (f : Lane → Req) (hf : ∀ l, (f l).threads = [l.t]) :
    windowFits c s (c.lanes.map f) = true ↔ ∀ l ∈ c.lanes, storesOf s c.tk l.t < 64 := by
  simp only [windowFits, List.all_eq_true, List.mem_flatMap, List.mem_map, decide_eq_true_eq]
  constructor
  · intro hw l hl
    have := hw l.t ⟨f l, ⟨l, hl, rfl⟩, by rw [hf]; exact List.mem_cons_self⟩
    rw [entries_one c.lanes f hf h.lane_t hl] at this
    omega
  · rintro hw t ⟨q, ⟨l, hl, rfl⟩, ht⟩
    rw [hf] at ht
    rw [List.mem_singleton.1 ht, entries_one c.lanes f hf h.lane_t hl]
    have := hw l hl
    omega

/-- Lanes that write their own threads and raise flags, then accesses sent: the lanes become what they wrote. -/
theorem lanesBecome_sent {s : State} {c c' : Ctx} {I J : Iss} {new : Ctx → Lane → Thread} {fl : Ctx → Lane → Flags5} (accs : List Access)
    (f : Gang → Gang) (hc : Ctx.Of s c) (hl : c'.lanes = c.lanes) :
    LanesBecome s (advance (((eachLane c' (pastWaits s c J) fun l => ⟨new c' l, fl c' l⟩).launchAccs accs).setGang c'.gk f) c' I false) c' new fl := by
  have hb := lanesBecome (s := s) (s1 := pastWaits s c J) (c := c) (c' := c') (I := I) (b := false) (new := new) (fl := fl) hc hl
    (fun _ => rfl) (fun _ => rfl)
  have ht : ∀ k, (advance (((eachLane c' (pastWaits s c J) fun l => ⟨new c' l, fl c' l⟩).launchAccs accs).setGang c'.gk f) c' I false).thread k
      = (advance ((pastWaits s c J).putLanes (c'.lanes.map fun l => (l, ⟨new c' l, fl c' l⟩))) c' I false).thread k := by
    intro k
    rw [advance_thread, advance_thread, launchAccs_rest]
    rfl
  have hw : ∀ k, (advance (((eachLane c' (pastWaits s c J) fun l => ⟨new c' l, fl c' l⟩).launchAccs accs).setGang c'.gk f) c' I false).wave k
      = (advance ((pastWaits s c J).putLanes (c'.lanes.map fun l => (l, ⟨new c' l, fl c' l⟩))) c' I false).wave k := by
    intro k
    rw [advance_wave, advance_wave, launchAccs_rest]
    rfl
  exact ⟨fun l h => (ht _).trans (hb.lanes l h), fun k h => (ht k).trans (hb.others k h), fun k => (hw k).trans (hb.waves k)⟩

/-- Every plain, format or spill store is one of this shape. -/
theorem laneStores_of {i : Instr} {n k words lits t x b l : Nat} {data : Ctx → Lane → Nat × Flags5 × Nat} {disp : Int}
    (hi : isEvent i = false) (he : issOf i = laneStore n k data lits disp t x b l) (hd : ∀ c g l, data (c.guarded g) l = data c l)
    (hn : words = 1 + lits) : LaneStores i words n (x :: (List.range k).map (t + ·)) data disp x b := by
  have hq : ∀ c, WantsPass (laneWants n disp x b [.w] c) →
      checkWants (acting i c) (laneWants n disp x b [.w] (acting i c)) = .ok (c.lanes.map (laneReq n disp x b c)) := by
    intro c hp
    rw [checkWants_ok (ws := laneWants n disp x b [.w] (acting i c)) hp laneWants_rights, laneWants_reqs]
    rfl
  have hw : ∀ s c, Ctx.Of s c → (windowFits (acting i c) (acted i s c) (c.lanes.map (laneReq n disp x b c)) = true ↔
      ∀ l ∈ c.lanes, storesOf s c.tk l.t < 64) := fun s c hc => windowFits_lanes hc (laneReq n disp x b c) fun _ => rfl
  refine ⟨fun s c h hp hf => ?_, fun s c h hp hf => ?_, memTraps_of hi fun c s => by rw [he]; rfl⟩
  · have hc := Ctx.of h.current
    have hf' := (hw s c hc).2 hf
    rw [exec_issues hi h]
    have hx : (issOf i).eff (acting i c) (acted i s c) = .done (sendStores (acting i c)
        (atIssue (acting i c) (acted i s c) fun l => ⟨l.th.drew (data (acting i c) l).2.2, (data (acting i c) l).2.1⟩)
        ((acting i c).issued (x :: (List.range k).map (t + ·)))
        (((c.lanes.map (laneReq n disp x b c)).zip (acting i c).lanes).map fun q => (q.1, .store (data (acting i c) q.2).1 none))) := by
      rw [he]
      show (match checkWants (acting i c) (laneWants n disp x b [.w] (acting i c)) with | .error e => _ | .ok qs => _) = _
      rw [hq c hp]
      simp only
      rw [if_pos hf']
    rw [hx, show (acting i c).lanes = c.lanes from rfl, zip_map_self, List.map_map]
    refine ⟨_, rfl, ?_, ?_⟩
    · have hs := sent_of_advance (s := s) (c := c) (c' := acting i c) (I := issOf i) (J := issOf i) (n := words)
        (f := (·.count 5 (((c.lanes.map ((fun q => (q.1, AKind.store (data (acting i c) q.2).1 none)) ∘ fun a => (laneReq n disp x b c a, a))).map
          fun q => q.1.threads.length)).sum))
        (s0 := eachLane (acting i c) (acted i s c) fun l => ⟨l.th.drew (data (acting i c) l).2.2, (data (acting i c) l).2.1⟩)
        (accs := (c.lanes.map ((fun q => (q.1, AKind.store (data (acting i c) q.2).1 none)) ∘ fun a => (laneReq n disp x b c a, a))).map
          fun q => writeAccess (acting i c) ((acting i c).issued (x :: (List.range k).map (t + ·))) q.1 q.2 false)
        hc rfl rfl (by rw [eachLane, putLanes_rest]; rfl) (fun _ => rfl) (by rw [he]; exact hn)
      rw [List.map_map] at hs
      have hm : (c.lanes.map ((fun q : Req × AKind => writeAccess (acting i c) ((acting i c).issued (x :: (List.range k).map (t + ·))) q.1 q.2 false) ∘
          ((fun q => (q.1, AKind.store (data (acting i c) q.2).1 none)) ∘ fun a => (laneReq n disp x b c a, a)))) =
          c.lanes.map fun l => writeAccess c (c.issued (x :: (List.range k).map (t + ·))) (laneReq n disp x b c l) (.store (data c l).1 none) false := by
        refine List.map_congr_left fun l _ => ?_
        simp only [Function.comp, acting, hd]
        rfl
      rw [hm] at hs
      simp only [sendStores, atIssue]
      rw [List.map_map, hm]
      exact hs
    · exact lanesBecome_sent (I := issOf i) (J := issOf i) (new := fun c l => l.th.drew (data c l).2.2) (fl := fun c l => (data c l).2.1) _ _ hc rfl
  · have hc := Ctx.of h.current
    have hf' : windowFits (acting i c) (acted i s c) (c.lanes.map (laneReq n disp x b c)) = false := by
      rw [Bool.eq_false_iff]
      intro e
      obtain ⟨l, hl, hle⟩ := hf
      have := (hw s c hc).1 e l hl
      omega
    rw [exec_issues hi h]
    have hx : (issOf i).eff (acting i c) (acted i s c) = .wait := by
      rw [he]
      show (match checkWants (acting i c) (laneWants n disp x b [.w] (acting i c)) with | .error e => _ | .ok qs => _) = _
      rw [hq c hp]
      simp only
      rw [if_neg (by rw [hf']; simp)]
    rw [hx]
    rfl

end Sys2Proof.Machine
end

