-- ==== Sys2Proof/Laws/Step.lean ====
section
/-! SUPPORT. What a step can do: the inversion of step, of a move and of an act. -/
namespace Sys2Proof.Machine

@[simp] theorem noteHeads_mem (s : State) : (noteHeads s).mem = s.mem := rfl
@[simp] theorem markEligible_mem (s : State) (ks : List Nat) : (markEligible s ks).mem = s.mem := rfl
theorem idleCores_mem (dt : Nat) (cs : List Nat) (s : State) : (cs.foldl (fun s core =>
    let bs := (liveBins s core false).filter fun p => !p.2.eligible
    if !bs.isEmpty && idleCycle s core dt && noneReady s core then markEligible s (bs.map (·.1)) else s) s).mem = s.mem := by
  induction cs generalizing s with
  | nil => rfl
  | cons c t ih => rw [List.foldl_cons, ih]; simp only; split <;> rfl
@[simp] theorem idleBins_mem (s : State) (dt : Nat) : (idleBins s dt).mem = s.mem := idleCores_mem dt _ s
@[simp] theorem elapse_mem (s : State) (dt : Nat) : (s.elapse dt).mem = s.mem := by
  unfold State.elapse
  split
  · rfl
  · exact idleBins_mem s dt
@[simp] theorem ranked_mem (s : State) (r : Nat) (q : Option Nat) : (s.ranked r q).mem = s.mem := rfl
@[simp] theorem unfresh_mem (s : State) (k no : Nat) : (s.unfresh k no).mem = s.mem := rfl
@[simp] theorem issued_mem (s : State) (core k no : Nat) : (issued s core k no).mem = s.mem := by
  unfold issued
  split <;> rfl
@[simp] theorem stepIn_mem (s : State) (gk dt : Nat) : (s.stepIn gk dt).mem = s.mem := rfl

/-- Events of the memory side, one after another. -/
inductive Performed : State → State → Prop
  | refl (s : State) : Performed s s
  | step {s x t : State} (i : Instr) (hi : isEvent i = true) (h : exec i s = .next x) (ht : Performed x t) : Performed s t

/-- What a word of a service context does: it changes that context, and may take a free value; or, done as a thread by itself would do it, it is an
instruction on the stage, and the access it makes is performed. -/
inductive ServiceGoes (s t : State) (c : Nat) : Prop
  | own (x : Service) (n : Nat) (h : t = { s with services := s.services.put c x, free := n })
  | thread (x : Service) (k w l1 l2 : Nat) (u v : State) (hu : runWord k w l1 l2 128 false (onStage s c x) = .next u) (hv : Performed u v)
      (h : t = offStage s v c x)

/-- What an act does when it goes, in a move of dt units: nothing; a word of a service context; an error in memory; an event, whose rank is noted; a group's
turn; a debugger's step. -/
inductive ActGoes (s t : State) (dt : Nat) : Act → Prop
  | idle (h : t = s) : ActGoes s t dt .idle
  | service (c w : Nat) (ls : List Nat) (h : ServiceGoes s t c) : ActGoes s t dt (.service c w ls)
  | upset (k : Nat) (c : Bool) (h : t = Machine.upset k c s) : ActGoes s t dt (.upset k c)
  | event (i : Instr) (x : State) (hi : isEvent i = true) (h : exec i s = .next x) (ht : t = x ∨ ∃ r, rankWait s r (eventQuad s i) = 0 ∧ t = x.ranked r (eventQuad s i)) :
      ActGoes s t dt (.event i)
  | turn (k : Nat) (x : State) (hk : nextOn s (coreOfGroup s k) = some k) (h : runGroup k s = .next x)
      (ht : t = issued x (coreOfGroup s k) k (((s.groups.find k).map (·.formed)).getD 0)) : ActGoes s t dt (.issue k)
  | debug (k : Nat) (g : Gang) (x : State) (hg : s.gangs.find (gangOfTeam (teamOfGroup k)) = some g) (hm : mayStep s (gangOfTeam (teamOfGroup k)) g = true)
      (h : runGroup k (s.stepIn (gangOfTeam (teamOfGroup k)) dt) = .next x)
      (ht : t = (issued x (coreOfGroup s k) k (((s.groups.find k).map (·.formed)).getD 0)).stepOut (gangOfTeam (teamOfGroup k)) (g.stopAt + dt)) :
      ActGoes s t dt (.issue k)

/-- What goes past a gate has found it open. -/
theorem gate_open {c : Prop} [Decidable c] {o : Out} {t : State} (h : (if c then notNow else o) = .next t) : ¬c ∧ o = .next t := by
  by_cases hc : c
  · simp [hc, notNow] at h
  · exact ⟨hc, by simpa [hc] using h⟩

/-- A run with something noted after it. -/
theorem noted_next {o : Out} {f : State → State} {t : State} (h : (match o with | .next x => .next (f x) | o => o : Out) = .next t) :
    ∃ x, o = .next x ∧ t = f x := by
  cases o <;> simp_all

theorem eventAct_goes {i : Instr} {s t : State} {dt : Nat} (h : eventAct i s = .next t) : ActGoes s t dt (.event i) := by
  obtain ⟨hc, h⟩ := gate_open h
  have hi : isEvent i = true := by simp only [Bool.or_eq_true, not_or] at hc; simpa using hc.1.1
  cases hr : rankIn s i with
  | none => exact .event i t hi (by simpa [hr] using h) (.inl rfl)
  | some r =>
    simp only [hr] at h
    obtain ⟨hw, h⟩ := gate_open h
    obtain ⟨x, hx, rfl⟩ := noted_next (f := (·.ranked r (eventQuad s i))) h
    exact .event i x hi hx (.inr ⟨r, not_not.1 hw, rfl⟩)

theorem issueTurn_goes {k : Nat} {s t : State} {dt : Nat} (h : issueTurn k s = .next t) : ActGoes s t dt (.issue k) := by
  obtain ⟨hk, h⟩ := gate_open h
  obtain ⟨x, hx, rfl⟩ := noted_next (f := fun x => issued x (coreOfGroup s k) k (((s.groups.find k).map (·.formed)).getD 0)) h
  exact .turn k x (not_not.1 hk) hx rfl

theorem stepHalted_goes {k : Nat} {s t : State} {dt : Nat} (h : stepHalted k dt s = .next t) : ActGoes s t dt (.issue k) := by
  unfold stepHalted at h
  cases hg : s.gangs.find (gangOfTeam (teamOfGroup k)) with
  | none => simp [hg, notNow] at h
  | some g =>
    simp only [hg] at h
    obtain ⟨hm, h⟩ := gate_open h
    obtain ⟨-, h⟩ := gate_open h
    obtain ⟨x, hx, rfl⟩ := noted_next (f := fun x =>
      (issued x (coreOfGroup s k) k (((s.groups.find k).map (·.formed)).getD 0)).stepOut (gangOfTeam (teamOfGroup k)) (g.stopAt + dt)) h
    exact .debug k g x hg (by simpa using hm) hx rfl

theorem performOne_goes {s x t : State} {id : Nat} {a : Access} (h : performOne s id a = .next x) (ht : Performed x t) : Performed s t := by
  unfold performOne at h
  split at h
  · exact .step _ rfl h ht
  · exact .step _ rfl h ht

theorem performNow_goes {id n : Nat} {s t : State} (h : performNow id n s = .ok (.next t)) : Performed s t := by
  induction n generalizing s with
  | zero => cases h; exact .refl _
  | succ n ih =>
    simp only [performNow] at h
    split at h
    next => cases h; exact .refl _
    next a f _ =>
      split at h
      next => cases h
      next =>
        cases hp : performOne s id a with
        | next x => rw [hp] at h; exact performOne_goes hp (ih h)
        | fault f => rw [hp] at h; cases h
        | refused r => rw [hp] at h; cases h

theorem serviceDone_goes {s t : State} (h : serviceDone s = .ok (.next t)) : Performed s t := by
  unfold serviceDone at h
  split at h
  · exact performNow_goes h
  · cases h; exact .refl _

theorem execService_goes {c w : Nat} {ls : List Nat} {s t : State} (h : execService c w ls s = .next t) : ServiceGoes s t c := by
  obtain ⟨-, h⟩ := gate_open h
  have put {x : Service} (e : Host.Outcome.next { s with services := s.services.put c x } = (.next t : Out)) : ServiceGoes s t c :=
    .own x s.free (Host.Outcome.next.inj e).symm
  simp only at h
  repeat' split at h
  all_goals first
    | exact put h
    | exact .own _ _ (Host.Outcome.next.inj h).symm
    | exact .thread _ _ _ _ _ _ _ (by assumption) (serviceDone_goes (by assumption)) (Host.Outcome.next.inj h).symm
    | exact (‹∀ u : State, _ = Host.Outcome.next u → False› t h).elim
    | cases h

/-- The inversion of an act. -/
theorem runAct_goes {a : Act} {s t : State} {dt : Nat} (h : runAct a dt s = .next t) : ActGoes s t dt a := by
  cases a with
  | idle => exact .idle (Host.Outcome.next.inj h).symm
  | issue k =>
    by_cases hs : (s.gangs.find (gangOfTeam (teamOfGroup k))).any (·.inService)
    · exact issueTurn_goes (by simpa [runAct, hs] using h)
    · exact stepHalted_goes (by simpa [runAct, hs] using h)
  | event i => exact eventAct_goes h
  | service c w ls => exact .service c w ls (execService_goes h)
  | upset k c =>
    simp only [runAct] at h
    split at h
    · exact .upset k c (Host.Outcome.next.inj h).symm
    · simp [notNow] at h

/-- The inversion of step: what falls due first happens, when its time has passed and with the rest of the move still to come; or nothing does, the
move's time passes, and its act is done. -/
theorem step_cases {s t : State} (h : step s = .next t) :
    (∃ u i sch, dueFirst s (nextMove s).1.dt = some (u, i) ∧ exec i (({ s with schedule := sch } : State).elapse u) = .next t) ∨
    dueFirst s (nextMove s).1.dt = none ∧
      ActGoes (({ s with schedule := (nextMove s).2 } : State).elapse (nextMove s).1.dt) t (nextMove s).1.dt (nextMove s).1.act := by
  unfold step runMove at h
  cases hd : dueFirst s (nextMove s).1.dt with
  | none => rw [hd] at h; exact .inr ⟨rfl, runAct_goes h⟩
  | some p => rw [hd] at h; exact .inl ⟨p.1, p.2, _, rfl, h⟩

end Sys2Proof.Machine
end

