-- ==== Sys2Proof/Tests/Slice0.lean ====
section
/-! SUPPORT. Tests: words of the spec's encodings and what they decode to, ill-formed terms, and for each statement with hypotheses a state and operands
that meet them. -/

namespace Sys2Proof.Tests
open Sys2Proof Sys2Proof.Machine

/-! ### Decoding: example words of the spec, by family -/

/-- The words decode to the instruction, whole. -/
def reads (ws : List Nat) (i : Instr) : Prop := decodeWords ws = .ok (i, [])

theorem test_decode_lane_integer : reads [0x00004103] (.vadd 1 2 3) ∧ reads [0x00A04103] (.vmad 1 2 3) ∧ reads [0x00C04103] (.vaddsI32 1 2 3) ∧
    reads [0x02A04100] (.vabsI32 1 2) ∧ reads [0x03004103] (.vbfx 1 2 3) ∧ reads [0x03404103] (.vdot4I8 1 2 3) ∧ reads [0x03804100] (.vmov 1 2) ∧
    reads [0x03A04100] (.vmovs 1 2 0) ∧ reads [0x03A04101] (.vmovs 1 2 1) ∧ reads [0x03C04001] (.vid 1 1) ∧
    reads [0x44A1C000, 0x3E8] (.vliTwin 7 1000) ∧ reads [0x06048103] (.icmpI32 1 2 2 3) ∧ reads [0x06458103] (.fcmpF32 1 6 2 3) ∧
    reads [0x068C0082] (.plog 3 0 1 2) ∧ reads [0x06A40100] (.vtop 1 2) ∧ reads [0x06C04002] (.vfromp 1 2) ∧ reads [0x07604104] (.vsel 3 1 2 4) :=
  ⟨rfl, rfl, rfl, rfl, rfl, rfl, rfl, rfl, rfl, rfl, rfl, rfl, rfl, rfl, rfl, rfl, rfl⟩

theorem test_decode_cross_lane : reads [0x11004100] (.vredmax 1 2) ∧ reads [0x11204100] (.vredmin 1 2) ∧ reads [0x10804100] (.vscanI32 1 2) ∧
    reads [0x10E04100] (.vredF32 1 2) ∧ reads [0x11404100] (.vvote 1 2 0) ∧ reads [0x11404101] (.vvote 1 2 1) ∧
    reads [0x11610100] (.vballot 4 2 0) ∧ reads [0x11804100] (.vcount 1 2) := ⟨rfl, rfl, rfl, rfl, rfl, rfl, rfl, rfl⟩

theorem test_decode_lane_float : reads [0x08004103] (.fadd 1 2 3) ∧ reads [0x08660A8C] (.fma 24 21 12) ∧ reads [0x08848B11] (.fnma 18 22 17) ∧
    reads [0x08A04103] (.fmin 1 2 3) ∧ reads [0x08E04100] (.fabs 1 2) ∧ reads [0x09204103] (.fcopysign 1 2 3) ∧ reads [0x09604103] (.fdot4E4m3 1 2 3) ∧
    reads [0x0A240780] (.frsqa 16 15) ∧ reads [0x0A604100] (.flog2a 1 2) ∧ reads [0x0A804100] (.fsqrt 1 2) ∧ reads [0x0B404102] (.cvtI32F32 1 2 2) ∧
    reads [0x0C004100] (.nrwBf16 1 2) ∧ reads [0x0C804100] (.nrwE2m1 1 2) ∧ reads [0x0D804100] (.finE2m1 1 2) ∧ reads [0x0E004103] (.pack2Bf16 1 2 3) ∧
    reads [0x0E404200] (.pack4E4m3 1 4) ∧ reads [0x0E804101] (.widBf16 1 2 1) ∧ reads [0x0EC04103] (.widE4m3 1 2 3) :=
  ⟨rfl, rfl, rfl, rfl, rfl, rfl, rfl, rfl, rfl, rfl, rfl, rfl, rfl, rfl, rfl, rfl, rfl, rfl⟩

theorem test_decode_global_memory : reads [0x20804130] (.ldB32 1 2 3 0) ∧ reads [0x60A10131, 8] (.ldB64Twin 4 2 3 1 8) ∧
    reads [0x218304D0] (.stB128 12 9 5 0) ∧ reads [0x22604130] (.ldE5m2 1 2 3 0) ∧ reads [0x22804130] (.ldZb4 1 2 3 0) ∧
    reads [0x23A04130] (.stZb8 1 2 3 0) ∧ reads [0x23C84A64] (.vspill 33 20 6 4) ∧ reads [0x23E04130] (.vfill 1 2 3 0) := ⟨rfl, rfl, rfl, rfl, rfl, rfl, rfl, rfl⟩

theorem test_decode_glade : reads [0x28420190] (.ldgB128 8 3 1 0) ∧ reads [0x28A04110] (.stgB64 1 2 1 0) ∧ reads [0x29004110] (.ldgmB32 1 2 1 0) ∧
    reads [0x38004110] (.ldl 1 2 1 0) ∧ reads [0x38C04110] (.gcas 1 2 1 0) ∧ reads [0x92A28020] (.gcfg 5 2) ∧ reads [0x9280000A] (.gstep 10) :=
  ⟨rfl, rfl, rfl, rfl, rfl, rfl, rfl⟩

theorem test_decode_atomic : reads [0x30004130] (.aaddI32 0 1 2 3 0) ∧ reads [0x37418151] (.acas 3 6 2 5 1) ∧ reads [0x31204130] (.axchg 0 1 2 3 0) ∧
    reads [0x31804130] (.aaddF32O 1 2 3 0) ∧ reads [0x92000401] (.fenceRel 1) ∧ reads [0x92200001] (.bar 1) := ⟨rfl, rfl, rfl, rfl, rfl, rfl⟩

theorem test_decode_uniform : reads [0x80020A33] (.sadd 4 5 6 3) ∧ reads [0x81E08400] (.sclz 1 2 0) ∧ reads [0x82050418] (.scmpI 1 2 2 3 0) ∧
    reads [0xC4640000, 0x30220] (.sliTwin 8 0x30220) ∧ reads [0xC48C0000, 0x10000000, 0x10820002] (.sli64 24 0x10000000 0x10820002) ∧
    reads [0x85028001] (.sid 5 1) ∧ reads [0x852C0210] (.qlog 3 0 1 2 0) ∧ reads [0x90238C42] (.sldB64 7 3 4 2) ∧
    reads [0xD0238C42, 0x18] (.sldB64Twin 7 3 4 2 0x18) := ⟨rfl, rfl, rfl, rfl, rfl, rfl, rfl, rfl, rfl⟩

theorem test_decode_capability : reads [0x88048220] (.cbnd 9 1 4 0) ∧ reads [0x88249228] (.crgt 9 9 5 0) ∧ reads [0x88449230] (.ccol 9 9 6 0) ∧
    reads [0x88641210] (.cget 8 9 2 0) ∧ reads [0x88853E00] (.cmov 10 31 0) ∧ reads [0x88A48C41] (.cld 9 3 4 1) ∧ reads [0x88C48C40] (.cst 9 3 4 0) ∧
    reads [0x88E39460] (.ctag 7 5 6 0) ∧ reads [0x89091240] (.cchk 2 2 9 8 0) ∧ reads [0x89248000] (.cnull 9 0) :=
  ⟨rfl, rfl, rfl, rfl, rfl, rfl, rfl, rfl, rfl, rfl⟩

theorem test_decode_control : reads [0x8C0FFFFC] (.bq 3 0x3FFFC) ∧ reads [0x8C440003] (.brl 1 3) ∧ reads [0x8C80000A] (.call 10) ∧
    reads [0x8CA07C00] (.ret 62 0) ∧ reads [0x8CC01048] (.jmpc 0 8 9 0) ∧ reads [0x8D000000] (.reform 0) ∧ reads [0x8D420A00] (.hmap 4 5) ∧
    reads [0x8D600000] (.exit 0) ∧ reads [0x8D800000] (.nop 0) ∧ reads [0x8DA00000] (.waitm 0) ∧ reads [0x8DC00004] (.waits 4) ∧
    reads [0x8D200000, 3] (.heat 0 1 3) ∧ reads [0x8D220000, 0x55555555, 1] (.heat 0 17 0x155555555) :=
  ⟨rfl, rfl, rfl, rfl, rfl, rfl, rfl, rfl, rfl, rfl, rfl, rfl, rfl⟩

theorem test_decode_engines : reads [0x94040E00] (.cpy 8 7 0 0) ∧ reads [0x94248810] (.cpyc 9 4 1 0) ∧ reads [0x94480E00] (.cpym 16 7 0 0) ∧
    reads [0x946C0000] (.halo 24 0) ∧ reads [0x94828000] (.cbseal 5) ∧ reads [0x94A00000] (.cbwait 0) ∧ reads [0x95040800] (.tlsig 8 4) ∧
    reads [0x95200A00] (.tlwait 0 5) ∧ reads [0x95430200] (.tlrd 6 1) ∧ reads [0x980C0000] (.mwld 24 0) ∧ reads [0x98C40000] (.mspl 8 0) ∧
    reads [0x98A68010] (.mstat 13 1) ∧ reads [0x9A0488C0] (.rlrun 9 4 12 0) ∧ reads [0x9A438000] (.rlstat 7) :=
  ⟨rfl, rfl, rfl, rfl, rfl, rfl, rfl, rfl, rfl, rfl, rfl, rfl, rfl, rfl⟩

theorem test_decode_checksum_system : reads [0x3A000280] (.ckaccI32 0 5) ∧ reads [0x9B000200] (.ckchk 0 1 0) ∧ reads [0x9B220200] (.ckrd 4 1 0 0) ∧
    reads [0x9B408008] (.ckclr 1 1 0) ∧ reads [0x9C028000] (.vclk 5 0) ∧ reads [0x9C840010] (.evpop 8 2 0) ∧ reads [0x9CA30002] (.pcnt 6 2) ∧
    reads [0x9CC20000] (.csrr 4 0) ∧ reads [0x9CE00A00] (.csrw 5 0) ∧ reads [0x9D000007] (.trap 7) ∧ reads [0x9D221001] (.syscPostPeerEvent 4 8) ∧
    reads [0x9E022100] (.spawn 4 8 16) := ⟨rfl, rfl, rfl, rfl, rfl, rfl, rfl, rfl, rfl, rfl, rfl, rfl⟩

/-- Unassigned keys, a set must-be-zero bit and a missing literal are refused by name (R73, R77, R82 to R85). -/
theorem test_decode_refused : decodeWords [0x03E00000] = .error .unassigned ∧ decodeWords [0x0380410F] = .error .nonzeroField ∧
    decodeWords [0xC4640000] = .error .truncated ∧ decodeWords [0x33804130] = .error .reservedOrder := ⟨rfl, rfl, rfl, rfl⟩

/-! ### WellFormed: an ill-formed term for each check -/

theorem test_ill_formed : ([.vadd 64 0 0, .vadd 0 64 0, .vadd 0 0 120, .ldB128 61 0 0 0, .vsel 8 0 0 0, .icmpI32 0 8 0 0, .plog 0 8 0 0,
    .vmovs 0 64 0, .vmovs 0 0 2, .vid 0 7, .vshli 0 0 32, .vbcast 0 0 32, .vvote 0 0 3, .widBf16 0 0 2, .cvtF32I32 0 0 6, .ldZb4 0 0 7 0,
    .ldZb4Twin 0 0 0 0 16, .sadd 64 0 0 0, .cmov 0 1 0, .cmov 31 1 0, .cbnd 1 1 3 0, .cget 0 0 8 0, .cchk 0 7 0 0 0, .sshli 0 0 64, .sid 0 7,
    .heat 0 0 0, .heat 0 33 1, .heat 0 2 3, .heat 0 1 7, .cpy 12 0 0 0, .cpyc 0 0 4 0, .tlsig 7 0, .tlrd 0 7, .gcfg 0 8, .gstep 0, .bar 3,
    .fenceAcq 6, .evpop 6 0 0, .csrr 0 6, .csrw 0 2, .syscNull 0 2, .syscReserved 0 4 16, .ckclr 0 3 0, .pcnt 0 12, .tmarm 0 0 2 0] : List Instr).all
    (fun i => !i.wellFormed 64 false) = true := by decide +kernel

/-- h0 to h7 are lane registers inside a heat only (R128). -/
theorem test_heat_names : Instr.wellFormed 64 true (.vadd 120 127 0) = true ∧ Instr.wellFormed 64 false (.vadd 120 127 0) = false := by decide

/-! ### A small machine: one kernel of one gang, one team and one wave of two threads, with object 2 mapped read-write at frame 0x600000 -/

/-- Its gang, team, wave and group keys. -/
def gk0 : Nat := gangKey 1 0
def tk0 : Nat := teamKey gk0 0
def wk0 : Nat := waveKey tk0 0
def gr0 : Nat := groupKey tk0 0

/-- Directory, descriptors and pages of objects 1 (code) and 2 (data). -/
def miniMem : List Host.Cell :=
  writeLE (writeLE (writeLE (loadedTables [] 0) 0x200010 8 0x310001) 0x310000 8 0x410000) 0x310008 24 (2 ^ 49 + 65536) |> fun m => writeLE m 0x410000 8 0x600001

/-- The data capability: object 2, all rights. -/
def dataCap : Cap := .mk' 2 0 65536 0x3F 0 true

/-- Ready, with the kernel at its first instruction; c3 and c4 hold the data capability. -/
def mini : State :=
  { State.reset with
    boot := .ready, mem := miniMem, fns := [(0, loadedFn 0x100000)], launches := [(1, loadedLaunch 0)], gangs := [(gk0, startGang 0 1 7)]
    teams := [(tk0, startTeam (loadedLaunch 0) 0)], waves := [(wk0, ((startWave (loadedLaunch 0)).setC 3 dataCap).setC 4 dataCap)]
    threads := [(threadKey tk0 0, Thread.init), (threadKey tk0 1, Thread.init)]
    groups := [(gr0, ⟨[0, 1], 0, .ready, none, [], [], [], 1, 0, none, false⟩)], nextId := 100, cur := some gr0 }

/-- mini with another group, wave, team or gang. -/
def withG (f : Group → Group) : State := mini.setGroup gr0 f
def withW (f : Wave → Wave) : State := mini.setWave wk0 f
def withT (f : Team → Team) : State := mini.setTeam tk0 f
def withGang (f : Gang → Gang) : State := mini.setGang gk0 f

/-- The hypotheses of `Issues` as a computation. -/
def issuesB (i : Instr) (s : State) (c : Ctx) : Bool :=
  ctx? s == some c && (!c.inHeat || !(issOf i).forbid) && waitFor s c.tk (mustComplete c.g (issOf i)) == .go && !c.lanes.isEmpty &&
    !(c.guarded (issOf i).guard).subs.isEmpty && !hazard (pruned c.g (issOf i)) ((issOf i).names (c.guarded (issOf i).guard))

theorem issues_of {i : Instr} {s : State} {c : Ctx} (h : issuesB i s c = true) : Issues i s c := by
  simp only [issuesB, Bool.and_eq_true, Bool.or_eq_true, Bool.not_eq_true', beq_iff_eq, List.isEmpty_eq_false_iff] at h
  obtain ⟨⟨⟨⟨⟨h1, h2⟩, h3⟩, h4⟩, h5⟩, h6⟩ := h
  exact ⟨h1, fun hc => by simpa [hc] using h2, h3, h4, h5, h6⟩

/-- The context of a state that has one. -/
def ctxOf (s : State) (h : (ctx? s).isSome = true) : Ctx := (ctx? s).get h
def c0 : Ctx := ctxOf mini (by decide +kernel)

/-- Every instruction without a guard, or with guard 0, issues in mini: what all result statements of one clause ask for. -/
theorem witness_issues (i : Instr) (h : (issOf i).guard = 0) : Issues i mini c0 where
  current := by decide +kernel
  heat := fun hc => absurd hc (by decide +kernel)
  waits := by
    have hg : c0.g.windows = [] ∧ c0.g.acquires = [] := by decide +kernel
    simp [mustComplete, hg.1, hg.2, waitFor]
  lanes := by decide +kernel
  guard := by rw [h]; decide +kernel
  clear := by
    have hg : c0.g.windows = [] := by decide +kernel
    simp [pruned, hg, hazard]

/-! ### Hypotheses that can be met: issue and uniform checks -/

/-- StepRunsDecoded: mini with a VADD at its PC and the schedule's next move letting it issue; with the reset table, and with VADD's entry naming VSUB. -/
def fetchState (table : Tab Nat) : State :=
  { mini with mem := writeLE miniMem 0x500000 4 0x00004103, fns := [(0, { loadedFn 0x100000 with table := table })], schedule := [⟨0, .issue gr0⟩] }

theorem witness_step_decoded : ∀ p ∈ [([], (.vadd 1 2 3 : Instr)), ([(0, 0x8001)], .vsub 1 2 3)], let s := fetchState p.1
    let v := moved s [] 0
    let u : State := { v with cur := some gr0, fetched := none }
    nextMove s = (⟨0, .issue gr0⟩, []) ∧ dueFirst s 0 = none ∧ (v.gangs.find gk0).any (·.status == .resident) = true ∧ nextOn v (coreOfGroup v gr0) = some gr0 ∧
    (ctx? u).any (fun c => fetchWord u c c.g.pc == .word 0x4103 && c.team.regs == 128 && !c.inHeat &&
      (if p.1.isEmpty then tableEntry c.fn 0 == resetEntry 0 else tableEntry c.fn 0 == 0x8000 + 1)) = true ∧ p.2.wellFormed 128 false = true := by decide +kernel
theorem witness_step_decoded_words : decodeWords [0x4103] = .ok (.vadd 1 2 3, []) ∧ litWords 1 0x4103 = 0 ∧ decodeOp 1 0x4103 0 0 = .ok (.vsub 1 2 3) :=
  ⟨rfl, rfl, rfl⟩

/-- EncodeDecodeRoundTrip and MemoryCanonicalKept. -/
theorem witness_round_trip : isEvent (.sli64 3 0xFFFFFFFF 0xFFFFFFFF) = false ∧ Instr.wellFormed 128 false (.sli64 3 0xFFFFFFFF 0xFFFFFFFF) = true := by decide
theorem witness_canonical : Memory.wf State.reset.mem = true ∧ ∃ t, exec .bootRomStart State.reset = .next t := ⟨rfl, _, rfl⟩

/-- CheckedUniformResults: each outcome of the checks. c3: valid, 65,536 bytes; c5: null; c6: no T; s4 = 65,537; s5 = 120; k1 sig. -/
def checked : State := withW fun w => (((w.setC 6 (.mk' 2 0 64 0x1F 0 true)).setS 4 65537).setS 5 120).setK 1 (.sig 0)
def cChecked : Ctx := ctxOf checked (by decide +kernel)
theorem witness_checked : (∀ w ∈ cChecked.subs, (w.wv.getC 3).valid = true ∧ (w.wv.getC 5).valid = false ∧ (w.wv.getC 3).length < (w.wv.getS 4).toNat ∧
    (w.wv.getC 3).rights.testBit 5 = true ∧ (w.wv.getC 6).valid = true ∧ (w.wv.getC 6).rights.testBit 5 = false ∧
    (w.wv.getS 5).toNat % 256 = min cChecked.team.regs 120 ∧ (w.wv.getK 0).kind ≠ (w.wv.getK 1).kind ∧ w.wv.getK 0 = w.wv.getK 2) ∧ cChecked.subs ≠ [] := by decide +kernel
/-- ... and all of them issue there. -/
theorem witness_checked_issues : ∀ i ∈ [Instr.cbnd 7 3 4 0, .crgt 7 5 4 0, .ccol 7 6 0 0, .hmap 5 0, .ckchk 0 1 0, .ckchk 0 2 1, .ret 5 0, .csrw 4 0, .sldB32 1 3 0 0],
    issuesB i checked cChecked = true := by decide +kernel
/-- ChecksumResults' trap: the accumulator of the first lane is of another kind. -/
theorem witness_checksum : (∀ l ∈ cChecked.lanes, (l.wv.getK 0).kind = 0 ∧ (l.wv.getK 1).kind ≠ 0) ∧ issuesB (.ckaccI32 1 0) checked cChecked = true := by decide +kernel

/-! ### Control -/

/-- BranchResults, REFORM, EXIT: lanes that agree and lanes that differ (thread 1 has p1 set), with room for a bin each. -/
def split : State := mini.setThread (threadKey tk0 1) fun t => t.setP 1 true
def cSplit : Ctx := ctxOf split (by decide +kernel)
theorem witness_branches : (∃ l ∈ cSplit.lanes, ∃ m ∈ cSplit.lanes, l.th.getP 1 ≠ m.th.getP 1) ∧ (∀ l ∈ cSplit.lanes, l.th.getP 0 = false) ∧
    split.teams.wf = true ∧ (binsOn split cSplit.team.core).length + cSplit.lanes.length ≤ 64 ∧ issuesB (.brl 1 2) split cSplit = true := by decide +kernel
theorem witness_exit : cSplit.team.ended = false ∧ cSplit.team.buffer = [] ∧ (∀ l ∈ cSplit.lanes, (split.threads.find l.key).isSome = true ∧ l.wv.getQ 0 = true) ∧
    issuesB (.exit 0) split cSplit = true ∧ ∃ team, split.teams.find tk0 = some team := by
  refine ⟨by decide +kernel, by decide +kernel, by decide +kernel, by decide +kernel, _, rfl⟩
/-- RET and JMPC: s5 = 120 is a target, s4 = 65,537 is none; c31 carries X, c5 is null, c6 has no X. -/
def jumps : State := checked.setWave wk0 fun w => w.setC 7 (.mk' 2 0 64 1 0 true)
def cJumps : Ctx := ctxOf jumps (by decide +kernel)
theorem witness_jumps : (∀ w ∈ cJumps.subs, (w.wv.getS 5).toNat % 4 = 0 ∧ (w.wv.getS 4).toNat % 4 ≠ 0 ∧ (w.wv.getC 31).valid = true ∧
    (w.wv.getC 31).rights.testBit 2 = true ∧ (w.wv.getC 5).valid = false ∧ (w.wv.getC 7).valid = true ∧ (w.wv.getC 7).rights.testBit 2 = false) ∧
    (∀ i ∈ [Instr.ret 5 0, .ret 4 0, .jmpc 1 31 5 0, .jmpc 1 31 4 0, .jmpc 1 5 5 0, .jmpc 1 7 5 0], issuesB i jumps cJumps = true) := by decide +kernel

/-- One load of x bytes outstanding as instruction 90, in flight; and one store a thread. -/
def anIssued : Issued := c0.issued []
def loadAcc (st : ASt) : Access :=
  ⟨tk0, 90, .load [⟨[0], wk0, 0, 4, [9], .words 1, 0, none, dataCap⟩], 2, 0, 4, 0, [0], anIssued, st, false, 0, dataCap, 90, [], false, [], 0⟩
def storeAcc : Access := ⟨tk0, 91, .store 5 none, 2, 64, 4, 0, [0], anIssued, .issued, false, 0, dataCap, 91, [], false, [], 0⟩
def waiting : State := { withG (fun g => { g with windows := [⟨90, 3, true, [.v 0 9]⟩] }) with accesses := [(90, loadAcc .issued), (91, storeAcc)] }
def cWaiting : Ctx := ctxOf waiting (by decide +kernel)
theorem witness_waits : 0 < ((cWaiting.g.windows.map (·.xact)).filter fun x => !isComplete waiting cWaiting.tk x).length ∧
    ((cWaiting.g.windows.map (·.xact)).filter fun x => !isComplete waiting cWaiting.tk x).length ≤ 1 ∧
    (∀ w ∈ cWaiting.g.windows, allFaulted waiting w.xact = false) ∧ (∃ l ∈ cWaiting.lanes, 0 < storesOf waiting cWaiting.tk l.t) ∧
    (∀ l ∈ cWaiting.lanes, storesOf waiting cWaiting.tk l.t ≤ 1) ∧
    ∀ i ∈ [Instr.waitm 0, .waitm 1, .waits 0, .waits 1, .fenceFull 0], issuesB i waiting cWaiting = true := by decide +kernel

/-- IssueTraps and SkippedInstructions: a heat with a forbidden kind, a name of an open window, a failing guard, an empty mask. -/
def heated : State := withG fun g => { g with heat := some ⟨2, 2, 0, []⟩ }
def cHeated : Ctx := ctxOf heated (by decide +kernel)
theorem witness_issue_traps : (ctx? heated = some cHeated ∧ cHeated.inHeat = true ∧ heatForbids (.reform 0) = true ∧ isEvent (.reform 0) = false) ∧
    (ctx? waiting = some cWaiting ∧ cWaiting.inHeat = false ∧ waitFor waiting cWaiting.tk (mustComplete cWaiting.g (issOf (.vadd 9 1 1))) = .go ∧
      cWaiting.lanes ≠ [] ∧ (cWaiting.guarded 0).subs ≠ [] ∧ hazard (pruned cWaiting.g (issOf (.vadd 9 1 1))) ((issOf (.vadd 9 1 1)).names (acting (.vadd 9 1 1) cWaiting)) = true) := by
  decide +kernel
theorem witness_skipped : (cHeated.lanes = [] ∧ heatForbids (.vadd 1 2 3) = false ∧ waitFor heated cHeated.tk (mustComplete cHeated.g (issOf (.vadd 1 2 3))) = .go) ∧
    (ctx? mini = some c0 ∧ (∀ w ∈ c0.subs, w.wv.getQ (issOf (.sadd 1 2 3 1)).guard = false) ∧ waitFor mini c0.tk (mustComplete c0.g (issOf (.sadd 1 2 3 1))) = .go) := by
  decide +kernel

/-- TrapRecords and TrapResume. -/
theorem witness_traps : (∃ g gang, mini.groups.find gr0 = some g ∧ mini.gangs.find (gangOfTeam (teamOfGroup gr0)) = some gang ∧ gang.reduceOf = none) ∧
    ∃ r, (takeTrap mini gr0 (c0.trapArgs .software 0)).traps.find 100 = some r := ⟨⟨_, _, rfl, rfl, rfl⟩, _, rfl⟩

/-! ### Memory instructions at issue -/

/-- `WantsPass` as a computation. -/
def passB (ws : List (List Nat × Nat × Want)) : Bool := ws.all fun q => match q.2.2.check q.2.2.rights with | .ok _ => true | .error _ => false
theorem pass_of {ws : List (List Nat × Nat × Want)} (h : passB ws = true) : WantsPass ws := by
  intro q hq
  have := List.all_eq_true.mp h q hq
  split at this
  · exact ⟨_, ‹_›⟩
  · cases this

/-- A list of wants whose first fails. -/
def failB (ws : List (List Nat × Nat × Want)) : Bool := match ws with
  | [] => false
  | p :: _ => match p.2.2.check p.2.2.rights with | .ok _ => false | .error _ => true

/-- 64 unacknowledged stores of thread 0: its store window is full. -/
def full : State := { mini with accesses := (List.range 64).map fun k => (10 + k, storeAcc) }
def cFull : Ctx := ctxOf full (by decide +kernel)

/-- Lane loads, stores, block forms and atomics: c3 reaches, and the null c5 does not; a window with room, and a full one. -/
theorem witness_lane_memory : passB (laneWants 4 0 1 3 [.r] c0) = true ∧ passB (laneWants 4 0 1 3 [.w] c0) = true ∧ passB (laneWants 4 0 1 3 [.r, .w] c0) = true ∧
    passB (blockWants 1 0 1 3 .r c0) = true ∧ passB (blockWants 1 0 1 3 .w c0) = true ∧ failB (laneWants 4 0 1 5 [.r] c0) = true ∧
    failB (laneWants 4 0 1 5 [.w] c0) = true ∧ failB (laneWants 4 0 1 5 [.r, .w] c0) = true ∧ failB (blockWants 1 0 1 5 .r c0) = true ∧
    failB (blockWants 1 0 1 5 .w c0) = true ∧ passB (laneWants 4 0 1 3 [.w] cFull) = true ∧ passB (blockWants 1 0 1 3 .w cFull) = true ∧
    (∀ l ∈ c0.lanes, storesOf mini c0.tk l.t < 64) ∧ (∃ l ∈ cFull.lanes, 64 ≤ storesOf full cFull.tk l.t) := by decide +kernel
theorem witness_block_windows : windowFits c0 mini ((((storeBlocks 1 0 1 3 c0).map (blockStores c0 true 1 6)).flatMap (·.1)).map (·.1)) = true ∧
    windowFits cFull full ((((storeBlocks 1 0 1 3 cFull).map (blockStores cFull true 1 6)).flatMap (·.1)).map (·.1)) = false ∧
    (∀ i ∈ [Instr.stB32 6 1 3 0, .stZb4 6 1 3 0, .aaddI32 0 6 1 3 0, .aaddF32O 6 1 3 0], issuesB i full cFull = true) := by decide +kernel
/-- A release goes on in mini and waits while a thread has a store unacknowledged. -/
theorem witness_release : c0.release mini = .go ∧ cFull.release full = .wait ∧ issuesB (.aaddI32 2 6 1 3 0) full cFull = true ∧
    issuesB (.stul 6 1 0 0) full cFull = true := by decide +kernel

/-- Uniform memory: c3 passes with all rights, c5 fails; LC and SC missing in c6 (rights 0x27), so CLD and CST trap after the check. CTAG: s4 = 0x101,
one granule of colour 1. -/
def uniMem : State := withW fun w => ((w.setC 6 (.mk' 2 0 64 0x27 0 true)).setS 4 0x101)
def cUni : Ctx := ctxOf uniMem (by decide +kernel)
theorem ok_of {ε α : Type} {e : Except ε α} (h : e.toBool = true) : ∃ r, e = .ok r := by cases e <;> first | exact ⟨_, rfl⟩ | cases h
theorem witness_uniform_memory : (∀ w ∈ cUni.subs, ((subWant 3 0 4 0 [.r] w).2.2.check [.r]).toBool = true ∧ ((subWant 3 0 4 0 [.w] w).2.2.check [.w]).toBool = true ∧
    ((subWant 5 0 4 0 [.r] w).2.2.check [.r]).toBool = false ∧ (w.wv.getC 3).has .lc = true ∧ (w.wv.getC 3).has .sc = true ∧
    ((subWant 6 0 16 0 [.r] w).2.2.check [.r]).toBool = true ∧ (w.wv.getC 6).has .lc = false ∧
    ((subWant 6 0 16 0 [.w] w).2.2.check [.w]).toBool = true ∧ (w.wv.getC 6).has .sc = false ∧ 0 < (w.wv.getS 4).toNat / 2 ^ 8 % 2 ^ 24 ∧
    ((⟨w.wv.getC 3, 0, 32, [.t]⟩ : Want).check [.t]).toBool = true ∧ ((w.wv.getC 3).base + uniOffset (w.wv.getS 0) 32 0) % 32 = 0) ∧ cUni.subs ≠ [] ∧
    windowFits cUni uniMem (cUni.subs.map (subReq 4 0 3 0)) = true ∧ windowFits cFull full (cFull.subs.map (subReq 4 0 3 0)) = false ∧
    issuesB (.sstB32 4 3 0 0) full cFull = true ∧
    ∀ i ∈ [Instr.sldB32 1 3 0 0, .sstB32 4 3 0 0, .cld 7 3 0 0, .cst 4 3 0 0, .cld 7 6 0 0, .cst 4 6 0 0, .ctag 4 3 0 0], issuesB i uniMem cUni = true := by
  decide +kernel
/-- CTAG at a full window; c5 is null, and c8's base is 16, so that no granule begins at its place. -/
def tagging : State := full.setWave wk0 fun w => (w.setS 4 0x101).setC 8 (.mk' 2 16 64 0x3F 0 true)
def cTagging : Ctx := ctxOf tagging (by decide +kernel)
theorem witness_ctag : tagSubs 4 cTagging ≠ [] ∧ (∀ w ∈ tagSubs 4 cTagging, ((tagWant 4 5 0 w).2.2.check [.t]).toBool = false ∧
    ((tagWant 4 8 0 w).2.2.check [.t]).toBool = true ∧ tagPlace 8 0 w % 32 ≠ 0 ∧ ((tagWant 4 3 0 w).2.2.check [.t]).toBool = true ∧ tagPlace 3 0 w % 32 = 0) ∧
    windowFits cTagging tagging ((tagSubs 4 cTagging).map fun w => reqOf (tagWant 4 3 0 w)) = false ∧
    ∀ cb ∈ [3, 5, 8], issuesB (.ctag 4 cb 0 0) tagging cTagging = true := by decide +kernel

/-! ### Glade, tags, synchronisation -/

/-- Region 0: one shared single plane of 8 units; region 2: two planes, rule PRIO; region 1 absent; a tag table with key 5; thread 1's v9 = 1. -/
def glades : State := withT fun t =>
  { (t.setRegion 0 ⟨520, [], [], [], 0⟩).setRegion 2 ⟨257 + 1024, [], [], [], 0⟩ with allot := 65536, ownsTags := true, tags := [(20, 5)] }
def cGlades : Ctx := ctxOf glades (by decide +kernel)
/-- The same with a copy that writes region 0. -/
def copying : State := glades.setTeam tk0 fun t => { t with board := [(7, ⟨60, 0, false, true, 0, 4096⟩)] }
def cCopying : Ctx := ctxOf copying (by decide +kernel)

theorem witness_glade : (∀ a ∈ gladeAccs cGlades 9 16 false, gladeOk cGlades glades 0 16 false a = true ∧ gladeOk cGlades glades 2 16 false a = true) ∧
    (∀ a ∈ gladeAccs cGlades 9 4 true, gladeOk cGlades glades 0 4 false a = true) ∧ (∀ a ∈ gladeAccs cGlades 9 4 false, gladeOk cGlades glades 0 4 true a = true ∧
      gladeOk cGlades glades 1 4 false a = false ∧ gladeOk cGlades glades 2 4 true a = false) ∧ gladeAccs cGlades 9 4 false ≠ [] ∧
    gladeWaits glades 0 4 true (gladeAccs cGlades 9 4 false) = false ∧ gladeWaits copying 0 4 false (gladeAccs cCopying 9 4 false) = true ∧
    (∀ i ∈ [Instr.ldgB32 6 9 0 0, .stgB128 6 9 2 0, .gaddI32 6 9 0 0, .ldl 6 9 0 0, .stul 6 9 0 0], issuesB i glades cGlades = true) ∧
    issuesB (.ldgB32 6 9 0 0) copying cCopying = true := by decide +kernel
/-- Word 0 of region 0 with an earlier value that its reader may still see. -/
def twoWrites : State := glades.setTeam tk0 fun t => { t with gladePast := [(gladeKey 0 0, [⟨5, 7, []⟩, ⟨0, 3, []⟩])] }
theorem witness_glade_orders : (regionOf glades tk0 2).dual = true ∧ (regionOf glades tk0 0).dual = false ∧
    twoWrites.gladeTimes Agent.init tk0 0 [0] = [5, 0] ∧ (twoWrites.gladePastOf tk0 0 0).map (·.val) = [7, 3] ∧
    (glades.teams.find tk0).any (fun t => t.gladePast.isEmpty) = true := by decide +kernel
theorem witness_tags : cGlades.team.ownsTags = true ∧ c0.team.ownsTags = false ∧ (∀ i j, i < 4 → j < 4 → cGlades.team.tags.find (tagSet 5 * 4 + i) = some 5 →
    cGlades.team.tags.find (tagSet 5 * 4 + j) = some 5 → i = j) ∧ tagSlot cGlades.team.tags 5 = some 20 ∧
    ∀ i ∈ [Instr.tlook 6 9 0, .tset 6 9 0, .tclr 9 0], issuesB i glades cGlades = true ∧ issuesB i mini c0 = true := by
  refine ⟨by decide +kernel, by decide +kernel, ?_, by decide +kernel, by decide +kernel⟩
  have h : ∀ i < 4, ∀ j < 4, cGlades.team.tags.find (tagSet 5 * 4 + i) = some 5 → cGlades.team.tags.find (tagSet 5 * 4 + j) = some 5 →
    i = j := by
    decide +kernel
  exact fun i j hi hj => h i hi j hj

/-- Fences and barriers: nothing outstanding in mini, a load and stores in waiting; no thread held; mini's launch is no cohort. armed1: both threads have
arrived at the core barrier once more than it has completed. -/
def armed1 : State := (mini.setThread (threadKey tk0 0) fun t => { t with bar := [(0, 1)] }).setThread (threadKey tk0 1) fun t => { t with bar := [(0, 1)] }
def cArmed1 : Ctx := ctxOf armed1 (by decide +kernel)
theorem witness_fences : mini.accesses = [] ∧ storesPending mini c0.fn c0.tk (c0.lanes.map (·.t)) true = false ∧
    storesPending mini c0.fn c0.tk (c0.lanes.map (·.t)) false = false ∧ (∀ kind ∈ [1, 2, 3], cWaiting.fence waiting kind = .wait) ∧
    issuesB (.fenceAcq 0) waiting cWaiting = true ∧ issuesB (.fenceRel 0) waiting cWaiting = true := by decide +kernel
theorem witness_barriers : (∃ l ∈ c0.lanes, l.th.hold = .none) ∧ LevelLegal c0 0 ∧ c0.launch.cohort = false ∧
    (∀ l ∈ c0.lanes, sget 0 l.th.bar 0 ≤ c0.team.coreBar) ∧ (∃ l ∈ cArmed1.lanes, cArmed1.team.coreBar < sget 0 l.th.bar 0) ∧
    issuesB (.barw 0) armed1 cArmed1 = true ∧ FenceMet mini c0 3 := by
  have h : mini.accesses = [] ∧ storesPending mini c0.fn c0.tk (c0.lanes.map (·.t)) true = false := by decide +kernel
  refine ⟨by decide +kernel, nofun, by decide +kernel, by decide +kernel, by decide +kernel, by decide +kernel, ?_, fun _ => h.2⟩
  intro a ha
  rw [h.1] at ha
  cases ha

/-- Both threads held at a barrier, a step and a GCFG that they have reached once; complete, or not. -/
def heldIn (h : Hold) (n : Nat) : State :=
  let hold (s : State) (i : Nat) : State := s.setThread (threadKey tk0 i) fun t => { t with bar := [(0, 1)], steps := [(0, 1)], cfgs := [(2, 1)], hold := h }
  hold (hold ((withT fun t => { t with coreBar := n, teamSteps := n, cfgs := [(2, n)] }).setGroup gr0 fun g => { g with status := .ready }) 0) 1
theorem witness_held : ∀ p ∈ [(Hold.bar, Instr.bar 0), (.step, .gstep 4), (.cfg, .gcfg 9 2)], ∀ n ∈ [0, 1], (ctx? (heldIn p.1 n)).any (fun c =>
    issuesB p.2 (heldIn p.1 n) c && c.newcomers.isEmpty && (match p.2 with
      | .bar l => c.phaseOver l
      | .gstep m => c.stepOver (if stepWide c.team m then 1 else 0)
      | _ => c.lanes.all fun l => decide (sget 0 l.th.cfgs 2 ≤ sget 0 c.team.cfgs 2)) == decide (n = 1)) = true := by decide +kernel
/-- Thread 0 stopped by a trap at its arrival, and thread 1 not arrived, or stopped there as well. -/
def stopped (h : Hold) (both : Bool) : State := ((heldIn h 0).setThread (threadKey tk0 0) fun t => { t with hold := .again }).setThread (threadKey tk0 1) fun t =>
  { t with hold := if both then .again else .none }
theorem witness_stopped : ∀ p ∈ [(Hold.bar, Instr.bar 0), (.step, .gstep 4), (.cfg, .gcfg 9 2)], ∀ both ∈ [true, false], (ctx? (stopped p.1 both)).any (fun c =>
    issuesB p.2 (stopped p.1 both) c && c.newcomers.isEmpty == both && c.lanes.any fun l => l.th.hold == .again) = true := by decide +kernel
theorem witness_newcomers : c0.newcomers ≠ [] ∧ ∀ i ∈ [Instr.bar 0, .bara 0, .gstep 4, .gcfg 9 2], issuesB i mini c0 = true := by decide +kernel

/-! ### Engine commands, batches, timelines -/

/-- Acceptance of every command, computed. -/
def acceptRun {α : Type} (c : Ctx) (accept : Ctx → State → Sub → α → Option State) : State → List (Sub × α) → Option State
  | s, [] => some s
  | s, (w, a) :: r => if subQuiet c s w = .go then match accept c s w a with
    | some u => acceptRun c accept (subDone c w u) r
    | none => none
    else none
theorem accepted_of {α : Type} {c : Ctx} {accept : Ctx → State → Sub → α → Option State} : ∀ {l : List (Sub × α)} {s v : State},
    acceptRun c accept s l = some v → Accepted c accept s l v
  | [], _, _, h => (Option.some.inj h).symm
  | (w, a) :: r, s, v, h => by
    unfold acceptRun at h
    split at h
    · split at h
      · exact ⟨‹_›, _, ‹_›, accepted_of h⟩
      · cases h
    · cases h
/-- An engine command whose commands are all accepted; whose check fails; that has to wait. -/
def acceptsB {α : Type} (i : Instr) (prep : Ctx → State → List α → Sub → Except TrapArgs α) (accept : Ctx → State → Sub → α → Option State) (s : State) (c : Ctx) : Bool :=
  let ws := (acting i c).todo
  issuesB i s c && c.gang.reduceOf.isNone && !ws.isEmpty && match prepAll (acting i c) (acted i s c) prep [] ws with
    | .ok as => (acceptRun (acting i c) accept (acted i s c) (ws.zip as)).isSome
    | .error _ => false
def rejectsB {α : Type} (i : Instr) (prep : Ctx → State → List α → Sub → Except TrapArgs α) (s : State) (c : Ctx) : Bool :=
  issuesB i s c && c.gang.reduceOf.isNone && match prepAll (acting i c) (acted i s c) prep [] ((acting i c).todo) with
    | .ok _ => false
    | .error _ => true
def delaysB {α : Type} (i : Instr) (prep : Ctx → State → List α → Sub → Except TrapArgs α) (accept : Ctx → State → Sub → α → Option State) (s : State) (c : Ctx) : Bool :=
  let ws := (acting i c).todo
  issuesB i s c && c.gang.reduceOf.isNone && match ws, prepAll (acting i c) (acted i s c) prep [] ws with
    | w :: _, .ok (a :: _) => subQuiet (acting i c) (acted i s c) w == .wait ||
      subQuiet (acting i c) (acted i s c) w == .go && (accept (acting i c) (acted i s c) w a).isNone
    | _, _ => false

/-- Commands in registers: s8: one byte from c3 to c4; s16: HALO from region 0 to region 2; s24: into region 0, then MCLR; s40 to s45: matrix commands on region 0. -/
def cmds : State := glades.setWave wk0 fun w =>
  [(10, 64), (16, 0x430), (24, 0x20), (31, 3 <<< 60), (40, 1 <<< 60), (41, 2 <<< 60), (42, 3 <<< 60), (43, 4 <<< 60), (44, 5 <<< 60 + 1), (45, 7 <<< 60), (46, 5), (50, 16777216)].foldl
    (fun w p => w.setS p.1 p.2) w
def cCmds : Ctx := ctxOf cmds (by decide +kernel)
/-- cmds with full queues: 16 commands in channel 0, eight in macro 0, four runs. -/
def aCmd : CCmd := ⟨60, .cpy, wk0, 0, 1, dataCap, dataCap, Params.none_, 0x100, 0, anIssued, 0, none, false, [], []⟩
def aRun : Run := { id := 61, prog := dataCap, header := 0, bufs := [dataCap, dataCap, Cap.null, Cap.null], code := Cap.null, mode := 0x100, wave := wk0, low := 0, info := anIssued
                    signature := 0, rank := 0, n := 1, coll := 0, reduce := 0, patience := 0, ranks := [], steps := [], idx := 0, loops := [], accepted := [], phase := .step
                    buffer := [], waited := 0, holds := [], parked := none, fails := none, flags := 0, guest := 0, wrote := [], view := [], seen := [], resting := false }
def aMac : MCmd := ⟨62, 3 <<< 60, 0, 0, [0, 1], 0x100, 0, [], anIssued, false, 0, [], none, false⟩
def busy : State := (cmds.setGang gk0 fun g =>
    { g.setChan 0 fun ch => { ch with queue := (List.range 16).map fun k => { aCmd with id := 60 + k, batch := k } } with
      relay := { g.relay with queue := [aRun, aRun, aRun, aRun] } }).setTeam tk0 fun t => t.setMac 0 fun m => { m with queue := List.replicate 8 aMac }
def cBusy : Ctx := ctxOf busy (by decide +kernel)
/-- The gang of cmds as a reduce kernel. -/
def reducing : State := cmds.setGang gk0 fun g => { g with reduceOf := some 1 }
def cReducing : Ctx := ctxOf reducing (by decide +kernel)

theorem witness_copies : acceptsB (.cpy 8 3 4 0) (copyPrep .cpy 8 3 4) (copyAccept .cpy) cmds cCmds = true ∧
    acceptsB (.cpym 24 3 4 0) (copyPrep .cpym 24 3 4) (copyAccept .cpym) cmds cCmds = true ∧ acceptsB (.halo 16 0) (copyPrep .halo 16 0 0) (copyAccept .halo) cmds cCmds = true ∧
    acceptsB (.cpyc 3 8 1 0) (chainPrep 3 8) (chainAccept 1) cmds cCmds = true ∧ rejectsB (.cpy 8 5 4 0) (copyPrep .cpy 8 5 4) cmds cCmds = true ∧
    rejectsB (.cpym 8 3 4 0) (copyPrep .cpym 8 3 4) cmds cCmds = true ∧ rejectsB (.halo 8 0) (copyPrep .halo 8 0 0) cmds cCmds = true ∧
    rejectsB (.cpyc 5 8 1 0) (chainPrep 5 8) cmds cCmds = true ∧ delaysB (.cpy 8 3 4 0) (copyPrep .cpy 8 3 4) (copyAccept .cpy) busy cBusy = true ∧
    delaysB (.cpym 24 3 4 0) (copyPrep .cpym 24 3 4) (copyAccept .cpym) busy cBusy = true ∧ delaysB (.halo 16 0) (copyPrep .halo 16 0 0) (copyAccept .halo) busy cBusy = true ∧
    delaysB (.cpyc 3 8 0 0) (chainPrep 3 8) (chainAccept 0) busy cBusy = true := by decide +kernel
theorem witness_matrix : (∀ p ∈ [(Instr.mwld 40 0, 40, 1), (.mmul 41 0, 41, 2), (.mclr 42 0, 42, 3), (.mrd 43 0, 43, 4), (.mstg 44 0, 44, 5), (.mspl 45 0, 45, 7)],
    acceptsB p.1 (mPrep p.2.1 p.2.2) mAccept cmds cCmds = true ∧ delaysB p.1 (mPrep p.2.1 p.2.2) mAccept busy cBusy = true) ∧
    rejectsB (.mwld 41 0) (mPrep 41 1) cmds cCmds = true := by decide +kernel
theorem witness_relay_commands : acceptsB (.rlrun 3 8 3 0) (rlrunPrep 3 8 3) rlrunAccept cmds cCmds = true ∧ rejectsB (.rlrun 5 8 3 0) (rlrunPrep 5 8 3) cmds cCmds = true ∧
    delaysB (.rlrun 3 8 3 0) (rlrunPrep 3 8 3) rlrunAccept busy cBusy = true ∧
    acceptsB (.rlinv 0) (fun _ _ (_ : List Unit) _ => .ok ()) (fun c s _ _ =>
      some (s.setFn c.launch.fn fun f => { f with rankCache := f.rankCache.filter fun e => e.1 != dieOfQuad c.gang.quad })) cmds cCmds = true ∧
    cReducing.gang.reduceOf ≠ none ∧ (∀ i ∈ [Instr.cpy 8 3 4 0, .mmul 41 0, .rlrun 3 8 3 0, .rlinv 0, .mstat 6 0], issuesB i reducing cReducing = true) := by
  decide +kernel

/-- Batches and timelines: s46 = 5 lies above every timeline, s0 does not; the 15 unfinished batches of busy's wave; an event due in the inbox; and the two
SPAWN outcomes (the null c5, and c31, the loaded image). -/
def later : State := busy.setWave wk0 fun w => { w with batch := 16 }
def cLater : Ctx := ctxOf later (by decide +kernel)
theorem witness_batches : (∀ w ∈ cCmds.subs, unfinished cCmds.gang w < 16 ∧ unfinished cCmds.gang w ≤ 0 ∧ (w.wv.getS 0).toNat ≤ timeline cCmds cmds 8 ∧
    timeline cCmds cmds 8 < (w.wv.getS 46).toNat) ∧ (∃ w ∈ cLater.subs, 0 < unfinished cLater.gang w) ∧
    (∀ i ∈ [Instr.cbseal 6, .cbwait 0, .tlwait 8 0, .tlwait 8 46, .tlrd 6 8, .rlstat 6, .mstat 6 0], issuesB i cmds cCmds = true) ∧
    issuesB (.cbwait 0) later cLater = true ∧ cCmds.gang.reduceOf = none ∧ cCmds.team.ownsMacros = true := by decide +kernel
/-- MSTAT in a team without the macros. -/
def plainTeam : State := withT fun t => { t with ownsMacros := false }
theorem witness_no_macros : (ctx? plainTeam).any (fun c => !c.team.ownsMacros && issuesB (.mstat 6 0) plainTeam c) = true := by decide +kernel
theorem witness_signals : (∀ w ∈ cCmds.todo, subQuiet cCmds cmds w = .go ∧ (spawnStatus cCmds.fn (w.wv.getC 5) (w.wv.getS 8).toNat).1 ≠ 0 ∧
    spawnStatus cCmds.fn (w.wv.getC 31) (w.wv.getS 50).toNat = (0, 1)) ∧ cCmds.subs.length = 1 ∧
    (∃ f, cmds.fns.find cCmds.launch.fn = some f ∧ ((f.queues.find 0).getD []).length < 256) ∧
    (∀ i ∈ [Instr.tlsig 8 46, .spawn 6 5 8, .spawn 6 31 50], issuesB i cmds cCmds = true) := by
  refine ⟨by decide +kernel, by decide +kernel, ⟨_, rfl, by decide +kernel⟩, by decide +kernel⟩

/-! ### Time and system -/

/-- Two gangs of one launch, the second suspended; s8, s9: a deadline of 0 on peer 0; s10, s11: on peer 1; s12, s13: on peer 9; s16: a reserved mode; timer
0 armed; an event due and one not; a debugger. -/
def timed : State := { (((mini.setLaunch 1 fun l => { l with gangs := 2 }).setWave wk0 fun w => ((w.setS 11 1).setS 13 9).setS 16 7).setGang gk0 fun g =>
    { g with timers := [(0, .armed 50 none)], inbox := [⟨9, 1, 0, 0, false, 1, 2⟩, ⟨0, 1, 3, 16, false, 4, 5⟩] }) with
  gangs := [(gk0, { startGang 0 1 7 with timers := [(0, .armed 50 none)], inbox := [⟨9, 1, 0, 0, false, 1, 2⟩, ⟨0, 1, 3, 16, false, 4, 5⟩] }),
    (gangKey 1 1, { startGang 1 1 8 with status := .suspended })], debugged := [1] }
def cTimed : Ctx := ctxOf timed (by decide +kernel)
theorem witness_timers : (∀ w ∈ cTimed.subs, (w.wv.getS 9).toNat % 2 ^ 32 < cTimed.launch.gangs ∧ (w.wv.getS 11).toNat % 2 ^ 32 < cTimed.launch.gangs ∧
    cTimed.launch.gangs ≤ (w.wv.getS 13).toNat % 2 ^ 32 ∧ 4 < (w.wv.getS 16).toNat % 8) ∧ sget .idle cTimed.gang.timers 0 ≠ .idle ∧ sget .idle cTimed.gang.timers 1 = .idle ∧
    1 ≠ gk0 % 65536 ∧ (timed.gangs.find (gangKey (launchOfGang gk0) 1)).isSome = true ∧ cTimed.subs ≠ [] ∧
    ∀ i ∈ [Instr.tmarm 1 8 1 1, .tmarm 1 12 1 0, .tmwait 0, .tmwait 1, .tmcan 0, .csrw 16 0, .evpop 20 1 0, .brk 3], issuesB i timed cTimed = true := by decide +kernel
theorem witness_events_due : ∃ g, timed.gangs.find cTimed.gk = some g ∧ g.inbox = [⟨9, 1, 0, 0, false, 1, 2⟩] ++ ⟨0, 1, 3, 16, false, 4, 5⟩ :: [] ∧
    (∀ x ∈ [(⟨9, 1, 0, 0, false, 1, 2⟩ : Event)], g.vtick < x.stamp) ∧ (0 : Nat) ≤ g.vtick := ⟨_, rfl, rfl, by decide +kernel, Nat.zero_le _⟩
theorem witness_no_event : ∃ g, mini.gangs.find c0.gk = some g ∧ ∀ e ∈ g.inbox, g.vtick < e.stamp := ⟨_, rfl, nofun⟩
theorem witness_breakpoints : mini.debugged.contains c0.lk = false ∧ timed.debugged.contains cTimed.lk = true ∧ cTimed.gang.reduceOf = none ∧ timed.gangs.wf = true := by
  decide +kernel

/-- Service calls: a subset whose loads and stores are complete; one whose are not; and a group whose subset has its reply. -/
def replied : State := withG fun g => { g with acted := [0] }
def cReplied : Ctx := ctxOf replied (by decide +kernel)
theorem witness_calls : (∃ w, c0.todo = [w] ∧ subQuiet c0 mini w = .go) ∧ (∃ w, cFull.todo = [w] ∧ subQuiet cFull full w = .wait) ∧
    cReplied.todo = [] ∧ (∀ i ∈ [Instr.syscPostPeerEvent 1 8, .syscEndLaunch 1 8, .syscRuntimeService 1 8 40],
      issuesB i mini c0 = true ∧ issuesB i full cFull = true ∧ issuesB i replied cReplied = true) := by
  refine ⟨⟨_, rfl, by decide +kernel⟩, ⟨_, rfl, by decide +kernel⟩, by decide +kernel, by decide +kernel⟩
/-- Replies: calls 50 (answered by the service context), 51 (another runtime's) and 52 (EVICT of page 0 of object 2, section c7). -/
def called : State := { (mini.setLaunch 1 fun l => { l with shape := { l.shape with sections := [⟨7, false, 65536, 2⟩] } }) with
  calls := [(50, ⟨gr0, wk0, 1, 8, 0, [0, 0, 0, 0], some 0⟩), (51, ⟨gr0, wk0, 1, 8, 40, [0, 0, 0, 0], none⟩), (52, ⟨gr0, wk0, 1, 8, 17, [7, 0, 0, 0], none⟩)] }
theorem witness_replies : ∃ g l f e, called.gangs.find (gangOfTeam (teamOfGroup gr0)) = some g ∧ g.status = .resident ∧ called.launches.find (launchOfGang gk0) = some l ∧
    called.fnFor (launchOfGang gk0) = some f ∧ l.shape.sections.find? (fun d => d.reg == 7) = some ⟨7, false, 65536, 2⟩ ∧ entryPhys called f 2 0 = some e ∧
    f.seesPage 2 0 (readLE called.mem e 8) = true ∧ physExists e = true ∧ pageInUse called 0 2 0 = false :=
  ⟨_, _, _, 0x410000, rfl, rfl, rfl, rfl, rfl, by decide +kernel, by decide +kernel, by decide +kernel, by decide +kernel⟩

/-! ### Events of groups, barriers and steps -/

/-- mini with its threads filed in two bins, of ages 5 and 5,000, and no group; the younger one eligible. -/
def binned : State := ({ mini with groups := [], threads := mini.threads.mapVals fun _ t => { t with status := .filed } }).setTeam tk0 fun t =>
  { t with bins := [⟨8, Cap.null, [0], 5, 1, true⟩, ⟨16, Cap.null, [1], 5000, 2, false⟩] }
/-- The same in a deterministic launch. -/
def binnedDet : State := binned.setLaunch 1 fun l => { l with det := true }
/-- All slots taken by thin groups, and an eligible bin. -/
def crowded : State := { binned with groups := (List.range 64).map fun k => (groupKey tk0 k, ⟨[k], 0, .ready, none, [], [], [], k, 0, none, false⟩) }
/-- The bins of a deterministic launch before its formation begins. -/
def unmarked : State := binnedDet.setTeam tk0 fun t => { t with bins := t.bins.map fun b => { b with eligible := false } }
/-- 64 bins, none eligible, 64 thin groups, one of them with threads to file. -/
def stuckCore : State := (crowded.setTeam tk0 fun t => { t with bins := (List.range 64).map fun k => ⟨8 + 4 * k, Cap.null, [k], 5, k, false⟩ }).setGroup gr0 fun g =>
  { g with stuck := true }
def youngBin : Bin := ⟨8, Cap.null, [0], 5, 1, true⟩
theorem witness_formation : detBin binned 0 = none ∧ mayForm binned 0 = true ∧ noneReady binned 0 = true ∧ idleCycle binned 0 1000 = true ∧
    (∀ p ∈ binned.teams, p.2.core = 0) ∧ eligibleBins binned 0 = [(tk0, youngBin)] ∧ isDet binned tk0 = false ∧ binRank tk0 youngBin = rankOf tk0 0 ∧
    ageLimitOf binned tk0 * 16 ≤ 5000 ∧ freeSlot binned 0 = some 0 ∧ detBin binnedDet 0 = some (tk0, youngBin) ∧ youngBin.eligible = true ∧ freeSlot binnedDet 0 = some 0 ∧ detBin unmarked 0 = some (tk0, { youngBin with eligible := false }) ∧
    freeSlot (markWave unmarked tk0 0) 0 = some 0 ∧ eligibleBins stuckCore 0 = [] ∧ (binsOn stuckCore 0).length = 64 ∧ freeSlot stuckCore 0 = none ∧
    (∃ p ∈ groupsOn stuckCore 0, p.2.stuck = true ∧ p.2.isTrapped = false) ∧ (thinGroup stuckCore 0).isSome = true ∧
    thinGroup crowded 0 = some (gr0, ⟨[0], 0, .ready, none, [], [], [], 0, 0, none, false⟩) ∧ eligibleBins crowded 0 = [(tk0, youngBin)] ∧
    freeSlot crowded 0 = none ∧ teamServed crowded tk0 = true ∧ (dissolve crowded gr0 [(0, 0)]).isSome = true := by decide +kernel

/-- Both threads have arrived: at the core barrier, at a team step and a gang step of a mask, at GCFG of region 1 with the words a and b. -/
def arrivedAs (h : Hold) (th : Nat → Thread → Thread) : State :=
  ((glades.setThread (threadKey tk0 0) fun t => { th 0 t with hold := h }).setThread (threadKey tk0 1) fun t => { th 1 t with hold := h }).setGroup gr0 fun g =>
    { g with status := .waiting }
def atBarrier : State := arrivedAs .bar fun _ t => { t with bar := [(0, 1)], brought := 0 }
def steps (wide m : Nat) : State := arrivedAs .step fun _ t => { t with steps := [(wide, 1)], brought := m + 256 * wide }
def atCfg (a b : Nat) : State := arrivedAs .cfg fun k t => { t with cfgs := [(1, 1)], brought := if k = 0 then a else b }
/-- The groups of the team are held as p says, and none is trapped. -/
def heldAs (s : State) (p : Thread → Bool) : Bool := s.groups.all fun q => !q.2.lanes.isEmpty && !q.2.isTrapped && q.2.lanes.all fun i =>
  decide (i < 2048) && (s.threads.find (threadKey tk0 i)).any fun th => th.status != .exited && p th
theorem gathered_of {s : State} (h : (s.teams.vals.all fun t => t.bins.isEmpty && t.buffer.isEmpty) = true) (tks : List Nat) : Gathered s tks := by
  intro tk _ t ht
  have hm : t ∈ s.teams.vals := List.mem_map.2 ⟨_, Tab.mem_of_find ht, rfl⟩
  have := List.all_eq_true.1 h t hm
  simpa [List.isEmpty_iff] using this
theorem witness_barrier_events : barMembers atBarrier 0 tk0 = some ([tk0], 0) ∧ phaseReady atBarrier 0 ([tk0], 0) = true ∧ Gathered atBarrier [tk0] ∧
    atBarrier.threads.wf = true ∧ heldAs atBarrier (fun th => th.hold == .bar && th.brought == 0 && decide (sget 0 th.bar 0 ≤ 0 + 1)) = true :=
  ⟨by decide +kernel, by decide +kernel, gathered_of (by decide +kernel) _, by decide +kernel, by decide +kernel⟩
/-- A step of region 2 passes its checks and, of region 0, which has one plane, does not; region 2 drains, with a word written by two threads. -/
def collided : State := (setDrain (steps 0 4) tk0 0 (some 4)).setTeam tk0 fun t => t.setRegion 2 ⟨257 + 5 * 1024, [], [], [(3, [(0, 1), (1, 2)])], 0⟩
theorem witness_step_events : ∀ w < 2, stepReady (steps w 4) tk0 w = true ∧ drainMask (steps w 4) tk0 w = none ∧ stepOk (steps w 4) (stepTeams (steps w 4) tk0 w) 4 = true ∧
    stepReady (steps w 1) tk0 w = true ∧ drainMask (steps w 1) tk0 w = none ∧ (∀ th ∈ liveOf (steps w 1) (stepTeams (steps w 1) tk0 w),
      stepOk (steps w 1) (stepTeams (steps w 1) tk0 w) (th.brought % 256) = false) ∧ allGrouped (steps w 1) [tk0] = true ∧ noneTrapped (steps w 1) [tk0] = true ∧
    (∀ th ∈ liveOf (steps w 4) (stepTeams (steps w 4) tk0 w), th.brought % 256 = 4) ∧ stepTeams (steps w 4) tk0 w = [tk0] ∧
    (let d := setDrain (steps w 4) tk0 w (some 4)
     d.teams.wf = true ∧ drainMask d tk0 w = some 4 ∧ boardNames d [tk0] (maskRegions 4) = false ∧ collision d [tk0] (maskRegions 4) = none ∧
      heldAs d (fun th => th.hold == .step && th.brought / 256 == w && decide (sget 0 th.steps w ≤ stepsDone d tk0 w + 1)) = true) := by decide +kernel
theorem witness_collision : drainMask collided tk0 0 = some 4 ∧ boardNames collided [tk0] (maskRegions 4) = false ∧
    collision collided [tk0] (maskRegions 4) = some (2, 3, 0, 1) ∧ (collide collided [tk0] gk0 (2, 3, 0, 1)).isSome = true ∧
    (groupOf collided (teamKey gk0 0) 0).any (fun p => collided.groups.find p.1 == some p.2 && !p.2.isTrapped && teamOfGroup p.1 == tk0) = true ∧
    Gathered (setDrain (steps 0 4) tk0 0 (some 4)) [tk0] :=
  ⟨by decide +kernel, by decide +kernel, by decide +kernel, by decide +kernel, by decide +kernel, gathered_of (by decide +kernel) _⟩
/-- A valid word, an invalid one, and two that differ; and the region drained. -/
theorem witness_cfg_events : ∃ tm, (atCfg 1 1).teams.find tk0 = some tm ∧ cfgReady (atCfg 1 1) tk0 1 tm = true ∧ (∀ th ∈ liveOf (atCfg 1 1) [tk0], th.brought = 1) ∧
    cfgValid tm 1 1 = true ∧ reduceGang (atCfg 1 1) tk0 = none ∧ cfgReady (atCfg 200 200) tk0 1 tm = true ∧
    (∀ th ∈ liveOf (atCfg 200 200) [tk0], cfgValid tm 1 (BitVec.ofNat 64 th.brought) = false) ∧ allGrouped (atCfg 200 200) [tk0] = true ∧
    noneTrapped (atCfg 200 200) [tk0] = true ∧ cfgReady (atCfg 1 3) tk0 1 tm = true ∧ allGrouped (atCfg 1 3) [tk0] = true ∧ noneTrapped (atCfg 1 3) [tk0] = true ∧
    (∃ x ∈ liveOf (atCfg 1 3) [tk0], ∃ y ∈ liveOf (atCfg 1 3) [tk0], x.brought ≠ y.brought) := by
  refine ⟨_, rfl, ?_⟩
  decide +kernel
def cfgDrains : State := (atCfg 1 1).setTeam tk0 fun t => { t with cfgDraining := [(1, 1)] }
theorem witness_cfg_drained : ∃ tm, cfgDrains.teams.find tk0 = some tm ∧ tm.cfgDraining.find 1 = some 1 ∧ boardNames cfgDrains [tk0] [1] = false ∧
    heldAs cfgDrains (fun th => th.hold == .cfg && decide (sget 0 th.cfgs 1 ≤ sget 0 tm.cfgs 1 + 1)) = true ∧ Gathered cfgDrains [tk0] :=
  ⟨_, rfl, rfl, by decide +kernel, by decide +kernel, gathered_of (by decide +kernel) _⟩
/-- A scoreboard entry of an operation that has ended. -/
def retiring : State := glades.setTeam tk0 fun t => { t with board := [(7, ⟨60, 0, false, true, 0, 4096⟩)] }
theorem witness_words_and_entries : (∀ v : W32, Tab.vals [(3, v)] = [v]) ∧ 2 ≤ (Tab.vals [(0, (7 : W32)), (32, 9)]).length ∧
    ∃ tm e, retiring.teams.find tk0 = some tm ∧ tm.board.find 7 = some e ∧ entryBusy retiring e = false := ⟨fun _ => rfl, by decide, _, _, rfl, rfl, by decide +kernel⟩

/-! ### Events of the memory side -/

/-- Access 90 alone, of one thread, in mini, with a fault handled by function 0. -/
def withAcc (a : Access) : State := { mini with accesses := [(90, a)] }
def lone (kind : AKind) (obj off size : Nat) : Access :=
  ⟨tk0, 90, kind, obj, off, size, 0, [0], anIssued, .issued, false, 0, dataCap, 90, [], false, [], 0⟩
def f0 : Fn := loadedFn 0x100000
theorem ready_of {s : State} {a : Access} {f : Fn} (h : (s.accesses.find 90 == some a && fnOfTeam s a.team == some f && a.st == .issued && clearToGo s f a) = true) :
    Ready s 90 a f := by
  simp only [Bool.and_eq_true, beq_iff_eq] at h
  exact ⟨h.1.1.1, h.1.1.2, h.1.2, h.2⟩
def onePart (conv : Conv) (dst : List Nat) (size : Nat) : LoadPart := ⟨[0], wk0, 0, size, dst, conv, 0, none, dataCap⟩
/-- The state with other flags in object 2's descriptor: bit 51 ordered, 53 host-visible. -/
def flagged (s : State) (bits : Nat) : State := { s with mem := writeLE s.mem 0x310008 8 (2 ^ 49 + 65536 + bits) }
def readyB (s : State) (a : Access) : Bool := s.accesses.find 90 == some a && fnOfTeam s a.team == some f0 && a.st == .issued && clearToGo s f0 a
def okB (s : State) (a : Access) : Bool := match checkAt s f0 a a.off a.size with | .ok _ => true | _ => false
/-- Every kind of access of one thread at object 2 is in flight and passes its checks. -/
theorem witness_accesses : (∀ a ∈ [lone (.load [onePart (.sext 1) [9] 1]) 2 0 1, lone (.load [onePart (.words 2) [9, 10] 8]) 2 0 8, lone (.load [onePart (.uni 4) [9] 4]) 2 0 4,
    lone (.load [onePart .cap [9] 16]) 2 0 16, lone (.load [⟨[0], wk0, 0, 1, [9, 10], .zb4, 1, none, dataCap⟩, ⟨[0], wk0, 0, 1, [9, 10], .zb4, 2, none, dataCap⟩]) 2 0 1,
    lone (.store 5 none) 2 64 4, lone (.store 5 (some true)) 2 64 16, lone (.tag 2 3) 2 64 64, lone (.atomic 0 1 0 .rne [9]) 2 64 4],
    readyB (withAcc a) a = true ∧ okB (withAcc a) a = true ∧ toBuffer (withAcc a) a = none ∧ 0 < a.size) ∧ (∀ k < 2,
      (match checkAt mini f0 (lone (.tag 2 3) 2 64 64) (64 + 32 * k) 32 with | .ok i => i.phys == 0x600040 + 32 * k | _ => false) = true) := by decide +kernel
/-- A part may read the newest bytes, and bytes as they stood before a host's write, which nothing has shown to the thread. -/
def older : State := { (withAcc (lone (.load [onePart (.zext 4) [9] 4]) 2 0 4)) with past := [(0x600000, [⟨1, .host 0, 7, false, []⟩, ⟨0, .host 0, 0, false, []⟩])], writeNo := 1 }
def olderOk (w : Nat) : Bool := match checkAt older f0 (lone (.load [onePart (.zext 4) [9] 4]) 2 0 4) 0 4 with
  | .ok i => older.mayRead [(older.thread (threadKey tk0 0)).agent] (.team tk0) i 4 w
  | _ => false
theorem witness_older : olderOk 0 = true ∧ olderOk 1 = true ∧ MayReadAt older (lone .fetch 2 0 4) (onePart (.zext 4) [9] 4) ⟨0, 0, 0, 0, false, false, false, true, 0, false, false, false, 0⟩ none :=
  ⟨by decide +kernel, by decide +kernel, nofun⟩
/-- The ordered buffer of the core: with room, and full in a team without shadow. -/
def contrib : Access := lone (.ordered 1 0 []) 2 64 4
def roomy : State := flagged (withAcc contrib) (2 ^ 51)
def packed : State := roomy.setTeam tk0 fun t => { t with buffer := List.replicate 2048 ⟨2, 64, 1, 0, 0, false, [], anIssued⟩, shadow := 0 }
theorem witness_ordered : (readyB roomy contrib = true ∧ okB roomy contrib = true ∧ bufferUse roomy 0 < 2048) ∧ readyB packed contrib = true ∧ okB packed contrib = true ∧
    (∃ tm, roomy.teams.find tk0 = some tm ∧ tm.ended = false) ∧ (∃ tm, packed.teams.find tk0 = some tm ∧ 2048 ≤ bufferUse packed tm.core ∧ tm.shadow < shadowUse tm + 16) :=
  ⟨by decide +kernel, by decide +kernel, by decide +kernel, ⟨_, rfl, rfl⟩, _, rfl, by decide +kernel, by decide +kernel⟩

/-- Faulting accesses: object 7 does not exist; with a free and with a full operand log; a load one of whose parts passes; queued, resolving. -/
def faultsB (s : State) (a : Access) : Bool := match checkAccess s f0 a with | .fail c _ => c != .uncorrectable | _ => false
def badStore : Access := lone (.store 5 none) 7 0 4
def halfLoad : Access := lone (.load [⟨[0], wk0, 65504, 4, [9], .words 1, 0, none, dataCap⟩, ⟨[1], wk0, 65532, 4, [9], .words 1, 0, none, dataCap⟩]) 2 65504 32
def cutShort : State := { (withAcc halfLoad) with mem := writeLE miniMem 0x310008 8 (2 ^ 49 + 65532) }
def logFull : State := { mini with accesses := (90, badStore) :: (List.range 64).map fun k => (100 + k, { badStore with xact := 200 + k, st := .resolving .pageNotPresent, logged := true }) }
def queued : Access := { badStore with st := .queued .pageNotPresent 3 }
def resolving (kind : AKind) : Access := { lone kind 2 0 4 with st := .resolving .pageNotPresent, logged := true }
def fetchWaits : State := { (withAcc (resolving .fetch)) with groups := [(gr0, ⟨[0, 1], 0, .fetching 90, none, [], [], [], 1, 0, none, false⟩)] }
theorem witness_faults : (readyB (withAcc badStore) badStore = true ∧ faultsB (withAcc badStore) badStore = true ∧ logRoom (withAcc badStore) badStore = true) ∧
    (readyB logFull badStore = true ∧ faultsB logFull badStore = true ∧ logRoom logFull badStore = false) ∧
    (readyB cutShort halfLoad = true ∧ faultsB cutShort halfLoad = true ∧ logRoom cutShort halfLoad = true ∧ cutShort.accesses.wf = true) ∧
    logRoom (withAcc queued) queued = true ∧ fnOfTeam (withAcc (resolving .fetch)) tk0 = some f0 ∧ okB fetchWaits (resolving .fetch) = true ∧
    (mini.gangs.find gk0).any (fun g => g.status == .resident) = true := by decide +kernel
/-- An earlier fault of the port waits in its queue: a new fault waits behind it, and it, the first, takes an entry. -/
def waitsBehind : State := { mini with accesses := [(90, badStore), (91, { queued with xact := 91 })] }
theorem witness_fault_queue : readyB waitsBehind badStore = true ∧ faultsB waitsBehind badStore = true ∧ logRoom waitsBehind badStore = true ∧
    queuedBefore waitsBehind badStore waitsBehind.nextId = true ∧ queuedBefore (withAcc queued) queued 3 = false := by
  refine ⟨by decide +kernel, by decide +kernel, by decide +kernel, ?_, ?_⟩
  · have h : waitsBehind.nextId = 100 := by decide +kernel
    rw [h]
    simp [queuedBefore, waitsBehind, queued, badStore, lone, Tab.vals, Access.port]
  · simp [queuedBefore, withAcc, queued, badStore, lone, Tab.vals]
theorem witness_queue_empty : ∀ n, queuedBefore (withAcc badStore) badStore n = false ∧ queuedBefore cutShort halfLoad n = false := by
  intro n
  simp [queuedBefore, withAcc, cutShort, badStore, halfLoad, lone, Tab.vals]

/-- A refused store of a thread in a group, and of one that has exited; a parked access that CANCEL names; a trap record; an unassigned word. -/
def refused : State := withAcc { lone (.store 5 none) 2 0 4 with st := .refused .pagePermission false }
def refusedLate : State := refused.setThread (threadKey tk0 0) fun t => { t with status := .exited }
def parkedStore : State := withAcc (resolving (.store 5 none))
/-- The same with the word of a uniform store, of one wave of a group of two; and of a filed thread. -/
def uniStore : Access := { lone (.store 5 none) 2 0 4 with st := .refused .pagePermission false, info := { anIssued with word := 2 ^ 31 } }
def mixed : State := { (withAcc uniStore) with groups := [(gr0, ⟨[0, 32], 0, .ready, none, [], [], [], 1, 0, none, false⟩)] }
def refusedFiled : State := { refused with groups := [], threads := mini.threads.mapVals fun _ t => { t with status := .filed } }.setTeam tk0 fun t =>
  { t with bins := [⟨8, Cap.null, [0, 1], 5, 1, true⟩] }
theorem witness_refusals : ((refused.thread (threadKey tk0 0)).status = .grouped ∧ groupOf refused tk0 0 = some (gr0, ⟨[0, 1], 0, .ready, none, [], [], [], 1, 0, none, false⟩) ∧
      uniformStore refused { lone (.store 5 none) 2 0 4 with st := .refused .pagePermission false } = false) ∧
    ((mixed.thread (threadKey tk0 0)).status = .grouped ∧ groupOf mixed tk0 0 = some (gr0, ⟨[0, 32], 0, .ready, none, [], [], [], 1, 0, none, false⟩) ∧
      uniformStore mixed uniStore = true ∧ 32 ∉ uniStore.threads ∧ freeSlot mixed (coreOf mixed tk0) = some 1 ∧ groupKey tk0 1 ≠ gr0) ∧
    ((refusedFiled.thread (threadKey tk0 0)).status = .filed ∧ freeSlot refusedFiled 0 = some 0) ∧ (refusedLate.thread (threadKey tk0 0)).status = .exited := by
  decide +kernel
theorem witness_answered : Answered refused { lone (.store 5 none) 2 0 4 with st := .refused .pagePermission false } := by
  intro p hp _ _
  have h : ∀ p ∈ refused.accesses.vals, p.unanswered = false := by decide +kernel
  exact h p.2 (List.mem_map.2 ⟨p, hp, rfl⟩)
theorem witness_cancel : cancelled parkedStore (portOf 0 2 0) 0 0 = [(90, resolving (.store 5 none), .pageNotPresent)] := by
  have h : dieOfTeam parkedStore tk0 = 0 ∧ (resolving (.store 5 none)).info.slot = 0 ∧ (resolving (.store 5 none)).info.pc = 0 ∧
    (fnOfTeam parkedStore tk0).isSome = true := by decide +kernel
  obtain ⟨f, hf⟩ := Option.isSome_iff_exists.1 h.2.2.2
  show List.filterMap _ [(90, resolving (.store 5 none))] = _
  simp only [List.filterMap_cons, List.filterMap_nil]
  rw [if_pos ⟨h.2.1, h.2.2.1, by rw [show (resolving (.store 5 none)).team = tk0 from rfl, h.1]; rfl⟩,
    show (resolving (.store 5 none)).team = tk0 from rfl, hf]
  rfl
theorem witness_trap_events : cancelled mini 0 0 0 = [] ∧
    (parkedStore.launches.find (launchOfGang gk0)).isSome = true ∧ ((takeTrap mini gr0 (c0.trapArgs .software 0)).traps.find 100).any
      (fun r => !r.done && !r.fatal && r.cause == .software && (mini.launches.find r.launch).isSome) = true ∧ ctx? mini = some c0 := by decide +kernel
theorem apart_of {s : State} (h : (s.gangs.vals.all fun g => (g.channels.vals.all fun ch => ch.queue.isEmpty) && g.relay.current.isNone) = true) (slot pc : Nat) :
    EnginesApart s slot pc := by
  intro g hg
  have h1 := List.all_eq_true.1 h g hg
  simp only [Bool.and_eq_true, List.all_eq_true, List.isEmpty_iff, Option.isNone_iff_eq_none] at h1
  exact ⟨fun ch hc q hq => by simp [h1.1 ch hc] at hq, fun r hr => by simp [h1.2] at hr⟩
theorem witness_engines_apart : EnginesApart parkedStore 0 0 ∧ EnginesApart mini 0 0 := ⟨apart_of (by decide +kernel) 0 0, apart_of (by decide +kernel) 0 0⟩

/-- Accesses from outside: host-visible object 2, ordered object 2, and a page that a snapshot holds before a store. -/
def held : State := { (withAcc (lone (.store 5 none) 2 64 4)) with mem := writeLE miniMem 0x410000 8 0x601001 }
theorem witness_outside : physExists 0x410000 = true ∧ physExists 0x410007 = true ∧
    (match translate (flagged mini (2 ^ 53)).mem f0 2 64 false with | .ok p => p.hostvis && !p.snapcopy | _ => false) = true ∧
    (match translate (flagged mini (2 ^ 51)).mem f0 2 64 false with | .fail .orderedTarget _ => true | _ => false) = true ∧ mini.boot = .ready ∧
    mini.fns.find 0 = some f0 ∧ heldAt held 90 = some (1, 2, 64, f0) ∧ entryPhys held f0 2 0 = some 0x410000 ∧ frameOf held f0 2 0 = some 0x600000 ∧
    (readLE held.mem 0x410000 8).testBit 12 = true ∧ physExists (0x700000 + 65535) = true ∧ Memory.wf held.mem = true ∧ physExists 0x600000 = true ∧
    (((lone (.store 5 none) 2 64 4).pinned mini f0).pins.find (64 / 65536)).isSome = true ∧ sget 0 mini.flows 5 ≠ 1 := by decide +kernel
/-- Another access of the instruction holds its entry in the log; an object whose page is read-only. -/
def entered : State := { logFull with accesses := logFull.accesses ++ [(91, { badStore with st := .resolving .pageNotPresent, logged := true })] }
def readOnly : State := { (flagged mini (2 ^ 53)) with mem := writeLE (flagged mini (2 ^ 53)).mem 0x410000 8 0x600021 }
theorem witness_entries : readyB entered badStore = true ∧ faultsB entered badStore = true ∧ hasEntry entered badStore = true ∧ logRoom entered badStore = false ∧
    hasEntry logFull badStore = false ∧ hasEntry waitsBehind badStore = false ∧
    (match translate readOnly.mem f0 2 64 false with | .ok p => p.hostvis && p.ro && !p.snapcopy | _ => false) = true := by decide +kernel

/-! ### Events of copy engines, macros and the relay -/

/-- One command in channel 0: a copy of a byte from c3's object to c4's, 64 bytes on; with its source absent; with an operation o. -/
def plainPar : Params := ⟨0, 0, 0, 0, 0, false, false, 0, 64, [1], [1], [1], [], Cap.null, 0⟩
def chanState (q : CCmd) (o : Option CopyOp) : State := { mini with gangs := [(gk0, { startGang 0 1 7 with channels := [(0, ⟨[q], o, 0, 0, []⟩)] })] }
def cpyCmd : CCmd := { aCmd with par := plainPar }
def awayCmd : CCmd := { cpyCmd with scap := .mk' 7 0 64 0x3F 0 true }
def doneOp (ws : List CWrite) : CopyOp := ⟨60, dataCap, dataCap, plainPar, 0, true, ws, 0, none, none, none, none, 0, 0, 0, []⟩
def oneWrite : CWrite := ⟨false, dataCap, 64, [7], false⟩
def failedCopy : CopyOp := { doneOp [] with fails := some (.pagePermission, 2, 64) }
/-- A chain at offset 0 of object 2: no record of its own there; one in object 7; and a record that copies a byte. -/
def chainCmd : CCmd := { aCmd with kind := .cpyc }
def chainAway : CCmd := { chainCmd with scap := .mk' 7 0 256 0x3F 0 true }
def chainRec : State := { chanState chainCmd none with
  valid := [(0x60001, true), (0x60002, true)], mem := writeLE (writeLE (writeLE (writeLE (writeLE miniMem 0x600008 8 1) 0x600010 16 dataCap.bits.toNat) 0x600020 16 dataCap.bits.toNat)
    0x600038 8 1024) 0x600040 8 256 }
/-- CPYM's follow: MCLR. -/
def followState : State := chanState { cpyCmd with kind := .cpym, follow := some (3 <<< 60), info := { anIssued with lanes := (List.range 32) } }
  (some { doneOp [] with follow := some (3 <<< 60) })

def headOf (s : State) (q : CCmd) : Bool := (chCtx s gk0 0).any fun x => x.g.status == .resident && x.ch.queue == [q]
/-- The outcome of loading a command's operation. -/
def loads (s : State) : Option Bool := (chCtx s gk0 0).bind fun x => match loadOp s x.fn x.die ⟨x.q.view, []⟩ gk0 x.tk x.tk x.q.mode x.q.low x.q.conv x.q.par x.q.scap x.q.dcap with
  | .ok _ => some true
  | .fault .. => some false
  | _ => none
/-- A replayable launch's copy that has met data which could not be corrected. -/
def lostData : State := { chanState cpyCmd (some { failedCopy with fails := some (.uncorrectable, 2, 64) }) with
  launches := [(1, { loadedLaunch 0 with replayable := true })] }
theorem witness_copy_events : (∀ p ∈ [(chanState cpyCmd none, cpyCmd), (chanState awayCmd none, awayCmd), (chanState cpyCmd (some (doneOp [])), cpyCmd),
      (chanState cpyCmd (some (doneOp [oneWrite])), cpyCmd), (chanState cpyCmd (some failedCopy), cpyCmd), (chanState chainCmd none, chainCmd),
      (chanState chainAway none, chainAway), (chainRec, chainCmd)], headOf p.1 p.2 = true ∧ standing p.1 tk0 = true) ∧
    loads (chanState cpyCmd none) = some true ∧ loads (chanState awayCmd none) = some false ∧
    ((chCtx (chanState cpyCmd none) gk0 0).any fun x => match memCheck (chanState cpyCmd none) x.fn x.die 2 64 1 0 .store with | .ok _ => true | _ => false) = true ∧
    ((chCtx (chanState chainCmd none) gk0 0).any fun x => match readRecord (chanState chainCmd none) x [] 0 with | .ends => true | _ => false) = true ∧
    ((chCtx (chanState chainAway none) gk0 0).any fun x => match readRecord (chanState chainAway none) x [] 0 with | .fault .. => true | _ => false) = true ∧
    ((chCtx chainRec gk0 0).any fun x => match readRecord chainRec x [] 0 with
      | .op o v => (opBad (chainRec.setChan gk0 0 fun ch => { ch with queue := [{ x.q with view := v }] }) x.tk x.tk false o.par o.src o.dst).isNone && o.par.conv == 0 &&
          (opRanges x.tk x.tk o.par).isEmpty && match loadOp (walking chainRec gk0 0 x [] v) x.fn x.die ⟨v, []⟩ gk0 x.tk x.tk x.q.mode x.q.low
            (chainRec.thread (threadKey x.tk x.q.low)).conv o.par o.src o.dst with | .ok _ => true | _ => false
      | _ => false) = true ∧
    ((chCtx followState gk0 0).any fun x => match checkCmd followState x.tk (x.q.wave % 64) (3 <<< 60) 0 x.q.info.lanes with
      | .ok rs => boardRoom followState rs.1 | _ => false) = true ∧
    replays (chanState cpyCmd (some failedCopy)) 1 = false ∧ replays lostData 1 = true ∧ headOf lostData cpyCmd = true ∧
    StandsIn (chanState cpyCmd (some failedCopy)) tk0 0 gr0 := by
  and_intros
  all_goals first
    | exact ⟨_, rfl, .inl rfl⟩
    | decide +kernel

/-- A macro's head command: MCLR of row group 0; MSPL of an absent bank's block, which ends by a fault; one that has run, and one that has failed. -/
def macState (q : MCmd) : State := withT fun t => t.setMac 0 fun m => { m with queue := [q] }
def clearCmd : MCmd := { aMac with word := 3 <<< 60 + 1 }
def splitCmd : MCmd := { aMac with word := 7 <<< 60 }
def ranCmd : MCmd := { aMac with started := true, flags := 1, regs := [(0, ⟨5, false⟩)] }
def brokenCmd : MCmd := { aMac with started := true, fails := some (.matrixCheck, 0) }
theorem witness_macro_events : ∀ p ∈ [(clearCmd, true), (splitCmd, false)], ∃ tm, (macState p.1).teams.find tk0 = some tm ∧ (tm.mac 0).queue = [p.1] ∧ p.1.started = false ∧
    (match runCmd 0 gk0 tk0 tm (tm.mac 0) p.1 with | .ok _ => true | .error _ => false) = p.2 := by
  intro p hp
  refine ⟨((macState p.1).teams.find tk0).getD (startTeam (loadedLaunch 0) 0), ?_⟩
  revert p
  decide +kernel
/-- The gang in service, and quiescing with the command marked as the last. -/
theorem witness_macro_served : ((macState clearCmd).gangs.find (gangOfTeam tk0)).any (fun g => g.status == .resident) = true ∧
    (((macState { clearCmd with last := true }).setGang gk0 fun g => { g with status := .quiescing }).gangs.find (gangOfTeam tk0)).any
      (fun g => g.status == .quiescing) = true := by decide +kernel
theorem witness_macro_ends : StandsIn (macState brokenCmd) tk0 0 gr0 ∧ (∃ tm, (macState ranCmd).teams.find tk0 = some tm ∧ (tm.mac 0).queue = [ranCmd]) ∧
    ranCmd.started = true ∧ ranCmd.fails = none ∧ brokenCmd.fails = some (.matrixCheck, 0) ∧ clearCmd.word.toNat / 2 ^ 60 % 16 = 3 ∧
    (1 <<< 60 : W64).toNat / 2 ^ 60 % 16 = 1 :=
  ⟨⟨rfl, _, rfl, .inl rfl⟩, ⟨_, rfl, rfl⟩, rfl, rfl, rfl, by decide, by decide⟩

/-- A run of one rank, at its step w in a phase, with a chunk of its own accepted; a queued run whose program stands in object 2: END; and the same with
its rank list in the die's cache. -/
def chunk1 : Chunk := ⟨70, 0, 1, 0, 1, 0, gk0, 0, 0, 4, List.replicate 16 1⟩
def theRun : Run := { aRun with bufs := [dataCap, dataCap, dataCap, dataCap], coll := 1, ranks := [0], accepted := [chunk1] }
def atRelay (w : W128) (ph : RPhase) : State :=
  withGang fun g => { g with relay := { g.relay with active := some { theRun with steps := [w], phase := ph } } }
def stepWord (op : Nat) : W128 := BitVec.ofNat 128 (op + 4 * 2 ^ 64)
def program : State := { withGang (fun g => { g with relay := { g.relay with queue := [aRun] } }) with
  mem := writeLE (writeLE (writeLE (writeLE (writeLE miniMem 0x60000C 4 1) 0x600010 8 128) 0x600018 4 1) 0x60001C 4 1) 0x600040 16 8 }
def stepAt (s : State) (op : Nat) (ph : RPhase) : Bool := (rctx s gk0).any fun x => x.g.status == .resident && x.r.fails.isNone &&
  !(x.f.mismatched.contains x.r.coll) && stepOp (x.r.steps.getD x.r.idx 8) == op && x.r.phase == ph
theorem witness_relay_steps : (∀ op ∈ [1, 2, 3, 4, 5, 7], stepAt (atRelay (stepWord op) .step) op .step = true) ∧ stepAt (atRelay 6 .step) 6 .step = true ∧
    stepAt (atRelay 8 .step) 8 .step = true ∧ (∀ op ∈ [3, 4], stepAt (atRelay (stepWord op) .reduced) op .reduced = true) ∧
    ((rctx (atRelay (stepWord 4) .step) gk0).any fun x => !rankCut (atRelay (stepWord 4) .step) x 0 && theRun.accepted.any (fun c => c.sender == 0 && c.len == stepLen (stepWord 4)) &&
      (chunkAt (x.r.buf 3) 0 4 4 .r).toBool && (chunkAt (x.r.buf 0) 0 4 4 .r).toBool && (chunkAt (x.r.buf 0) 0 4 4 .w).toBool &&
      (match readChunk (atRelay (stepWord 4) .step) x [] (x.r.buf 0) 0 4 4 with | .ok _ => true | _ => false) &&
      (match writeChunk (atRelay (stepWord 4) .step) x (x.r.buf 3) 0 4 4 chunk1.bytes with | .ok _ => true | _ => false)) = true ∧
    ((rctx (atRelay 6 .step) gk0).any fun x => (mini.launches.find (launchOfGang gk0)).any fun l =>
      decide (stepValue 6 ≤ timelineOf (atRelay 6 .step) x.g l (coreOf (atRelay 6 .step) x.tk) (stepPeer 6))) = true := by decide +kernel
def startsB (s : State) (f : Fn) (cached : Bool) : Bool := (s.gangs.find gk0).any fun g => let x : RCtx := ⟨gk0, g, aRun, f, 0, tk0, dieOfQuad g.quad⟩
  g.status == .resident && g.relay.active.isNone && g.relay.queue == [aRun] && decide (runsOnDie s (dieOfQuad g.quad) < 64) && aRun.fails.isNone &&
    match progRead s x [] 0 64 16, progRead s x [] 64 16 16, progRead s x [] 128 8 8, progAt x 128 8 8 with
    | .ok hb, .ok sb, .ok lb, .ok p => (parseHeader aRun hb).any (fun r => r.2 == (128, 1) && r.1.n == 1) && (cachedList f x.die p.1 p.2 1).isSome == cached &&
        relayStepOk 0 (BitVec.ofNat 128 (numOf sb)) && rankOk (BitVec.ofNat 64 (numOf lb))
    | _, _, _, _ => false
theorem witness_relay_start : startsB program f0 false = true ∧ startsB program { f0 with rankCache := [(0, 2, 128, [0])] } true = true := by decide +kernel

/-- Chunks in flight: one that agrees with the run it is for, one of another signature; flits to come; an idle core for the reduce kernel; a notice; a
mismatch; expired patience. -/
def peerRun (r : Run) (c : Chunk) : State :=
  { withGang (fun g => { g with relay := { g.relay with active := some { r with accepted := [], steps := [2] } } }) with chunks := [c] }
def noticed : State := (atRelay 8 .step).setGang gk0 fun g => { g with relay := { g.relay with aborts := [1] } }
def mismatched : State := (atRelay 8 .step).setFn 0 fun f => { f with mismatched := [1] }
def impatient : State := peerRun { theRun with patience := 2, waited := 10 } chunk1
theorem witness_relay_messages : (∀ c ∈ [chunk1, { chunk1 with signature := 1 }], (peerRun theRun c).chunks.find? (fun d => d.id == 70) = some c ∧ c.module = Config.moduleId ∧
      (peerOf (peerRun theRun c) 0 1 (BitVec.ofNat 64 c.target)).any (fun p => p.1 == gk0 && p.2.1.status == .resident && p.2.2.accepted.isEmpty && p.2.2.signature == 0 && p.2.2.n == 1) = true) ∧
    stepAt (atRelay (stepWord 4) (.reducing 2)) 4 (.reducing 2) = true ∧ ((rctx (atRelay (stepWord 4) (.reducing 0)) gk0).any fun x =>
      dieOfCore 1 == x.die && x.f.quads.contains (1 / Config.coresPerQuad) && !quadHeld mini (1 / Config.coresPerQuad)) = true ∧ teamsOn (atRelay (stepWord 4) (.reducing 0)) 1 = [] ∧
    (mini.launches.find (launchOfGang gk0)).isSome = true ∧
    (mini.gangs.find (gk0 + 65536)).isNone = true ∧ (∀ p ∈ mini.groups, gangOfTeam (teamOfGroup p.1) ≠ gk0 + 65536) ∧
    ((rctx noticed gk0).any fun x => x.g.relay.aborts.contains x.r.coll) = true ∧ ((rctx mismatched gk0).any fun x => x.f.mismatched.contains x.r.coll) = true ∧
    ((rctx impatient gk0).any fun x => x.r.expired && x.g.status == .resident && !(x.f.mismatched.contains x.r.coll)) = true := by decide +kernel
theorem witness_relay_stands : StandsIn mismatched tk0 0 gr0 := ⟨rfl, _, rfl, .inl rfl⟩

/-! ### Events of time, launches and the module -/

/-- A timer due, without and with its unpopped event; a post on its way; a gang index that is open and one that is not; notices to a gang with patience
timers; a run that waits for a rank of module 7, and one under that rank's HOLD; and a peer's post, with its call. -/
def timerDue (inbox : List Event) : State := withGang fun g => { g with timers := [(0, .armed 0 none)], inbox := inbox }
def aPost : Post := ⟨gk0, 3, 5, 16, 1, 2, some 50⟩
def posted : State := { mini with posts := [aPost], calls := [(50, ⟨gr0, wk0, 1, 8, 1, [0, 0, 0, 0], none⟩)] }
def noticeOf (hold : Bool) : State := { (withGang fun g => { g with timers := [(0, .armed 40 (some 1)), (1, .held 9 1)] }) with notices := [⟨hold, gangKey 1 1, gk0, 0⟩] }
def awayRun : Run := { theRun with ranks := [7], accepted := [], steps := [2] }
theorem witness_time_events : (timerDue []).gangs.find gk0 = some { startGang 0 1 7 with timers := [(0, .armed 0 none)] } ∧
    (∃ e ∈ [(⟨0, 1, 0, 0, false, 0, 0⟩ : Event)], e.kind = 1 ∧ e.source = 0) ∧ (mini.gangs.find gk0).any (fun g => g.status == .resident && decide (placesUsed mini gk0 g < 8188) &&
      g.reduceOf.isNone && g.relay.active.isNone && decide (0 ≤ g.vt / 5)) = true ∧ ((mini.launches.find 1).any fun l => gangOpen mini 1 l 0 && l.fn == 0 && l.status != .done) = true ∧
    ((mini.launches.find 1).any fun l => !gangOpen mini 1 l 9) = true ∧ (posted.posts.length = 1) ∧ gangKey 1 1 % 65536 = 1 ∧ launchOfGang (gangKey 1 1) = launchOfGang gk0 ∧
    State.reset.boot ≠ .ready ∧ peerRank 7 = true ∧ awayRun.waitsFor = some 7 ∧ 7 ∉ awayRun.holds ∧
    (posted.calls.find 50).isSome = true ∧ (posted.fns.find (posted.fnOf (launchOfGang gk0))).isSome = true := by decide +kernel

/-- A queue whose head is launch 5: as given; with a record that names no image; checked; its timeline's status 3; ready; ready in class 2. -/
def headLaunch : Launch := queuedLaunch 0 0 (.host 1) 1 1 1 0 0 0 0 0
def checkedLaunch : Launch := { headLaunch with checked := true, shape := loadedImage }
def readyLaunch : Launch := { checkedLaunch with status := .ready }
def queuedAs (l : Launch) : State := { mini with now := 50000000, fns := [(0, { f0 with queues := [(0, [5])] })], launches := mini.launches ++ [(5, l)] }
def failedDep : State := { queuedAs checkedLaunch with mem := writeLE miniMem (timelineAt f0 0 + 8) 4 3 }
/-- Every quad of the function held, and a running launch of class 3. -/
def crammed : State := { queuedAs readyLaunch with
  fns := [(0, { f0 with queues := [(0, [5])], quads := [0] })], launches := [(1, { loadedLaunch 0 with cls := 3 }), (5, readyLaunch)]
  gangs := mini.gangs ++ [(gangKey 1 1, { startGang 0 1 6 with status := .suspended, kept := true, holdUntil := some (99999999, 1) })] }
def headB (s : State) : Bool := (s.fns.find 0).any fun f => (f.queues.find 0).getD [] == [5] && (s.launches.find 5).isSome && (s.fnFor 5).isSome
theorem witness_queue : (f0.queues.find 0).getD [] = [] ∧ (∀ s ∈ [queuedAs headLaunch, queuedAs { headLaunch with image := 9 }, queuedAs checkedLaunch, failedDep, queuedAs readyLaunch, crammed],
      headB s = true) ∧ (checkRecord f0 headLaunch).toBool = true ∧ (checkRecord f0 { headLaunch with image := 9 }).toBool = false ∧
    (physExists (timelineAt f0 0) = true ∧ physExists (timelineAt f0 0 + 127) = true) ∧ readLE (queuedAs checkedLaunch).mem (timelineAt f0 0 + 8) 4 = 0 ∧
    checkedLaunch.depval.toNat ≤ readLE failedDep.mem (timelineAt f0 0) 8 ∧ readLE failedDep.mem (timelineAt f0 0 + 8) 4 ≠ 0 := by decide +kernel
theorem witness_admission : f0.agingStep * (0 / 4 - 1 + 1) ≤ (queuedAs { readyLaunch with cls := 1 }).rt - 0 ∧ nextQueue (queuedAs readyLaunch) = some (16 * 0 + 0) ∧
    (recordFlags readyLaunch.record).1.testBit 3 = false ∧ orderedTargets readyLaunch = [] ∧ readyLaunch.replayable = false ∧
    (crammed.fns.find 0).any (fun f => decide (f.preemptDelay ≤ crammed.rt - max readyLaunch.readyAt readyLaunch.fitAt) && !fitsNow crammed f 5 readyLaunch &&
      !fitsNow (quietly crammed) f 5 readyLaunch && victim crammed f readyLaunch.cls == some gk0) = true ∧ preempted crammed gk0 = true := by decide +kernel

/-- Gangs: a launch with a gang to place on an idle core; a resident gang; a HOLD call; a slice over; a gang that has quiesced, is saved, leaves a die on
which its function has no quad, moves, can retire. -/
def unplaced : State := { queuedAs { readyLaunch with status := .admitting } with schedule := [] }
def withCall : State := { mini with calls := [(50, ⟨gr0, wk0, 1, 8, 16, [500, 0, 0, 0], none⟩)] }
def sliced : State := { (timed.setLaunch 1 fun l => { l with det := true }) with now := 500000000 }
def stopping : State := withGang fun g => { g with status := .quiescing }
def savedGang : State := { (withGang fun g => { g with status := .suspended }) with groups := [] }
def packFn : Fn := { f0 with quads := [40] }
def packs (span : Nat) : State := { (savedGang.setLaunch 1 fun l => { l with span := span }) with fns := [(0, packFn)] }
def moving : State := withGang fun g => { g with status := .moving, quad := 40 }
def endedGang : State := withT fun t => { t with ended := true }
theorem witness_gangs : (∀ p ∈ unplaced.groups, gangOfTeam (teamOfGroup p.1) ≠ gangKey 5 0) ∧ (∀ p ∈ unplaced.teams, gangOfTeam p.1 ≠ gangKey 5 0) ∧ groupsOn unplaced 1 = [] ∧
    (launchQuads unplaced f0 readyLaunch).contains 0 = true ∧ roomOn unplaced f0 5 readyLaunch 0 [1] readyLaunch.needs = true ∧ readyLaunch.shape.teams = 1 ∧ readyLaunch.waves = 1 ∧
    readyLaunch.placed < readyLaunch.gangs ∧ readyLaunch.cohort = false ∧ unplaced.debugged.contains 5 = false ∧ (holdCall withCall gk0).isSome = true ∧ (loadedLaunch 0).cohort = false ∧
    (sliced.gangs.find gk0).any (fun g => decide (g.slice + 100000 ≤ sliced.rt)) = true ∧ stopSet stopping gk0 = [gk0] ∧
    (stopping.gangs.find gk0).any (fun g => quiesced stopping gk0 g) = true := by decide +kernel
theorem witness_resume : roomOn (unreserved savedGang [gk0]) f0 1 (loadedLaunch 0) 0 [0] (savedNeeds savedGang (loadedLaunch 0) gk0) = true ∧ (restart savedGang gk0 0 [0]).isSome = true ∧
    (launchQuads savedGang f0 (loadedLaunch 0)).contains 0 = true ∧ (savedGang.gangs.find gk0).any (fun g => !debugHeld savedGang 1 g && g.heir.isNone && g.relay.active.isNone) = true ∧
    (∀ span ∈ [1, 2], stopSet (packs span) gk0 = [gk0] ∧ ((packs span).launches.find 1).any (fun l =>
      (seatsFor packFn 1 l (packFn.quads.filter fun q => dieOfQuad q == 0) [gk0] [gk0] (packs span)).isNone &&
      (seatsFor packFn 1 l (packFn.quads.filter fun q => dieOfQuad q == 1) [gk0] [gk0] (packs span)).isSome) = true) ∧ dieOfQuad 0 ≠ 1 ∧ dieOfQuad 0 ≠ 4 ∧
    stopSet moving gk0 = [gk0] ∧ 40 < Config.quads ∧ (endedGang.gangs.find gk0).any (fun g => retirable endedGang gk0 g) = true ∧ (endedGang.teams.all fun p => p.2.buffer.isEmpty) = true := by
  decide +kernel

/-- Launches that end: all gangs retired; a fatal record; an uncorrectable error consumed, of the first and of the fourth time; the functions' resets. -/
def aRec : TrapRec := ⟨.software, false, true, false, false, 0, 0, 0, 0, 0, 0, 0, 0, 0, 0, 0, 0, 0, 0, 1, gk0, none, .nothing, [], true⟩
def endsAs (l : Launch → Launch) : State := mini.setLaunch 1 l
theorem witness_launch_ends : ((endsAs fun l => { l with retired := 1 }).launches.find 1).any (fun l => l.status == .running && l.fatal.isNone && !l.consumed && decide (l.gangs ≤ l.retired) &&
      l.evicted.isEmpty && l.targets.isEmpty && l.partials.isEmpty && l.snapObjs.isEmpty && l.snaps.isEmpty) = true ∧ mini.traps = [] ∧
    ((endsAs fun l => { l with fatal := some aRec }).launches.find 1).any (fun l => l.fatal == some aRec) = true ∧ aRec.cause ≠ .uncorrectable ∧
    (∀ p ∈ [(0, true), (3, true), (0, false)], ((endsAs fun l => { l with consumed := true, errors := p.1, replayable := p.2 }).launches.find 1).any (fun l => l.consumed && l.errors == p.1 && l.replayable == p.2 && !(recordFlags l.record).1.testBit 3 &&
      (orderedTargets l).isEmpty && (writableObjs l).isEmpty) = true) ∧ (match translate (flagged mini (2 ^ 51)).mem f0 2 64 true with | .ok _ => true | _ => false) = true ∧
    (foldWords f0 (loadedLaunch 0) [(0, 0, ⟨2, 64, ⟨.zero, false⟩, false, false⟩)] [(2, 64)] (flagged mini (2 ^ 51)) []).isSome = true := by decide +kernel
def vf1 : State := { mini with fns := [(0, f0), (1, f0)], launches := [(1, { loadedLaunch 0 with fn := 1 })] }
theorem witness_resets : (openLaunches vf1 1).map (·.1) = [1] ∧ (vf1.fns.find 1).isSome = true ∧ (∀ gk ∈ mini.gangs.keys, (rctx mini gk).isNone = true) ∧
    ((rctx (atRelay 8 .step) gk0).any fun x => x.fnId == 0 && x.r.ranks.any (fun e => rankModule e == 0)) = true ∧ (atRelay 8 .step).gangs.keys = [gk0] := by decide +kernel

/-- The module: each boot state; Ready with no open launch; settings; temperatures; firmware and management. -/
theorem witness_module : State.reset.boot = .rom ∧ State.reset.slots.find 0 = some FwImage.factory ∧ ({ mini with launches := [] } : State).boot = .ready ∧
    (∀ fn < 65, openLaunches { mini with launches := [] } fn = []) ∧ (applySetting Fn.init 0 128).isSome = true ∧ (applySetting Fn.init 1 1000).isSome = true ∧
    (applySetting Fn.init 13 (3 + 2 ^ 64 * (2 ^ 128 + 2 ^ 192 + 32 * 2 ^ 256))).isSome = true ∧ (mini.launches.find 1).any (fun l => l.fn == 0) = true ∧
    (∀ p ∈ mini.gangs, mini.fnOf (launchOfGang p.1) = 0 ∧ p.2.quad = 0 ∧ (2 ^ 160 - 1).testBit 0 = true) := by decide +kernel
/-- Dividers and temperatures: over the limit a quad slows, with headroom it is restored, at 100 °C one of the hottest die is cooled. -/
def slowed : State := { mini with dividers := [(0, 2)] }
theorem witness_power : dividersOk [(0, 2)] = true ∧ slows mini [(0, 2)] = true ∧ restores slowed [(0, 1)] = true ∧ dividersOk [(0, 1)] = true ∧
    cools mini 0 [(0, 2)] = true ∧ hottest mini 0 102 = true ∧ hottest mini 0 110 = true ∧ sget .cool mini.thermal 0 = .cool ∧
    sget .cool ({ mini with thermal := [(0, .hot)] } : State).thermal 0 = .hot := by decide +kernel
/-- A portable image's header of no length, and decode tables that load and do not; handle 1 is in use, handle 2 is not; a remapped table. -/
theorem witness_firmware : mini.fns.find 0 = some f0 ∧ (f0.images.find 1).isSome = true ∧ f0.images.find 2 = none ∧ f0.tableReset = true ∧
    ({ f0 with table := [(0, 0x8001)] } : Fn).tableReset = false ∧ physExists 0x600000 = true ∧
    (match zHeader mini.mem 0x600000 0 with | .error _ => true | .ok _ => false) = true ∧ entryOk 0x8000 = true ∧ entryOk 0xFFFF = false ∧
    junctionOk mini 0 40 = true ∧ junctionOk mini 0 110 = false ∧
    (List.replicate 2048 0x8000).length = 2048 ∧ mini.boot = .ready ∧ State.reset.boot ≠ .ready ∧ State.reset.boot ≠ .recovery := by decide +kernel
/-- A portable image of VADD and EXIT at 0x600000, which loads under handle 2 into object 1; and one whose first word is no instruction. -/
def imageFields (w : Nat) : List (Nat × Nat × Nat) := [(0, 4, 0x3146505A), (4, 2, 1), (8, 1, 1), (9, 1, 1), (10, 1, 128), (16, 4, 2), (0x60, 4, w), (0x64, 4, 0x8D600000)]
def portable (w : Nat) : State := { mini with mem := (imageFields w).foldl (fun m p => writeLE m (0x600000 + p.1) p.2.1 p.2.2) miniMem }
theorem witness_portable : (match zHeader (portable 0x4103).mem 0x600000 0x70 with
    | .ok z => match finalise z with
      | .ok n => match loadBytes f0 1 (portable 0x4103) 0 (n.words.flatMap fun w => bytesOf w 4) with
        | some u => (loadSections f0 0x600000 u 0 z.sections).isSome
        | none => false
      | .error _ => false
    | .error _ => false) = true ∧ (match zHeader (portable 0xFFFFFFFF).mem 0x600000 0x70 with
    | .ok z => !(finalise z).toBool
    | .error _ => false) = true := by decide +kernel
/-- A die that was at 110 °C, in the over-temperature action, and one at 103 °C still in it. -/
def heating : State := { mini with thermal := [(0, .hot)], sensors := [(16, 110)], dividers := (List.range 40).map (·, 8) }
theorem witness_rows : rowHolds heating { heating with sensors := sset 0 heating.sensors 16 102, thermal := sset .cool heating.thermal 0 .cool } = true ∧
    hottest heating 0 103 = true ∧ cools heating 0 [] = true ∧ sget .cool heating.thermal 0 = .hot ∧
    State.reset.boot ≠ .ready ∧ hostCut State.reset = false := by decide +kernel

/-! ### Hypotheses that can be met: folds, stops, links, windows -/

/-- The last threads of a team exit while a contribution waits to be folded into the team's shadow. -/
def folding : State := withT fun t => { t with shadow := 64, buffer := [⟨2, 64, 1, 0, 0x3F800000, false, [], anIssued⟩] }
def cFolding : Ctx := ctxOf folding (by decide +kernel)
theorem witness_exit_folds : issuesB (.exit 0) folding cFolding = true ∧ orderedInFlight folding cFolding.tk = false ∧
    (match exec (.exit 0) folding with | .next t => (liveThreads t cFolding.tk).isEmpty | _ => false) = true ∧
    Folds 64 [] (cFolding.team.buffer.foldr insertContrib []) [.one 2 64 (val32 0x3F800000)] := by
  refine ⟨by decide +kernel, by decide +kernel, by decide +kernel, ?_⟩
  show Folds 64 [] [⟨2, 64, 1, 0, 0x3F800000, false, [], anIssued⟩] _
  exact .one _ _ _ _ _ false (by rfl) (.none _)

/-- Sixteen unfinished sealed batches, and an operation of the open one. -/
def sealing : State := later.setGang gk0 fun g => g.setChan 1 fun ch => { ch with queue := [{ aCmd with id := 80, batch := 16 }] }
def cSealing : Ctx := ctxOf sealing (by decide +kernel)
theorem witness_seal_waits : (∃ w ∈ cSealing.subs, 16 ≤ unfinished cSealing.gang w ∧ w.wv.batch ∈ openBatches cSealing.gang w.wk) ∧
    issuesB (.cbseal 6) sealing cSealing = true := by decide +kernel

/-- A granule of CTAG at its home; a team that goes on; an access at an evicted page, and one at a page that is there. -/
theorem witness_tag_check : (match checkAccess (withAcc (lone (.tag 2 3) 2 64 64)) f0 (lone (.tag 2 3) 2 64 64) with | .ok _ => true | _ => false) = true := by
  decide +kernel
def evicting : State := (parkedStore.setLaunch 1 fun l => { l with evicted := [(2, 0)] })
theorem witness_evicted : waitsEvicted evicting 90 = true ∧ waitsEvicted parkedStore 90 = false ∧ waitsEvicted fetchWaits 90 = false ∧
    (mini.teams.all fun p => !p.2.ended) = true := by decide +kernel

/-- Links: all there; the die link to die 0 has failed; every pod port has; the host link has; and a function whose flows a reset has closed. -/
def farModule : Nat := 2 ^ 64 + 3 % 256 * 2 ^ 56
theorem witness_links : linkDown mini.failed linkDie farModule = false ∧ linkDown mini.failed linkDie 0x600000 = false ∧ hostCut mini = false ∧
    linkDown [64] linkDie farModule = false ∧ linkDown [64] linkDie 0x600000 = true ∧ hostCut { mini with failed := [2000] } = true ∧
    ({ f0 with shut := true } : Fn).shut = true := by decide +kernel
theorem witness_ports_cut : linkDown ((List.range 18).map (1000 + ·)) linkDie farModule = true := by
  have h : Config.fabricPort (farModule / 2 ^ 56 % 256) % 18 < 18 := Nat.mod_lt _ (by decide)
  have hf : farModule < 2 ^ 65 ∧ ¬farModule < 2 ^ 64 := by decide
  revert h
  simp only [linkDown, if_neg hf.2, if_pos hf.1]
  generalize Config.fabricPort (farModule / 2 ^ 56 % 256) % 18 = p
  intro h
  rw [Bool.or_eq_true]
  exact .inr (List.any_eq_true.2 ⟨1000 + p, List.mem_map.2 ⟨p, List.mem_range.2 h, rfl⟩, by simp; omega⟩)

/-- A function's service context at a lane word, and at SADD s1, s2, s3. -/
theorem witness_services : serviceRuns mini 0 = true ∧ serviceOp mini 0 0x4103 = some 0 ∧ serviceOp mini 0 0xFFFFFFFF = none ∧ serviceOp mini 0 0x80008418 = some 0x400 ∧
    filesOnly 0x400 0x80008418 = true ∧ (match infoOf 0x400 0x80008418 0 0 with | .ok i => i.wf 128 false | _ => false) = true := by decide +kernel

/-- A reduce kernel that has ended, and the run that waits for it. -/
def kernelEnds : State := { atRelay (stepWord 4) (.kernel (gk0 + 65536)) with
  gangs := (atRelay (stepWord 4) (.kernel (gk0 + 65536))).gangs ++ [(gk0 + 65536, { startGang 0 1 9 with reduceOf := some gk0 })]
  teams := mini.teams ++ [(teamKey (gk0 + 65536) 0, { startTeam (loadedLaunch 0) 1 with ended := true })] }
theorem witness_kernel_ends : (kernelEnds.gangs.find (gk0 + 65536)).any (fun k => k.reduceOf == some gk0 && retirable kernelEnds (gk0 + 65536) k) = true ∧
    (rctx kernelEnds gk0).any (fun x => x.r.phase == .kernel (gk0 + 65536)) = true ∧ (kernelEnds.teams.all fun p => p.2.buffer.isEmpty) = true ∧
    (kernelEnds.launches.find (launchOfGang (gk0 + 65536))).any (fun l => l.fatal.isNone) = true := by decide +kernel
/-- A patience timer on a gang that has left for another module. -/
theorem witness_packed_notice : (noticeOf true).gangs.find (gangKey 1 1) = none ∧ ((noticeOf true).gangs.find gk0).any (fun g => g.timerNames 1) = true ∧
    (((noticeOf true).setLaunch 1 fun l => { l with gangs := 2, placed := 2 }).launches.find 1).any (fun l => decide (1 < l.gangs) && decide (1 < l.placed)) = true ∧
    Config.dies ≤ dieOfQuad 160 := by
  decide +kernel

/-! ### Queues, gangs and ends of launches -/

/-- A full queue; a head whose seed can be read, one whose seed cannot, one that is replayable; a descriptor to mark. -/
def fullFn : Fn := { f0 with queues := [(0, List.range 256)] }
def seeded (o : Nat) : Launch := { readyLaunch with record := .host (BitVec.ofNat 512 (2 ^ 16 + 8 * 256 ^ 5)), arg := .mk' o 0 64 3 0 true, replayable := true }
theorem witness_queue_full : 256 ≤ ((fullFn.queues.find 0).getD []).length := by decide +kernel
theorem witness_seeds : (recordFlags (seeded 2).record).1.testBit 3 = true ∧ (admitLaunch (queuedAs (seeded 2)) 5 (seeded 2) f0).isSome = true ∧
    admitLaunch (queuedAs (seeded 7)) 5 (seeded 7) f0 = none ∧ writableObjs (seeded 2) = [2] ∧ nextQueue (queuedAs (seeded 7)) = some 0 ∧
    descAddr mini f0 2 = some 0x310000 ∧ physExists 0x310008 = true := by decide +kernel
theorem witness_victim : (crammed.fns.find 0).any (fun f => victim crammed f 0 == some gk0) = true := by decide +kernel

/-- A gang of two teams to place on two idle cores; each kind of stop; a halt of a saved gang; a HOLD of a reduce kernel; a slice over before a gang to come;
the restart of a gang whose places are kept; and a gang that leaves for another module undispatched. -/
def twoTeams : Launch := { readyLaunch with status := .admitting, shape := { loadedImage with teams := 2 } }
theorem witness_two_teams : (launchQuads (queuedAs twoTeams) f0 twoTeams).contains 0 = true ∧ roomOn (queuedAs twoTeams) f0 5 twoTeams 0 [1, 2] twoTeams.needs = true ∧
    (∀ core ∈ [1, 2], groupsOn (queuedAs twoTeams) core = []) ∧ twoTeams.shape.teams ≤ 4 ∧ twoTeams.placed = 0 ∧ twoTeams.replays = 0 := by decide +kernel
def heldCall : State := { mini with
  calls := [(50, ⟨groupKey (teamKey (gk0 + 65536) 0) 1, wk0, 1, 8, 16, [500, 0, 0, 0], none⟩)],
  gangs := mini.gangs ++ [(gk0 + 65536, { startGang 0 1 9 with reduceOf := some gk0 })] }
def keptGang : State := withGang fun g => { g with status := .suspended, kept := true, holdUntil := some (0, 50) }
def nextGang : State := sliced.setLaunch 1 fun l => { l with gangs := 3, placed := 2 }
theorem witness_stops : (mini.gangs.find gk0).any (fun g => g.status == .resident && !g.halted && g.holdUntil.isNone) = true ∧
    (savedGang.gangs.find gk0).any (fun g => g.status == .suspended && !g.halted) = true ∧ (holdCall heldCall (gk0 + 65536)).isSome = true ∧
    (nextGang.gangs.find (gangKey 1 2)).isNone = true ∧ (nextGang.launches.find 1).any (fun l => l.placed == 2 && l.gangs == 3) = true ∧
    launchOfGang (gangKey 1 2) = launchOfGang gk0 ∧ ownCores keptGang gk0 = [0] ∧ (restart keptGang gk0 0 [0]).isSome = true := by decide +kernel
def podLaunch : Launch := { readyLaunch with status := .admitting, span := 2 }
def podFn : Fn := { f0 with quads := [] }
theorem witness_undispatched : (queuedAs podLaunch).gangs.find (gangKey 5 0) = none ∧ gangKey 5 0 % 131072 = podLaunch.placed ∧ launchOfGang (gangKey 5 0) = 5 ∧
    fitsNow (queuedAs podLaunch) podFn 5 podLaunch = false ∧ podLaunch.placed < podLaunch.gangs ∧ Config.dies ≤ 4 := by decide +kernel
/-- Two open launches of a function, and a pending call of one. -/
def vf2 : State := { vf1 with
  launches := [(1, { loadedLaunch 0 with fn := 1 }), (2, { loadedLaunch 0 with fn := 1 })],
  calls := [(50, ⟨gr0, wk0, 1, 8, 40, [0, 0, 0, 0], none⟩)] }
theorem witness_two_ends : (openLaunches vf2 1).map (·.1) = [1, 2] ∧ vf2.launches.wf = true ∧ ((openLaunches vf2 1).all fun p => p.2.evicted.isEmpty && p.2.targets.isEmpty &&
      p.2.partials.isEmpty && p.2.snapObjs.isEmpty && p.2.snaps.isEmpty) = true ∧ vf2.fnOf (launchOfGang (gangOfTeam (teamOfGroup gr0))) = 1 := by decide +kernel

/-! ### The module -/

/-- Power: at full rate; above the limit; above the ceiling; too early. -/
theorem witness_power_sample : projectedDraw [100, 100, 100, 100, 100] = 2200 ∧ projectedDraw [100, 100, 150, 100, 100] = 2500 ∧
    projectedDraw [200, 200, 200, 200, 100] = 3950 ∧ mini.sampled ≤ mini.now / 5 / 10000 ∧ ({ mini with sampled := 1 } : State).now / 5 / 10000 < 1 ∧
    restores mini [] = true ∧ slows mini [(0, 2)] = true := by decide +kernel
/-- Objects that an image may have: none that another has, none twice. -/
theorem witness_fresh : freshObjs mini f0 (imageOf (2 + 2 ^ 128 + 2 ^ 192 + 32 * 2 ^ 256)) = true ∧ freshObjs mini f0 (imageOf (1 + 2 ^ 128 + 2 ^ 192 + 32 * 2 ^ 256)) = false ∧
    (match zHeader (portable 0x4103).mem 0x600000 0x70 with
    | .ok z => match finalise z with
      | .ok n => freshObjs (portable 0x4103) f0 (nativeImage z n 2 9)
      | .error _ => false
    | .error _ => false) = true := by decide +kernel
theorem witness_well_made : dataCap.wellMade = true ∧ (⟨1, false⟩ : Cap).wellMade = false ∧ (Cap.mk' 0 0 64 3 0 true).wellMade = false := by decide +kernel
/-- The functions that launches see; ways to other modules; a word to fold in an object that is no longer ordered. -/
theorem witness_sees : (∀ s ∈ [mini, program, savedGang, endedGang, endsAs fun l => { l with retired := 1 }], s.fnFor 1 = s.fns.find 0 ∧ (s.fnFor 1).isSome = true) ∧
    (∀ s ∈ [unplaced, queuedAs readyLaunch, queuedAs twoTeams], s.fnFor 5 = s.fns.find 0 ∧ (s.fnFor 5).isSome = true) ∧
    (∀ span ∈ [1, 2], (packs span).fnFor 1 = some packFn) ∧ (∀ m < 8, wayCut mini 0 m = false ∧ wayCut mini linkDie m = false) ∧
    (match translate mini.mem f0 2 64 true with | .ok _ => false | _ => true) = true ∧ (match translate mini.mem f0 2 64 false with | .ok _ => true | _ => false) = true ∧
    (foldWords f0 (loadedLaunch 0) [(0, 0, ⟨2, 64, ⟨.zero, false⟩, false, false⟩)] [(2, 64)] mini []).isSome = true := by decide +kernel
/-! ### What 22_prog_two_tenants says of its cases (R439) -/

/-- 32 lanes whose v1 is the lane, c1 narrowed to 31 elements; s6 = 65,409 with s7 = 128, one byte past c3's end; s1 = 9 awaits EVICT's status. -/
def tenant : State := { mini with
  threads := (List.range 32).map fun k => (threadKey tk0 k, Thread.init.setV 1 ⟨BitVec.ofNat 32 k, false⟩)
  groups := [(gr0, ⟨List.range 32, 0, .ready, none, [], [], [], 1, 0, none, false⟩)]
  waves := mini.waves.mapVals fun _ w => (((w.setC 1 (dataCap.narrow 0 124)).setS 6 65409).setS 7 128).setS 1 9 }
/-- "s1 above 32 ends it with CAP_BOUNDS at the first CBND". -/
theorem test_tenant_cbnd : (match exec (.cbnd 2 3 6 0) tenant with
    | .next t => (t.traps.find 100).any (fun r => r.cause == .capBounds) && (t.wave wk0).getC 2 == (tenant.wave wk0).getC 2
    | _ => false) = true := by decide +kernel
/-- "s1 from 1 to 31 ends it with CAP_BOUNDS at the load, naming lane-of-origin s1, and loads nothing". -/
theorem test_tenant_load : (match exec (.ldB32 3 1 1 0) tenant with
    | .next t => (t.traps.find 100).any (fun r => r.cause == .capBounds && r.lane == 31) && t.accesses.isEmpty
    | _ => false) = true := by decide +kernel
/-- "The SYSC status, 0". -/
theorem test_tenant_evict : (match exec (.serviceCallReply 52 0 0 0 0 0) { called with waves := tenant.waves } with
    | .next t => (t.wave wk0).getS 1 == 0 && ((t.launches.find 1).map (·.evicted)) == some [(2, 0)]
    | _ => false) = true := by decide +kernel
/-- "Nothing that another function does ... halts or advances that clock": 5 units are a tick of a resident gang's clock, and none of a stopped one's. -/
theorem test_tenant_clock : (((mini.pass 5).gangs.find gk0).map (·.vtick)) = some 1 ∧ (((savedGang.pass 5).gangs.find gk0).map (·.vtick)) = some 0 := by
  decide +kernel

end Sys2Proof.Tests
end

section
/-! What a refused uniform store does to a group that also has other threads (R145): its clause holds where the table of
accesses is in canonical form, and not in a state in which one number has two entries. -/
namespace Sys2Proof.Machine

/-- The clause of `Obligations.TrapEvents` on a uniform store of a mixed group, for one state. -/
def RefusedSubsetLeaves (s : State) : Prop := ∀ id a c fatal k g slot,
  s.accesses.find id = some a → a.st = .refused c fatal → uniformStore s a = true → a.threads ≠ [] →
  (s.thread (threadKey a.team (a.threads.headD 0))).status = .grouped → groupOf s a.team (a.threads.headD 0) = some (k, g) →
  g.status = .ready ∨ g.status = .waiting → (∃ u ∈ g.lanes, u ∉ a.threads) → freeSlot s (coreOf s a.team) = some slot → groupKey a.team slot ≠ k →
  ∃ t r, exec (.storeRefused id) s = .next t ∧ t.mem = s.mem ∧ t.threads = s.threads ∧ t.waves = s.waves ∧
    t.traps.find (s.nextId + 1) = some r ∧ NamesAccess r a c ∧ r.fatal = fatal ∧ r.resume = .boundary ∧
    t.groups.find k = some { g with lanes := g.lanes.filter fun u => !a.threads.contains u, status := .ready } ∧
    t.groups.find (groupKey a.team slot) = some { g with
      lanes := g.lanes.filter fun u => a.threads.contains u, formed := s.nextId, status := .trapped (s.nextId + 1), fresh := none, stuck := false }

/-! ### What the refused accesses of one number are -/

/-- In a map whose keys rise from lo on, no key lies below lo. -/
theorem Tab.le_of_mem_risingFrom {α : Type} {t : Tab α} {lo k : Nat} {v : α} (h : Tab.risingFrom lo t = true) (hm : (k, v) ∈ t) : lo ≤ k := by
  induction t generalizing lo with
  | nil => simp at hm
  | cons p t ih =>
    obtain ⟨j, u⟩ := p
    simp only [Tab.risingFrom, Bool.and_eq_true, decide_eq_true_eq] at h
    rcases List.mem_cons.1 hm with e | hm
    · cases e; exact h.1
    · exact Nat.le_of_succ_le (Nat.le_trans (Nat.succ_le_succ h.1) (ih h.2 hm))

/-- In a map whose keys rise, an entry is what is found at its key. -/
theorem Tab.find_of_mem_risingFrom {α : Type} {t : Tab α} {lo k : Nat} {v : α} (h : Tab.risingFrom lo t = true) (hm : (k, v) ∈ t) : t.find k = some v := by
  induction t generalizing lo with
  | nil => simp at hm
  | cons p t ih =>
    obtain ⟨j, u⟩ := p
    simp only [Tab.risingFrom, Bool.and_eq_true, decide_eq_true_eq] at h
    rcases List.mem_cons.1 hm with e | hm
    · cases e; simp [Tab.find]
    · have hk : j + 1 ≤ k := Tab.le_of_mem_risingFrom h.2 hm
      simp only [Tab.find]
      rw [if_neg (by omega), ih h.2 hm]

theorem mem_of_lowestOf {x : Access} {as : List Access} (h : lowestOf as = some x) : x ∈ as := by
  induction as generalizing x with
  | nil => simp [lowestOf] at h
  | cons a as ih =>
    unfold lowestOf at h
    split at h
    · cases h; exact List.mem_cons_self
    · next b hb =>
      split at h
      · cases h; exact List.mem_cons_self
      · cases h; exact List.mem_cons_of_mem _ (ih hb)

/-- The lowest-ranked of accesses that are all a, or a where there is none, is a. -/
theorem lowestOf_getD_eq {a : Access} {as : List Access} (h : ∀ x ∈ as, x = a) : (lowestOf as).getD a = a := by
  cases e : lowestOf as with
  | none => rfl
  | some x => exact h x (mem_of_lowestOf e)

theorem groupOf_eq_some {s : State} {tk t k : Nat} {g : Group} (h : groupOf s tk t = some (k, g)) : teamOfGroup k = tk ∧ t ∈ g.lanes := by
  obtain ⟨⟨j, u⟩, hp, e⟩ := Option.map_eq_some_iff.1 h
  cases e
  simpa using List.find?_some hp

/-! ### What the record and the groups then hold -/

section
variable (s : State) (k : Nat) (args : TrapArgs)

theorem takeTrap_record : (takeTrap s k args).traps.find s.nextId = some (trapRecord s (teamOfGroup k) (some k) args) := by
  simp [takeTrap, Tab.find_put]

theorem takeTrap_group (j : Nat) : (takeTrap s k args).groups.find j =
    if j = k then (s.groups.find j).map fun g => { g with status := .trapped s.nextId, fresh := none, stuck := false } else s.groups.find j := by
  simp only [takeTrap, Tab.find_modify]

theorem wake_group : s.wake.groups.find k = (s.groups.find k).map fun g => if g.status = .waiting then { g with status := .ready } else g := by
  simp only [State.wake, Tab.find_mapVals]

theorem splitOff_group (slot j : Nat) (g : Group) (ls : List Nat) : (splitOff s k slot g ls).groups.find j =
    if j = groupKey (teamOfGroup k) slot then some { g with lanes := ls, formed := s.nextId }
    else if j = k then some { g with lanes := g.lanes.filter fun t => !ls.contains t } else s.groups.find j := by
  simp only [splitOff, Tab.find_put]

end

/-- The record of refused accesses that are all a names a. -/
theorem trapRecord_refusalArgs {s v : State} {a : Access} {as : List Access} {c : Cause} {fatal : Bool} {tk : Nat} {gr : Option Nat}
    (only : ∀ x ∈ as, x = a) (refused : a.st = .refused c fatal) :
    let r := trapRecord v tk gr (refusalArgs s a as)
    NamesAccess r a c ∧ r.fatal = fatal ∧ r.resume = .boundary := by
  simp only [trapRecord, refusalArgs, NamesAccess, lowestOf_getD_eq only, refused, ASt.refusal, and_self]

/-! ### The split -/

section
variable {s : State} {id k slot : Nat} {a : Access} {c : Cause} {fatal : Bool} {g : Group} {args : TrapArgs}

/-- A uniform store stops the lanes of its subset in a group slot of their own, where the group has others (R145). -/
theorem stopRefused_mixed (uniform : uniformStore s a = true) (others : ∃ u ∈ g.lanes, u ∉ a.threads) (free : freeSlot s (coreOf s a.team) = some slot) :
    stopRefused s k g a args =
      some (takeTrap (splitOff s k slot g (g.lanes.filter fun u => a.threads.contains u)) (groupKey a.team slot) args) := by
  obtain ⟨u, hu, hn⟩ := others
  have fewer : (g.lanes.filter fun u => a.threads.contains u).length ≠ g.lanes.length := fun e =>
    hn (by simpa using List.length_filter_eq_length_iff.1 e u hu)
  simp only [stopRefused, stopLanes, uniform, if_true, if_neg fewer, free, Option.map_some]

/-- A refused uniform store whose number has one entry stops its subset with the record of that entry alone. -/
theorem exec_storeRefused_mixed (wf : s.accesses.wf = true) (found : s.accesses.find id = some a) (refused : a.st = .refused c fatal)
    (uniform : uniformStore s a = true) (grouped : (s.thread (threadKey a.team (a.threads.headD 0))).status = .grouped)
    (group : groupOf s a.team (a.threads.headD 0) = some (k, g)) (stands : g.status = .ready ∨ g.status = .waiting)
    (others : ∃ u ∈ g.lanes, u ∉ a.threads) (free : freeSlot s (coreOf s a.team) = some slot) :
    ∃ as ids, (∀ x ∈ as, x = a) ∧ exec (.storeRefused id) s = .next (settle
      (takeTrap (splitOff s k slot g (g.lanes.filter fun u => a.threads.contains u)) (groupKey a.team slot) (refusalArgs s a as))
      ids (g.lanes.filter fun u => a.threads.contains u)).wake := by
  have hs : (g.status == .ready || g.status == .waiting) = true := by simpa using stands
  refine ⟨_, _, fun x hx => ?_, by
    rw [show exec (.storeRefused id) s = execStoreRefused id s from rfl]
    simp only [execStoreRefused, found, refused, uniform, grouped, group, hs, Bool.not_true, Bool.false_and, Bool.false_or,
      Bool.false_eq_true, if_false, if_true, stopRefused_mixed uniform others free, stopLanes]
    rfl⟩
  obtain ⟨⟨n, y⟩, hy, rfl⟩ := List.mem_map.1 hx
  simp only [List.mem_filter, Bool.and_eq_true, beq_iff_eq] at hy
  obtain ⟨⟨⟨hy, -⟩, -, rfl⟩, -⟩ := hy
  exact Option.some.inj ((Tab.find_of_mem_risingFrom wf hy).symm.trans found)

end

/-- The clause holds in every state whose table of accesses is in canonical form. -/
theorem refusedSubsetLeaves_of_wf {s : State} (wf : s.accesses.wf = true) : RefusedSubsetLeaves s := by
  intro id a c fatal k g slot found refused uniform _ grouped group stands others free apart
  obtain ⟨as, ids, only, hexec⟩ := exec_storeRefused_mixed wf found refused uniform grouped group stands others free
  have team : teamOfGroup k = a.team := (groupOf_eq_some group).1
  have record := takeTrap_record (splitOff s k slot g (g.lanes.filter fun u => a.threads.contains u)) (groupKey a.team slot) (refusalArgs s a as)
  obtain ⟨names, hfatal, boundary⟩ := trapRecord_refusalArgs only refused
  refine ⟨_, _, hexec, ?_, ?_, ?_, record, ?_⟩
  · rfl
  · rfl
  · rfl
  refine ⟨names, hfatal, boundary, ?_, ?_⟩
  · rw [wake_group, settle, takeTrap_group, splitOff_group, team, if_neg (Ne.symm apart), if_neg (Ne.symm apart), if_pos rfl]
    have rest : (g.lanes.filter fun t => !(g.lanes.filter fun u => a.threads.contains u).contains t) = g.lanes.filter fun u => !a.threads.contains u :=
      List.filter_congr fun u hu => by simp [hu]
    rcases stands with h | h <;> simp only [rest, h, reduceCtorEq, if_true, if_false, Option.map_some]
  · rw [wake_group, settle, takeTrap_group, splitOff_group, team, if_pos rfl, if_pos rfl]
    rfl

/-! ### A state in which it fails -/

/-- The instruction of both accesses: an SST.b32 of a group of threads 0 and 32, in slot 0 at PC 0. -/
def splitIssue : Issued := ⟨0, 0x90400000, 0, 0, [0, 32], [], [], [], [], [], false, 0⟩

/-- A store access of it for one thread, refused with cause c. -/
def refusedOf (thread : Nat) (c : Cause) : Access :=
  ⟨0, 5, .store 0 none, 2, 0, 4, 0, [thread], splitIssue, .refused c false, true, 0, Cap.null, 0, [], false, [], 0⟩

/-- The group of the two threads. -/
def splitGroup : Group := ⟨[0, 32], 4, .ready, none, [], [], [], 1, 0, none, false⟩

/-- A state in which number 7 has two entries of the table of accesses. What is found there is the access of thread 32, and behind it stands
that of thread 0, which is lower-ranked and was refused with another cause. -/
def twiceNumbered : State := { State.reset with
  boot := .ready, fns := [(0, Fn.init)], launches := [(0, nameCtx.launch)], gangs := [(0, nameCtx.gang)], teams := [(0, nameCtx.team)]
  groups := [(0, splitGroup)], nextId := 100
  accesses := [(7, refusedOf 32 .pagePermission), (7, refusedOf 0 .tagMismatch)] }

/-- The cause of record n in the state that an outcome answers. -/
def recordedCause (n : Nat) : Host.Outcome State Fault Refusal → Option Cause
  | .next t => (t.traps.find n).map (·.cause)
  | _ => none

/-- The hypotheses of the clause on uniform stores of mixed groups, for the access found. -/
theorem twiceNumbered_splits : twiceNumbered.accesses.find 7 = some (refusedOf 32 .pagePermission) ∧
    uniformStore twiceNumbered (refusedOf 32 .pagePermission) = true ∧
    (twiceNumbered.thread (threadKey 0 32)).status = .grouped ∧ groupOf twiceNumbered 0 32 = some (0, splitGroup) ∧
    freeSlot twiceNumbered (coreOf twiceNumbered 0) = some 1 := by decide +kernel

/-- Its record names the other entry's cause. -/
theorem twiceNumbered_names_other : recordedCause (twiceNumbered.nextId + 1) (exec (.storeRefused 7) twiceNumbered) = some .tagMismatch := by decide +kernel

/-- In `twiceNumbered` the clause fails: found is the access of thread 32, and the record names the cause of thread 0's. -/
theorem not_refusedSubsetLeaves_twiceNumbered : ¬ RefusedSubsetLeaves twiceNumbered := by
  intro leaves
  obtain ⟨found, uniform, grouped, group, free⟩ := twiceNumbered_splits
  obtain ⟨t, r, hexec, -, -, -, record, ⟨cause, -⟩, -⟩ := leaves 7 (refusedOf 32 .pagePermission) .pagePermission false 0 splitGroup 1
    found rfl uniform (by decide) grouped group (.inl rfl) ⟨0, by decide⟩ free (by decide)
  have other := twiceNumbered_names_other
  rw [hexec, recordedCause, record, Option.map_some, cause] at other
  exact absurd other (by decide)

/-- Refutes O49: its clause on a uniform store of a mixed group does not ask that the table of accesses is in canonical form. Where one number has
two entries, the record names the lower-ranked one of both and not the one that is found (`twiceNumbered`); in canonical form
the clause holds (`refusedSubsetLeaves_of_wf`). -/
theorem not_trapEvents : ¬ Obligations.TrapEvents := by
  unfold Obligations.TrapEvents
  rintro ⟨-, leaves, -⟩
  exact not_refusedSubsetLeaves_twiceNumbered (leaves twiceNumbered)

end Sys2Proof.Machine
end

section
/-! The capability word and the checks made with it (R27, R140, R141, R154, R155). -/
namespace Sys2Proof.Machine

theorem bit_eq_testBit (w k : Nat) : bit w k = w.testBit k := by
  rw [Nat.testBit_eq_decide_div_mod_eq]; rfl

/-! ### The fields of a capability that is built -/

section
variable (o b l r c : Nat) (v : Bool)

/-- The 128 bits of a built capability as a number: no carry leaves them. -/
theorem Cap.mk'_toNat : (Cap.mk' o b l r c v).bits.toNat =
    o % 2 ^ 32 * 2 ^ 96 + b % 2 ^ 40 * 2 ^ 56 + l % 2 ^ 40 * 2 ^ 16 + r % 64 * 256 + c % 16 * 16 := by
  rw [Cap.mk', BitVec.toNat_ofNat]
  exact Nat.mod_eq_of_lt (by omega)

@[simp] theorem Cap.mk'_valid : (Cap.mk' o b l r c v).valid = v := by rw [Cap.mk']
@[simp] theorem Cap.mk'_object : (Cap.mk' o b l r c v).object = o % 2 ^ 32 := by
  rw [Cap.object, Cap.field, Cap.mk'_toNat]; omega
@[simp] theorem Cap.mk'_base : (Cap.mk' o b l r c v).base = b % 2 ^ 40 := by
  rw [Cap.base, Cap.field, Cap.mk'_toNat]; omega
@[simp] theorem Cap.mk'_length : (Cap.mk' o b l r c v).length = l % 2 ^ 40 := by
  rw [Cap.length, Cap.field, Cap.mk'_toNat]; omega
/-- Bits 7:6 of the rights are reserved (R141): what is given for them does not reach the capability. -/
@[simp] theorem Cap.mk'_rights : (Cap.mk' o b l r c v).rights = r % 64 := by
  rw [Cap.rights, Cap.field, Cap.mk'_toNat]; omega
@[simp] theorem Cap.mk'_colour : (Cap.mk' o b l r c v).colour = c % 16 := by
  rw [Cap.colour, Cap.field, Cap.mk'_toNat]; omega
theorem Cap.mk'_reserved : (Cap.mk' o b l r c v).field 0 4 = 0 := by
  rw [Cap.field, Cap.mk'_toNat]; omega

end

/-! ### What holds of the rest of the statement -/

/-- R27's order of checks: validity, right, bounds, alignment. -/
theorem checkCap_order (k : Cap) (a : Int) (n : Nat) (rt : Right) :
    let p := (k.object, (((k.base : Int) + a) % 2 ^ 64).toNat)
    checkCap k a n rt =
      if k.valid = false then .error (.capInvalid, p)
      else if k.rights.testBit rt.bit = false then .error (.capRights, p)
      else if a < 0 ∨ (k.length : Int) < a + n then .error (.capBounds, p)
      else if p.2 % min n 16 ≠ 0 then .error (.alignment, p)
      else .ok p := by
  simp only [checkCap, Cap.has, bit_eq_testBit, Bool.not_eq_true', Bool.or_eq_true, decide_eq_true_eq, gt_iff_lt]

theorem Cap.object_mod (k : Cap) : k.object % 2 ^ 32 = k.object := by
  rw [Cap.object, Cap.field, Nat.mod_mod]

theorem Cap.colour_mod (k : Cap) : k.colour % 16 = k.colour := by
  rw [Cap.colour, Cap.field, show 2 ^ 4 = 16 from rfl, Nat.mod_mod]

/-- Narrowing keeps object, rights and colour (R154), of a capability whose reserved rights are clear, as every one that the loader writes (`Cap.wellMade`). -/
theorem Cap.narrow_keeps {k : Cap} (off len : Nat) (six : k.rights < 64) : (k.narrow off len).object = k.object ∧
    (k.narrow off len).rights = k.rights ∧ (k.narrow off len).colour = k.colour ∧ (k.narrow off len).valid = k.valid := by
  unfold Cap.narrow
  exact ⟨(Cap.mk'_object ..).trans k.object_mod, (Cap.mk'_rights ..).trans (Nat.mod_eq_of_lt six), (Cap.mk'_colour ..).trans k.colour_mod,
    Cap.mk'_valid ..⟩

/-- Masking adds no right (R155). -/
theorem Cap.mask_rights {k : Cap} {m n : Nat} (h : (k.mask m).rights.testBit n = true) :
    k.rights.testBit n = true ∧ m.testBit n = true ∧ n < 6 := by
  rw [Cap.mask, Cap.mk'_rights, show 64 = 2 ^ 6 from rfl, Nat.testBit_mod_two_pow] at h
  simp only [Nat.testBit_and, Bool.and_eq_true, decide_eq_true_eq] at h
  obtain ⟨six, ⟨right, kept⟩, -⟩ := h
  exact ⟨right, kept, six⟩

theorem Cap.null_field (lo n : Nat) : Cap.null.field lo n = 0 := by
  simp [Cap.null, Cap.field]

/-- Refutes O17: of the rights given for a capability that is built only the six of R141 reach it, since bits 7:6 are reserved, while the statement
lets all eight read back. A capability built with rights 64 has none. -/
theorem not_capabilityChecks : ¬ Obligations.CapabilityChecks := by
  unfold Obligations.CapabilityChecks
  rintro ⟨-, built, -⟩
  obtain ⟨-, -, -, rights, -⟩ := built 0 0 0 64 0 false
  rw [Cap.mk'_rights] at rights
  exact absurd rights (by decide)

end Sys2Proof.Machine
end

section
/-! Firmware and management (R90 to R97, R404, R444 to R449): what an image load, a table load, an update and the management requests do. -/
namespace Sys2Proof.Machine

/-! ### Marks in table entries -/

/-- Adding 2^k where bit k is clear sets that bit and no other. -/
theorem testBit_add_two_pow {v k : Nat} (clear : v.testBit k = false) (j : Nat) : (v + 2 ^ k).testBit j = if j = k then true else v.testBit j := by
  rw [Nat.add_comm]
  rcases Nat.lt_trichotomy j k with below | rfl | above
  · rw [Nat.testBit_two_pow_add_gt below, if_neg (Nat.ne_of_lt below)]
  · rw [Nat.testBit_two_pow_add_eq, clear, if_pos rfl, Bool.not_false]
  · have noCarry : (2 ^ k + v) / 2 ^ k / 2 = v / 2 ^ k / 2 := by
      rw [Nat.testBit_eq_decide_div_mod_eq, decide_eq_false_iff_not] at clear
      rw [Nat.add_div_left _ (Nat.two_pow_pos k)]
      omega
    obtain ⟨i, rfl⟩ : ∃ i, j = i + 1 + k := ⟨j - (1 + k), by omega⟩
    have upper (w : Nat) : w.testBit (i + 1 + k) = (w / 2 ^ k / 2).testBit i := by rw [← Nat.testBit_div_two_pow, Nat.testBit_succ]
    rw [if_neg (by omega), upper, upper, noCarry]

/-- The number v with bit k set or cleared, as `setMemBit` writes it. -/
def withBit (v k : Nat) (b : Bool) : Nat := if b then (if bit v k then v else v + 2 ^ k) else (if bit v k then v - 2 ^ k else v)

theorem setMemBit_eq (s : State) (a k : Nat) (b : Bool) : setMemBit s a k b =
    if (withBit (readLE s.mem a 8) k b = readLE s.mem a 8 || !physExists a) = true then s else s.writeMem a 8 (withBit (readLE s.mem a 8) k b) := rfl

theorem testBit_withBit (v k : Nat) (b : Bool) (j : Nat) : (withBit v k b).testBit j = if j = k then b else v.testBit j := by
  have same (h : v.testBit k = b) : v.testBit j = if j = k then b else v.testBit j := by
    split
    · next e => rw [e, h]
    · rfl
  simp only [withBit, bit_eq_testBit]
  cases b with
  | true =>
    rw [if_pos rfl]
    cases h : v.testBit k with
    | true => rw [if_pos rfl]; exact same h
    | false => rw [if_neg Bool.false_ne_true]; exact testBit_add_two_pow h j
  | false =>
    rw [if_neg Bool.false_ne_true]
    cases h : v.testBit k with
    | false => rw [if_neg Bool.false_ne_true]; exact same h
    | true =>
      have sum : v - 2 ^ k + 2 ^ k = v := Nat.sub_add_cancel (Nat.ge_two_pow_of_testBit h)
      have clear : (v - 2 ^ k).testBit k = false := by
        rw [← sum, Nat.add_comm, Nat.testBit_two_pow_add_eq] at h
        simpa using h
      have others := testBit_add_two_pow clear j
      rw [sum] at others
      rw [if_pos rfl]
      split
      · next e => rw [e, clear]
      · next e => rw [others, if_neg e]

theorem readLE_lt (m : List Host.Cell) (a n : Nat) : readLE m a n < 256 ^ n := by
  induction n generalizing a with
  | zero => exact Nat.one_pos
  | succ n ih =>
    have low := (readByte m a).isLt
    have high := ih (a + 1)
    rw [readLE, Nat.pow_succ]
    omega

theorem withBit_lt {v k n : Nat} (b : Bool) (hv : v < 2 ^ n) (hk : k < n) : withBit v k b < 2 ^ n := by
  refine Nat.lt_pow_two_of_testBit _ fun i hi => ?_
  rw [testBit_withBit, if_neg (by omega)]
  exact Nat.testBit_lt_two_pow (Nat.lt_of_lt_of_le hv (Nat.pow_le_pow_right Nat.two_pos hi))

/-- A mark writes its 8 bytes, as far as memory stands there, and no other. -/
theorem setMemBit_bytesKept (s : State) (a k : Nat) (b : Bool) : BytesKept s (setMemBit s a k b) a 8 := by
  intro x hx
  rw [setMemBit_eq]
  split
  · rfl
  · rw [writeMem_mem, readByte_writeLE_outside _ _ _ _ _ hx]

theorem setMemBit_readLE {s : State} {a k : Nat} (b : Bool) (phys : physExists a = true) (hk : k < 64) :
    readLE (setMemBit s a k b).mem a 8 = withBit (readLE s.mem a 8) k b := by
  rw [setMemBit_eq]
  split
  · next h => simpa [phys, eq_comm] using h
  · rw [writeMem_mem, readLE_writeLE]
    exact Nat.mod_eq_of_lt (withBit_lt (n := 64) b (readLE_lt s.mem a 8) hk)

/-! ### What the loader and the mapper touch -/

/-- Only memory and what is kept beside its bytes differ: colours, validity bits, older writes and versions of sectors. -/
def MemoryOnly (s t : State) : Prop :=
  t = { s with mem := t.mem, colours := t.colours, valid := t.valid, past := t.past, versions := t.versions }

namespace MemoryOnly

theorem refl (s : State) : MemoryOnly s s := rfl

theorem trans {s t u : State} (h : MemoryOnly s t) (g : MemoryOnly t u) : MemoryOnly s u := by
  unfold MemoryOnly at *
  rw [g, h]

theorem fns {s t : State} (h : MemoryOnly s t) : t.fns = s.fns := by rw [h]

theorem reports {s t : State} (h : MemoryOnly s t) : t.reports = s.reports := by rw [h]

/-- A fold of steps that touch only memory touches only memory. -/
theorem foldl {α : Type} {f : State → α → State} (step : ∀ s x, MemoryOnly s (f s x)) (l : List α) (s : State) : MemoryOnly s (l.foldl f s) := by
  induction l generalizing s with
  | nil => exact refl s
  | cons x l ih => exact (step s x).trans (ih (f s x))

theorem writeMem (s : State) (a n v : Nat) : MemoryOnly s (s.writeMem a n v) := by
  unfold State.writeMem
  split
  · exact refl s
  · rfl

theorem setMemBit (s : State) (a k : Nat) (b : Bool) : MemoryOnly s (setMemBit s a k b) := by
  rw [setMemBit_eq]
  split
  · exact refl s
  · exact writeMem ..

theorem clearFrame (s : State) (a : Nat) : MemoryOnly s (s.clearFrame a) := rfl

theorem markObj (s : State) (f : Fn) (k : Nat) (b : Bool) (o : Nat) : MemoryOnly s (markObj s f k b o) := by
  unfold Machine.markObj
  split
  · exact setMemBit ..
  · exact refl s

theorem markPages (f : Fn) (o k : Nat) (b : Bool) (n : Nat) (s : State) : MemoryOnly s (markPages f o k b n s) := by
  induction n generalizing s with
  | zero => exact refl s
  | succ n ih =>
    refine trans ?_ (ih _)
    split
    · split
      · exact setMemBit ..
      · exact refl s
    · exact refl s

theorem mapSection (f : Fn) (s : State) (o : Nat) : MemoryOnly s (mapSection f s o) :=
  (markObj s f 48 false o).trans <| (markObj _ f 49 true o).trans <| (markObj _ f 50 false o).trans <|
    (markPages f o 7 true _ _).trans (markPages f o 8 false _ _)

theorem mapImage (s : State) (f : Fn) (i : NativeImage) : MemoryOnly s (mapImage s f i) :=
  (foldl (fun s _ => foldl clearFrame _ s) _ s).trans <|
    (foldl (fun s o => markPages f o 5 true _ s) _ _).trans (foldl (mapSection f) _ _)

theorem loadBytes {f : Fn} {o : Nat} (bs : List Nat) {s t : State} {off : Nat} (h : loadBytes f o s off bs = some t) : MemoryOnly s t := by
  induction bs generalizing s off with
  | nil => cases h; exact refl _
  | cons b bs ih =>
    unfold Machine.loadBytes at h
    split at h
    · exact (writeMem s _ 1 b).trans (ih h)
    · cases h

theorem loadSections {f : Fn} {src : Nat} (zs : List ZSection) {s t : State} {o : Nat} (h : loadSections f src s o zs = some t) : MemoryOnly s t := by
  induction zs generalizing s o with
  | nil => cases h; exact refl _
  | cons z zs ih =>
    unfold Machine.loadSections at h
    split at h
    · next found => exact (loadBytes _ found).trans (ih h)
    · cases h

end MemoryOnly

/-! ### Clearing a frame -/

/-- Of the entries whose keys a predicate keeps, a kept key finds what it found and another finds nothing. -/
theorem Tab.find_filter {α : Type} (t : Tab α) (p : Nat → Bool) (k : Nat) :
    Tab.find (t.filter fun x => p x.1) k = if p k = true then t.find k else none := by
  induction t with
  | nil => simp [Tab.find]
  | cons x t ih =>
    obtain ⟨i, u⟩ := x
    by_cases h : k = i
    · subst h
      cases hp : p k <;> simp [hp, Tab.find, ih]
    · cases hp : p i <;> simp [hp, Tab.find, ih, h]

/-- A map with a default reads the default where entries have been dropped. -/
theorem sget_filter {α : Type} (d : α) (t : Tab α) (p : Nat → Bool) (k : Nat) :
    sget d (t.filter fun x => p x.1) k = if p k = true then sget d t k else d := by
  rw [sget, Tab.find_filter]
  split <;> rfl

/-- The granules and halves of the cleared frame, and no other, read colour 0 and invalid (R434). -/
theorem clearFrame_reads (s : State) (a n : Nat) : (s.clearFrame a).mem = s.mem ∧
    (sget 0 (s.clearFrame a).colours n = if a / 32 ≤ n ∧ n < a / 32 + 2048 then 0 else sget 0 s.colours n) ∧
    sget false (s.clearFrame a).valid n = if a / 16 ≤ n ∧ n < a / 16 + 4096 then false else sget false s.valid n := by
  refine ⟨rfl, ?_, ?_⟩
  · refine (sget_filter 0 s.colours (fun k => !(decide (a / 32 ≤ k) && decide (k < a / 32 + 2048))) n).trans ?_
    simp only [← Bool.decide_and, Bool.not_eq_true', decide_eq_false_iff_not, ite_not]
  · refine (sget_filter false s.valid (fun k => !(decide (a / 16 ≤ k) && decide (k < a / 16 + 4096))) n).trans ?_
    simp only [← Bool.decide_and, Bool.not_eq_true', decide_eq_false_iff_not, ite_not]

/-! ### Image loads -/

/-- The loader's handles for sections name no entry of the capability table. -/
theorem freeHandles_free {f : Fn} {n h : Nat} (mem : h ∈ freeHandles f n) : f.caps.find h = none := by
  have free := (List.mem_filter.1 (List.mem_of_mem_take mem)).2
  simp only [Bool.and_eq_true, Option.isNone_iff_eq_none] at free
  exact free.1

/-- Entries put at other keys leave what is found at a key. -/
theorem Tab.find_foldl_put {α β : Type} (g : β → α) {ps : List (Nat × β)} {k : Nat} (other : ∀ p ∈ ps, p.1 ≠ k) (t : Tab α) :
    Tab.find (ps.foldl (fun t p => t.put p.1 (g p.2)) t) k = t.find k := by
  induction ps generalizing t with
  | nil => rfl
  | cons p ps ih =>
    rw [List.foldl_cons, ih fun q hq => other q (List.mem_cons_of_mem _ hq), Tab.find_put, if_neg (Ne.symm (other p List.mem_cons_self))]

/-- The image stands under its handle, and every capability keeps its handle (R39, R404). -/
theorem withImage_tables (f : Fn) (h : Nat) (i : NativeImage) : (f.withImage h i).images.find h = some i ∧
    (∀ k, k ≠ h → (f.withImage h i).images.find k = f.images.find k) ∧
    ∀ k c, f.caps.find k = some c → (f.withImage h i).caps.find k = some c := by
  refine ⟨?_, fun k hk => ?_, fun k c found => ?_⟩
  · simp only [Fn.withImage, Tab.find_put, if_true]
  · simp only [Fn.withImage, Tab.find_put, if_neg hk]
  · refine (Tab.find_foldl_put SectionDecl.cap (fun p hp e => ?_) f.caps).trans found
    have free := freeHandles_free (List.of_mem_zip hp).1
    rw [e, found] at free
    cases free

section
variable {s : State} {fn src len h co so : Nat} {f : Fn} {z : Zpf} {n : Native} {e : ZErr}

/-- A handle of the image table in Ready passes the first check of a load. -/
theorem zpfLoad_legal (ready : s.boot = .ready) (low : 1 ≤ h) (high : h ≤ 65535) :
    (decide (s.boot ≠ .ready) || h == 0 || decide (65535 < h)) = false := by
  simp only [ready, ne_eq, not_true_eq_false, decide_false, Bool.false_or, Bool.or_eq_false_iff, beq_eq_false_iff_ne, decide_eq_false_iff_not]
  omega

variable (found : s.fns.find fn = some f) (legal : (decide (s.boot ≠ .ready) || h == 0 || decide (65535 < h)) = false)
include found legal

/-- R98: under a remapped table a portable image is not loaded. -/
theorem zpfLoad_remapped (remapped : f.tableReset = false) : exec (.zpfLoad fn src len h co so) s = .next { s with reports := (3, 7) :: s.reports } := by
  show execZpfLoad fn src len h co so s = _
  simp only [execZpfLoad, found, legal, remapped, Bool.not_false, if_true, Bool.false_eq_true, if_false]
  rfl

variable (reset : f.tableReset = true)
include reset

theorem zpfLoad_loaded (used : (f.images.find h).isSome = true) :
    exec (.zpfLoad fn src len h co so) s = .next { s with reports := (3, 0) :: s.reports } := by
  show execZpfLoad fn src len h co so s = _
  simp only [execZpfLoad, found, legal, reset, used, Bool.not_true, if_true, Bool.false_eq_true, if_false]
  rfl

variable (unused : f.images.find h = none) (first : physExists src = true) (last : len = 0 ∨ physExists (src + (len - 1)) = true)
include unused first last

/-- R90: the status of the header or a table that fails. -/
theorem zpfLoad_header (header : zHeader s.mem src len = .error e) :
    exec (.zpfLoad fn src len h co so) s = .next { s with reports := (3, e.code) :: s.reports } := by
  have inside : (physExists src && (len == 0 || physExists (src + (len - 1)))) = true := by simpa [first] using last
  show execZpfLoad fn src len h co so s = _
  simp only [execZpfLoad, found, legal, reset, unused, inside, header, Option.isSome_none, Bool.not_true, Bool.false_eq_true, if_false]
  rfl

variable (header : zHeader s.mem src len = .ok z)
include header

/-- R92, R93: the status of the code that fails. -/
theorem zpfLoad_code (code : finalise z = .error e) :
    exec (.zpfLoad fn src len h co so) s = .next { s with reports := (3, e.code) :: s.reports } := by
  have inside : (physExists src && (len == 0 || physExists (src + (len - 1)))) = true := by simpa [first] using last
  show execZpfLoad fn src len h co so s = _
  simp only [execZpfLoad, found, legal, reset, unused, inside, header, code, Option.isSome_none, Bool.not_true, Bool.false_eq_true, if_false]
  rfl

/-- R94: the finalised image is placed and entered. -/
theorem zpfLoad_native {u v : State} (code : finalise z = .ok n) (fresh : freshObjs s f (nativeImage z n co so) = true)
    (words : loadBytes f co s 0 (n.words.flatMap fun w => bytesOf w 4) = some u) (sections : loadSections f src u so z.sections = some v) :
    exec (.zpfLoad fn src len h co so) s = .next (zReport ((mapImage v f (nativeImage z n co so)).setFn fn fun f =>
      { f.withImage h (nativeImage z n co so) with measure := extend f.measure (Config.sha512 (nativeBytes n)) }) 0) := by
  have inside : (physExists src && (len == 0 || physExists (src + (len - 1)))) = true := by simpa [first] using last
  show execZpfLoad fn src len h co so s = _
  simp only [execZpfLoad, found, legal, reset, unused, inside, header, code, fresh, words, sections, Option.isSome_none, Bool.not_true,
    Bool.false_eq_true, if_false]

end

/-- What a load that succeeds leaves (R94, R97, R404): the memory that the loader has made, the image under its handle, the other images and the
capabilities as they were, the function's measurement extended, and status 0. -/
theorem zpfLoad_placed (v : State) (f : Fn) (fn h : Nat) (i : NativeImage) (d : BitVec 512) :
    let t := zReport ((mapImage v f i).setFn fn fun f => { f.withImage h i with measure := extend f.measure d }) 0
    t.mem = (mapImage v f i).mem ∧ t.colours = (mapImage v f i).colours ∧ t.reports = (3, 0) :: v.reports ∧
    ∀ g, v.fns.find fn = some g → ∃ f', t.fns.find fn = some f' ∧ f'.images.find h = some i ∧
      (∀ k, k ≠ h → f'.images.find k = g.images.find k) ∧ (∀ k c, g.caps.find k = some c → f'.caps.find k = some c) ∧ f'.measure = extend g.measure d := by
  refine ⟨rfl, rfl, congrArg _ (MemoryOnly.mapImage v f i).reports, fun g found => ?_⟩
  obtain ⟨image, images, caps⟩ := withImage_tables g h i
  refine ⟨{ g.withImage h i with measure := extend g.measure d }, ?_, image, images, caps, rfl⟩
  simp only [zReport, State.setFn_fns, Tab.find_modify, if_true, (MemoryOnly.mapImage v f i).fns, found, Option.map_some]

/-- The finaliser's promise D is that of the header, where the header gives one (R92). -/
theorem finalise_promise {z : Zpf} {n : Native} (h : finalise z = .ok n) (given : z.flags.testBit 0 = true) : n.promiseD = z.flags.testBit 1 := by
  unfold finalise at h
  split at h
  · cases h
  · simp only at h
    split at h
    · cases h
    · split at h
      · cases h
      · split at h
        · cases h
        · next agree =>
          cases h
          simp only [bit_eq_testBit, given, Bool.true_and, bne_iff_ne, ne_eq, not_not] at agree
          exact agree.symm

/-! ### Decode tables -/

theorem tableDiff_below {k j : Nat} (es : List Nat) (below : j < k) : (tableDiff k es).find j = none := by
  induction es generalizing k with
  | nil => rfl
  | cons e es ih =>
    rw [tableDiff]
    split
    · exact ih (by omega)
    · rw [Tab.find, if_neg (by omega), ih (by omega)]

/-- The table kept as differences from the reset table reads as the one given. -/
theorem tableDiff_reads (es : List Nat) (k j : Nat) (hj : j < es.length) : ((tableDiff k es).find (k + j)).getD (resetEntry (k + j)) = es.getD j 0 := by
  induction es generalizing k j with
  | nil => simp at hj
  | cons e es ih =>
    rw [tableDiff]
    cases j with
    | zero =>
      rw [show k + 0 = k from rfl]
      split
      · next same => rw [tableDiff_below es (Nat.lt_succ_self k), same]; rfl
      · rw [Tab.find, if_pos rfl]; rfl
    | succ j =>
      have rest := ih (k + 1) j (by simpa using hj)
      rw [show k + 1 + j = k + (j + 1) by omega] at rest
      split
      · exact rest
      · rw [Tab.find, if_neg (by omega), rest]; rfl

section
variable {s : State} {fn : Nat} {f : Fn} {es : List Nat} (found : s.fns.find fn = some f)
  (legal : (decide (s.boot ≠ .ready) || es.length != 2048 || es.any fun e => decide (65536 ≤ e)) = false)

theorem decodeTableLoad_legal (ready : s.boot = .ready) (whole : es.length = 2048) (narrow : ∀ e ∈ es, e < 65536) :
    (decide (s.boot ≠ .ready) || es.length != 2048 || es.any fun e => decide (65536 ≤ e)) = false := by
  have fits : (es.any fun e => decide (65536 ≤ e)) = false := by simpa using narrow
  simp [ready, whole, fits]

include found legal

/-- R97: BUSY while a gang of the function stands. -/
theorem decodeTableLoad_busy (busy : ∃ p ∈ s.gangs, s.fnOf (launchOfGang p.1) = fn) :
    exec (.decodeTableLoad fn es) s = .next { s with reports := (4, 1) :: s.reports } := by
  have any : (s.gangs.any fun p => s.fnOf (launchOfGang p.1) == fn) = true := by simpa using busy
  show execDecodeTableLoad fn es s = _
  simp only [execDecodeTableLoad, found, legal, any, if_true, Bool.false_eq_true, if_false]
  rfl

variable (idle : ∀ p ∈ s.gangs, s.fnOf (launchOfGang p.1) ≠ fn)
include idle

/-- R96: BADENTRY, and the table stays, where one entry is bad. -/
theorem decodeTableLoad_badEntry (bad : ∃ e ∈ es, entryOk e = false) :
    exec (.decodeTableLoad fn es) s = .next { s with reports := (4, 2) :: s.reports } := by
  have none : (s.gangs.any fun p => s.fnOf (launchOfGang p.1) == fn) = false := by simpa using idle
  have all : es.all entryOk = false := by simpa using bad
  show execDecodeTableLoad fn es s = _
  simp only [execDecodeTableLoad, found, legal, none, all, Bool.not_false, if_true, Bool.false_eq_true, if_false]
  rfl

/-- R96, R97: the whole table takes effect. -/
theorem decodeTableLoad_accepted (whole : es.length = 2048) (good : ∀ e ∈ es, entryOk e = true) : ∃ t f', exec (.decodeTableLoad fn es) s = .next t ∧
    t.reports = (4, 0) :: s.reports ∧ t.fns.find fn = some f' ∧ (∀ k, k < 2048 → tableEntry f' k = es.getD k 0) ∧
    (∀ k, k ≠ fn → t.fns.find k = s.fns.find k) ∧ (∃ d, f'.measure = extend f.measure d) ∧ t.mem = s.mem := by
  have none : (s.gangs.any fun p => s.fnOf (launchOfGang p.1) == fn) = false := by simpa using idle
  have all : es.all entryOk = true := by simpa using good
  have run : exec (.decodeTableLoad fn es) s = .next (tableReport (s.setFn fn fun f => { f with
      table := tableDiff 0 es, measure := extend f.measure (Config.sha512 ((es.flatMap fun e => bytesOf e 2).map (BitVec.ofNat 8))) }) 0) := by
    show execDecodeTableLoad fn es s = _
    simp only [execDecodeTableLoad, found, legal, none, all, Bool.not_true, Bool.false_eq_true, if_false]
  refine ⟨_, { f with
      table := tableDiff 0 es, measure := extend f.measure (Config.sha512 ((es.flatMap fun e => bytesOf e 2).map (BitVec.ofNat 8))) },
    run, rfl, ?_, fun k hk => ?_, fun k hk => ?_, ⟨_, rfl⟩, rfl⟩
  · simp only [tableReport, State.setFn_fns, Tab.find_modify, if_true, found, Option.map_some]
  · have reads := tableDiff_reads es 0 k (by omega)
    rw [Nat.zero_add] at reads
    exact reads
  · simp only [tableReport, State.setFn_fns, Tab.find_modify, if_neg hk]

end

/-! ### Firmware updates -/

/-- R446: the update fills the other slot, and the flag changes only to an image that verifies. -/
theorem pldmFirmwareUpdate_fills {s : State} {image : List Nat} (served : s.boot = .ready ∨ s.boot = .recovery) (size : image.length ≤ 67108864) :
    ∃ t, exec (.pldmFirmwareUpdate image) s = .next t ∧
    t = { s with slots := t.slots, activeSlot := t.activeSlot } ∧ t.slots.find (1 - s.activeSlot) = some (FwImage.ofBytes image) ∧
    (∀ k, k ≠ 1 - s.activeSlot → t.slots.find k = s.slots.find k) ∧
    t.activeSlot = if (FwImage.ofBytes image).ok s.fusedSvn = true then 1 - s.activeSlot else s.activeSlot := by
  have go : ¬ ((s.boot ≠ .ready ∧ s.boot ≠ .recovery) ∨ 67108864 < image.length) := by
    rintro (⟨ready, recovery⟩ | long)
    · exact served.elim ready recovery
    · omega
  have ok : slotOk { s with slots := s.slots.put (otherSlot s.activeSlot) (FwImage.ofBytes image) } (otherSlot s.activeSlot) =
      (FwImage.ofBytes image).ok s.fusedSvn := by
    simp only [slotOk, Tab.find_put, if_true]
  have filled (k : Nat) : (s.slots.put (otherSlot s.activeSlot) (FwImage.ofBytes image)).find k =
      if k = 1 - s.activeSlot then some (FwImage.ofBytes image) else s.slots.find k := Tab.find_put ..
  have run : exec (.pldmFirmwareUpdate image) s = .next (if (FwImage.ofBytes image).ok s.fusedSvn = true then
      { s with slots := s.slots.put (otherSlot s.activeSlot) (FwImage.ofBytes image), activeSlot := otherSlot s.activeSlot }
      else { s with slots := s.slots.put (otherSlot s.activeSlot) (FwImage.ofBytes image) }) := by
    show execPldmFirmwareUpdate image s = _
    simp only [execPldmFirmwareUpdate, if_neg go, ok]
    split <;> rfl
  refine ⟨_, run, ?_⟩
  split
  · exact ⟨rfl, (filled _).trans (if_pos rfl), fun k hk => (filled k).trans (if_neg hk), rfl⟩
  · exact ⟨rfl, (filled _).trans (if_pos rfl), fun k hk => (filled k).trans (if_neg hk), rfl⟩

theorem pldmFirmwareUpdate_elsewhere {s : State} {image : List Nat} (ready : s.boot ≠ .ready) (recovery : s.boot ≠ .recovery) :
    exec (.pldmFirmwareUpdate image) s = .next s := if_pos (.inl ⟨ready, recovery⟩)

theorem activateCommit_raises (s : State) :
    exec .activateCommit s = .next (if s.boot = .ready then { s with fusedSvn := max s.fusedSvn s.runningSvn } else s) := by
  show execActivateCommit s = _
  unfold execActivateCommit
  split <;> rfl

/-! ### Management requests -/

theorem reply_ready {s : State} (ready : s.boot = .ready) (bytes : List Byte) : reply s bytes = .next { s with replies := bytes :: s.replies } := if_pos ready

theorem reply_elsewhere {s : State} (h : s.boot ≠ .ready) (bytes : List Byte) : reply s bytes = .next s := if_neg h

theorem bytesOf_length (v n : Nat) : (bytesOf v n).length = n := by
  induction n generalizing v with
  | zero => rfl
  | succ n ih => rw [bytesOf, List.length_cons, ih]

theorem numBytes_length (v n : Nat) : (numBytes v n).length = n := by rw [numBytes, List.length_map, bytesOf_length]

/-- A junction's reading is kept and answered (R442, R449). -/
theorem pldmPlatformMonitoring_junction {s : State} (ready : s.boot = .ready) {die y : Nat} (hd : die < 4) (ok : junctionOk s die y = true) :
    exec (.pldmPlatformMonitoring 1 die y) s = .next { s with sensors := sset 0 s.sensors (16 + die) y, replies := numBytes y 8 :: s.replies } := by
  show execPldmPlatformMonitoring 1 die y s = _
  simp only [execPldmPlatformMonitoring, sensorKey, hd, ok, if_true, OfNat.one_ne_ofNat, Nat.one_ne_zero, if_false,
    Bool.not_true, Bool.false_eq_true, and_false, reply]
  rw [if_pos ready]
  rfl

theorem measurement_fn (s : State) {fn : Nat} (h : fn ≤ 64) : measurement s (16 + fn) = some (((s.fns.find fn).map (·.measure)).getD 0) := by
  unfold measurement
  split
  · omega
  · omega
  · rw [if_pos (by omega), Nat.add_sub_cancel_left]

/-- R449: an uncorrectable error counts for its stack, of 96 GiB, as it arises; a correctable one does not. -/
theorem upset_counts (s : State) (x : Nat) (c : Bool) (k : Nat) :
    sget 0 (upset x c s).errorCounts k = sget 0 s.errorCounts k + if c = false ∧ k = 2 * (x * 32 / (96 * 2 ^ 30)) + 1 then 1 else 0 := by
  cases c with
  | true => rfl
  | false =>
    have stack : stackOf x = x * 32 / (96 * 2 ^ 30) := rfl
    show sget 0 (sset 0 s.errorCounts (2 * stackOf x + 1) (sget 0 s.errorCounts (2 * stackOf x + 1) + 1)) k = _
    rw [sget_sset, stack]
    by_cases h : k = 2 * (x * 32 / (96 * 2 ^ 30)) + 1
    · rw [if_pos h, if_pos ⟨rfl, h⟩, h]
    · rw [if_neg h, if_neg fun g => h g.2, Nat.add_zero]

/-- Settles O60: event by event, from what each check of the event lets through. That a load touches nothing but memory before it enters the image
(`MemoryOnly.mapImage`) keeps the reports and the function's tables; the one bit that a mark changes is `testBit_withBit`. -/
theorem firmwareAndManagementEvents : Obligations.FirmwareAndManagementEvents := by
  unfold Obligations.FirmwareAndManagementEvents
  refine ⟨?load, fun s a n _ => clearFrame_reads s a n, ?mark, fun z n h => finalise_promise h, ?table,
    fun s image served size => pldmFirmwareUpdate_fills served size, fun s image ready recovery => pldmFirmwareUpdate_elsewhere ready recovery,
    activateCommit_raises, ?silent, ?answers, ?registers, upset_counts⟩
  case load =>
    intro s fn f src len h co so found ready low high
    have legal := zpfLoad_legal (s := s) ready low high
    refine ⟨zpfLoad_remapped found legal, zpfLoad_loaded found legal, fun reset unused first last =>
      ⟨fun e => zpfLoad_header found legal reset unused first last, fun z e => zpfLoad_code found legal reset unused first last, ?_⟩⟩
    intro z n u v header code fresh words sections i
    obtain ⟨mem, colours, reports, entered⟩ := zpfLoad_placed v f fn h i (Config.sha512 (nativeBytes n))
    have same : v.fns.find fn = some f := by rw [((MemoryOnly.loadBytes _ words).trans (MemoryOnly.loadSections _ sections)).fns, found]
    obtain ⟨f', stands, image, images, caps, measure⟩ := entered f same
    refine ⟨_, f', zpfLoad_native found legal reset unused first last header code fresh words sections, mem, colours, reports, fun g hg => ?_⟩
    cases same.symm.trans hg
    exact ⟨stands, image, images, caps, _, measure⟩
  case mark =>
    intro s a k b phys hk
    exact ⟨setMemBit_bytesKept s a k b, fun j _ => by rw [setMemBit_readLE b phys hk, testBit_withBit]⟩
  case table =>
    intro s fn f es found ready whole narrow
    have legal := decodeTableLoad_legal ready whole narrow
    exact ⟨decodeTableLoad_busy found legal, decodeTableLoad_badEntry found legal, fun idle => decodeTableLoad_accepted found legal idle whole⟩
  case silent =>
    intro i hi s h
    simp only [List.mem_cons, List.not_mem_nil, or_false] at hi
    rcases hi with rfl | rfl | rfl
    · exact reply_elsewhere h _
    · exact reply_elsewhere h _
    · exact reply_elsewhere h _
  case answers =>
    intro s ready
    refine ⟨reply_ready ready _, reply_ready ready _, fun o => ?_, ⟨_, reply_ready ready _, numBytes_length _ 64⟩,
      fun o n => reply_ready ready _, fun i n => reply_ready ready _,
      fun x y => ⟨reply_ready ready _, fun hx => (if_pos hx).trans (reply_ready ready _), reply_ready ready _⟩, fun die y hd ok => ?_⟩
    · exact (reply_ready ready _).trans (by rw [numBytes, bytesOf, bytesOf, Nat.mod_eq_of_lt (show o % 4 < 256 by omega)]; rfl)
    · exact ⟨_, pldmPlatformMonitoring_junction ready hd ok, (sget_sset ..).trans (if_pos rfl), rfl, rfl⟩
  case registers =>
    exact ⟨by decide, by decide, rfl, fun s => ⟨rfl, rfl, fun fn h => measurement_fn s h⟩⟩

end Sys2Proof.Machine
end

section
/-! Stops, saves, resumes, moves and retirements of gangs (R409 to R417, R432). -/
namespace Sys2Proof.Machine

/-! ### The gangs that stop together -/

/-- A gang of no cohort, and a reduce kernel, stops alone (R410, R371). -/
theorem stopSet_alone {s : State} {gk : Nat} {g : Gang} {l : Launch} (found : s.gangs.find gk = some g)
    (launch : s.launches.find (launchOfGang gk) = some l) (alone : l.cohort = false ∨ g.reduceOf.isSome = true) : stopSet s gk = [gk] := by
  have no : (l.cohort && !((s.gangs.find gk).any (·.reduceOf.isSome))) = false := by
    rw [found, Option.any_some]
    rcases alone with h | h <;> simp [h]
  simp only [stopSet, launch, no, Bool.false_eq_true, if_false]

theorem stopAll_one (s : State) (why : StopWhy) (gk : Nat) : stopAll s why [gk] = stopGang s gk why := rfl

/-! ### One stop -/

/-- The commands that a stop waits for are marked, in every queue of the gang's matrix commands (R135, R338). -/
def Team.marked (tm : Team) : Team := { tm with macros := tm.macros.mapVals fun _ m =>
  { m with queue := m.queue.zipIdx.map fun q => { q.1 with last := decide (q.2 < m.mustRun) } } }

/-- From s to t, gang gk has become g' and its issue has stopped: its macros' commands are marked, every partner has its HOLD on the way, and nothing
else has changed (R377, R412). -/
structure Stops (s t : State) (gk : Nat) (g' : Gang) : Prop where
  rest : t = { s with gangs := t.gangs, notices := t.notices, teams := t.teams }
  gang : t.gangs.find gk = some g'
  teams : ∀ k, t.teams.find k = (s.teams.find k).map fun tm => if gangOfTeam k = gk then tm.marked else tm
  others : ∀ k, k ≠ gk → t.gangs.find k = s.gangs.find k
  partners : ∀ p ∈ t.gangs, partner t gk p.1 p.2 = true → ⟨true, gk, p.1, s.now⟩ ∈ t.notices
  notices : ∀ n ∈ t.notices, n ∈ s.notices ∨ n.hold = true ∧ n.source = gk ∧ n.sent = s.now

/-- A gang of which a stop has begun. -/
def Gang.stopping (g : Gang) (now : Nat) (why : StopWhy) : Gang :=
  { g with status := .quiescing, stopAt := now, stopWhy := why, halted := g.halted || why.debugs }

/-- Where a resident gang may be stopped, its stop is the marks, its state and, unless it is a reduce kernel, the notices. -/
theorem stopGang_resident {s : State} {gk : Nat} {g : Gang} {why : StopWhy} (found : s.gangs.find gk = some g) (resident : g.status = .resident)
    (may : ¬ (g.reduceOf.isSome ∧ why ≠ .hold)) : stopGang s gk why =
    let s1 := (s.setGang gk (·.stopping s.now why)).markHeads gk true
    if g.reduceOf.isSome then s1 else notify s1 gk true := by
  have stands : ¬ g.status ≠ .resident := fun h => h resident
  simp only [stopGang, found, if_neg stands, if_neg may]
  rfl

theorem markHeads_team (s : State) (gk k : Nat) : (s.markHeads gk true).teams.find k =
    (s.teams.find k).map fun tm => if gangOfTeam k = gk then tm.marked else tm := by
  rw [State.markHeads, Tab.find_mapVals]
  rfl

/-- A notice on the way after a notification was there before or is one of its own. -/
theorem mem_notify {s : State} {gk : Nat} {hold : Bool} {n : Notice} (h : n ∈ (notify s gk hold).notices) :
    n ∈ s.notices ∨ n.hold = hold ∧ n.source = gk ∧ n.sent = s.now := by
  rcases List.mem_append.1 h with old | new
  · exact .inl old
  · obtain ⟨k, -, rfl⟩ := List.mem_map.1 new
    exact .inr ⟨rfl, rfl, rfl⟩

/-- Every partner is notified. -/
theorem notify_partner {s : State} {gk : Nat} {hold : Bool} {p : Nat × Gang} (mem : p ∈ s.gangs) (h : partner s gk p.1 p.2 = true) :
    ⟨hold, gk, p.1, s.now⟩ ∈ (notify s gk hold).notices := by
  refine List.mem_append_right _ (List.mem_map.2 ⟨p.1, List.mem_map.2 ⟨p, List.mem_filter.2 ⟨mem, ?_⟩, rfl⟩, rfl⟩)
  rw [h, Bool.true_or]

/-- A stop of a resident gang, also of a reduce kernel, changes the gang, and not memory. -/
theorem stopGang_gang {s : State} {gk : Nat} {g : Gang} {why : StopWhy} (found : s.gangs.find gk = some g) (resident : g.status = .resident)
    (may : ¬ (g.reduceOf.isSome ∧ why ≠ .hold)) :
    (stopGang s gk why).gangs.find gk = some (g.stopping s.now why) ∧ (stopGang s gk why).mem = s.mem := by
  have gang : (s.gangs.modify gk (·.stopping s.now why)).find gk = some (g.stopping s.now why) := by
    rw [Tab.find_modify, if_pos rfl, found, Option.map_some]
  rw [stopGang_resident found resident may]
  simp only
  split
  · exact ⟨gang, rfl⟩
  · exact ⟨gang, rfl⟩

/-- A stop of a resident gang of its launch (R377, R412, R386). -/
theorem stopGang_stops {s : State} {gk : Nat} {g : Gang} {why : StopWhy} (found : s.gangs.find gk = some g) (resident : g.status = .resident)
    (ofLaunch : g.reduceOf = none) : Stops s (stopGang s gk why) gk (g.stopping s.now why) := by
  rw [stopGang_resident found resident (by simp [ofLaunch])]
  simp only [ofLaunch, Option.isSome_none, Bool.false_eq_true, if_false]
  refine ⟨rfl, ?_, fun k => markHeads_team _ gk k, fun k hk => ?_, fun p mem h => notify_partner mem h, fun n => mem_notify⟩
  · exact (Tab.find_modify s.gangs gk gk (·.stopping s.now why)).trans (by rw [if_pos rfl, found, Option.map_some])
  · exact (Tab.find_modify s.gangs gk k (·.stopping s.now why)).trans (if_neg hk)

/-! ### GANG_STOP -/

/-- The stop of each reason's code (log 25). -/
def stopReason (why : Nat) : StopWhy := if why = 0 then .preemption else if why = 1 then .migration else if why = 3 then .step else .debugger

/-- A gang whose places are kept, where they may be, until a HOLD's end if it is one. -/
def Gang.reserved (g : Gang) (hold : Option (Nat × Nat)) : Gang := { g with kept := g.keeps, holdUntil := hold.orElse fun _ => g.holdUntil }

theorem reserve_gang {s : State} {gk : Nat} {g : Gang} (hold : Option (Nat × Nat)) (found : s.gangs.find gk = some g) :
    (reserve s [gk] hold).gangs.find gk = some (g.reserved hold) := by
  simp only [reserve, Gang.reserved, Tab.find_mapVals, found, Option.map_some, List.contains_cons, beq_self_eq_true, Bool.true_or, if_true]

theorem reserve_others {s : State} {gk k : Nat} (hold : Option (Nat × Nat)) (h : k ≠ gk) : (reserve s [gk] hold).gangs.find k = s.gangs.find k := by
  simp only [reserve, Tab.find_mapVals, List.contains_cons, List.contains_nil, beq_eq_false_iff_ne.2 h, Bool.or_false, Bool.false_eq_true, if_false]
  cases s.gangs.find k <;> rfl

/-- A stop that first keeps the gang's places. -/
theorem Stops.ofReserve {s t : State} {gk : Nat} {g' : Gang} {hold : Option (Nat × Nat)} (h : Stops (reserve s [gk] hold) t gk g') : Stops s t gk g' := by
  obtain ⟨rest, gang, teams, others, partners, notices⟩ := h
  exact ⟨rest, gang, teams, fun k hk => (others k hk).trans (reserve_others hold hk), partners, notices⟩

section
variable {s : State} {gk : Nat} {g : Gang} {l : Launch} (found : s.gangs.find gk = some g) (launch : s.launches.find (launchOfGang gk) = some l)
include found launch

/-- R412: each reason stops a resident gang of no cohort; a single-step keeps its places. -/
theorem gangStop_stops (single : l.cohort = false) (resident : g.status = .resident) (ofLaunch : g.reduceOf = none) {why : Nat}
    (reason : why ∈ [0, 1, 3, 4]) (due : why = 0 → preempted s gk = true) (free : why = 4 → g.halted = false) :
    ∃ t, exec (.gangStop gk why) s = .next t ∧ Stops s t gk { g with
      status := .quiescing, stopAt := s.now, halted := g.halted || decide (3 ≤ why), kept := g.kept || decide (why = 3), stopWhy := stopReason why } := by
  have alone := stopSet_alone found launch (.inl single)
  have stops (w : StopWhy) := stopGang_stops (why := w) found resident ofLaunch
  have run (w : Nat) : exec (.gangStop gk w) s = execGangStop gk w s := rfl
  simp only [List.mem_cons, List.not_mem_nil, or_false] at reason
  rcases reason with rfl | rfl | rfl | rfl
  · refine ⟨stopGang s gk .preemption, ?_, ?_⟩
    · rw [run, execGangStop, if_pos (due rfl), alone, stopAll_one]
    · simpa [Gang.stopping, StopWhy.debugs, stopReason] using stops .preemption
  · refine ⟨stopGang s gk .migration, ?_, ?_⟩
    · simp [run, execGangStop, alone, found, resident, ofLaunch, stopAll_one]
    · simpa [Gang.stopping, StopWhy.debugs, stopReason] using stops .migration
  · refine ⟨stopGang (reserve s [gk] none) gk .step, ?_, ?_⟩
    · simp [run, execGangStop, alone, found, resident, ofLaunch, stopAll_one]
    · have keeps := stopGang_stops (why := .step) (reserve_gang none found) resident ofLaunch
      simpa [Gang.stopping, StopWhy.debugs, stopReason, Gang.reserved, Gang.keeps, resident, reserve] using keeps.ofReserve
  · refine ⟨stopGang s gk .debugger, ?_, ?_⟩
    · simp [run, execGangStop, alone, found, resident, ofLaunch, stopAll_one, free rfl]
    · simpa [Gang.stopping, StopWhy.debugs, stopReason] using stops .debugger

/-- R41, R432: a debugger's halt of a gang that some other stop has stopped changes nothing but that it stays halted. -/
theorem gangStop_halts (single : l.cohort = false) (stopped : g.status = .suspended ∨ g.status = .quiescing) (ofLaunch : g.reduceOf = none)
    (free : g.halted = false) : exec (.gangStop gk 4) s = .next (s.setGang gk fun g => { g with halted := true }) := by
  have alone := stopSet_alone found launch (.inl single)
  have away : g.status ≠ .resident := by rcases stopped with h | h <;> simp [h]
  have here : (g.status != .moving) = true := by rcases stopped with h | h <;> simp [h]
  have again : stopGang s gk .debugger = s.setGang gk fun g => { g with halted := true } := by
    have same : (fun g : Gang => g.stopAgain .debugger) = fun g => { g with halted := true } := by
      funext g
      simp [Gang.stopAgain, StopWhy.debugs]
    simp only [stopGang, found, if_pos away, same]
  show execGangStop gk 4 s = _
  simp [execGangStop, alone, found, here, ofLaunch, free, stopAll_one, again]

/-- R432: a HOLD stops the gang, of its launch or a reduce kernel, and keeps its places until its end. -/
theorem gangStop_holds (alone : l.cohort = false ∨ g.reduceOf.isSome = true) (resident : g.status = .resident) (unheld : g.holdUntil = none)
    {id : Nat} {c : Call} (call : holdCall s gk = some (id, c)) :
    ∃ t g', exec (.gangStop gk 5) s = .next t ∧ t.mem = s.mem ∧ t.gangs.find gk = some g' ∧ g'.status = .quiescing ∧
      g'.stopWhy = .hold ∧ g'.quad = g.quad ∧ g'.kept = true ∧ g'.holdUntil = some (s.now + 5 * (c.args.getD 0 0).toNat, id) := by
  have set := stopSet_alone found launch alone
  obtain ⟨gang, mem⟩ := stopGang_gang (why := .hold) (reserve_gang (some (s.now + 5 * (c.args.getD 0 0).toNat, id)) found) resident (by simp)
  refine ⟨_, _, ?_, mem, gang, rfl, rfl, rfl, ?_, rfl⟩
  · show execGangStop gk 5 s = _
    simp only [execGangStop, set, call, found, resident, unheld, List.contains_cons, beq_self_eq_true, Bool.true_or, List.all_cons, List.all_nil,
      Option.any_some, Option.isNone_none, Bool.and_true, stopAll_one]
    rfl
  · simp [Gang.stopping, Gang.reserved, Gang.keeps, resident]

/-- R417: at its slice's end a gang of a deterministic launch makes room for one of its launch that waits. -/
theorem timeSliceExpiry_stops {gk2 : Nat} (det : l.det = true) (single : l.cohort = false) (resident : g.status = .resident)
    (ofLaunch : g.reduceOf = none) (same : launchOfGang gk2 = launchOfGang gk)
    (waits : (∃ h, s.gangs.find gk2 = some h ∧ h.status = .suspended ∧ h.holdUntil = none ∧ h.kept = false) ∨
      (s.gangs.find gk2 = none ∧ l.placed ≤ gk2 % 131072 ∧ gk2 % 131072 < l.gangs)) (slice : g.slice + 100000 ≤ s.rt) :
    ∃ t, exec (.timeSliceExpiry gk gk2) s = .next t ∧ t = { s with gangs := t.gangs, notices := t.notices, teams := t.teams } ∧
      t.gangs.find gk = some { g with status := .quiescing, stopAt := s.now, stopWhy := .slice, heir := some gk2 } := by
  obtain ⟨rest, gang, -⟩ := stopGang_stops (why := .slice) found resident ofLaunch
  have run : exec (.timeSliceExpiry gk gk2) s = .next ((stopGang s gk .slice).setGang gk fun g => { g with heir := some gk2 }) := by
    show execTimeSliceExpiry gk gk2 s = _
    rcases waits with ⟨h, other, suspended, unheld, unkept⟩ | ⟨absent, unplaced, below⟩
    · simp [execTimeSliceExpiry, found, launch, det, single, resident, same, slice, other, suspended, unheld, unkept]
    · simp [execTimeSliceExpiry, found, launch, det, single, resident, same, slice, absent, unplaced, below]
  refine ⟨_, run, ?_, ?_⟩
  · generalize stopGang s gk .slice = t at rest
    rw [rest]
    rfl
  · rw [State.setGang_gangs, Tab.find_modify, if_pos rfl, gang]
    simp [Gang.stopping, StopWhy.debugs]

end

/-! ### GANG_SAVED, GANG_PACK, GANG_MIGRATE_ACCEPT -/

/-- R412, R413, R253: gangs that have quiesced are saved, each with an empty scoreboard. -/
theorem gangSaved_saves {s : State} {gk : Nat} (here : gk ∈ stopSet s gk) (stopping : ∃ g, s.gangs.find gk = some g ∧ g.status = .quiescing)
    (quiet : ∀ k ∈ stopSet s gk, ∃ g, s.gangs.find k = some g ∧ (g.status = .suspended ∨ g.status = .quiescing ∧ quiesced s k g = true)) :
    exec (.gangSaved gk) s = .next { s with
      gangs := s.gangs.mapVals fun k g => if k ∈ stopSet s gk then { g with status := .suspended } else g
      teams := s.teams.mapVals fun k tm => if gangOfTeam k ∈ stopSet s gk ∧
          (s.gangs.find (gangOfTeam k)).any (fun g => g.status == .quiescing) = true then { tm with board := [], boardLeft := tm.board } else tm } := by
  have stops : ((stopSet s gk).contains gk && (s.gangs.find gk).any fun g => g.status == .quiescing) = true := by
    obtain ⟨g, found, status⟩ := stopping
    simp [here, found, status]
  have ready : ((stopSet s gk).all fun k => (s.gangs.find k).any fun g => g.status == .suspended || (g.status == .quiescing && quiesced s k g)) = true := by
    refine List.all_eq_true.2 fun k hk => ?_
    obtain ⟨g, found, status⟩ := quiet k hk
    simpa [found] using status
  show execGangSaved gk s = _
  simp only [execGangSaved, stops, ready, Bool.and_self, if_true, State.saveBoards, List.contains_iff_mem, Bool.and_eq_true]

/-- R414: a die of this module takes gangs that move. -/
theorem gangMigrateAccept_takes {s : State} {gk : Nat} (here : gk ∈ stopSet s gk)
    (moving : ∀ k ∈ stopSet s gk, ∃ g, s.gangs.find k = some g ∧ g.status = .moving ∧ g.quad < Config.quads) :
    exec (.gangMigrateAccept gk) s =
      .next { s with gangs := s.gangs.mapVals fun k g => if k ∈ stopSet s gk then { g with status := .suspended } else g } := by
  have all : ((stopSet s gk).all fun k => (s.gangs.find k).any fun g => g.status == .moving && decide (g.quad < Config.quads)) = true := by
    refine List.all_eq_true.2 fun k hk => ?_
    obtain ⟨g, found, status⟩ := moving k hk
    simpa [found] using status
  show execGangMigrateAccept gk s = _
  simp only [execGangMigrateAccept, List.contains_iff_mem.2 here, all, Bool.and_self, if_true, List.contains_iff_mem]

/-- Suspended gangs whose places nothing keeps may be packed. -/
theorem packable {s : State} {ks : List Nat} {lk : Nat}
    (free : ∀ k ∈ ks, ∃ h, s.gangs.find k = some h ∧ h.status = .suspended ∧ h.holdUntil = none ∧ h.kept = false ∧ debugHeld s lk h = false) :
    (ks.all fun k => (s.gangs.find k).any fun g => g.status == .suspended && g.holdUntil.isNone && !g.kept && !debugHeld s lk g) = true := by
  refine List.all_eq_true.2 fun k hk => ?_
  obtain ⟨h, found, suspended, unheld, unkept, unhalted⟩ := free k hk
  simp [found, suspended, unheld, unkept, unhalted]

/-- No way of some gangs to a module has failed. -/
theorem waysOpen {s : State} {ks : List Nat} {m : Nat}
    (ways : ∀ k ∈ ks, ∀ h, s.gangs.find k = some h → wayCut s (dieOfQuad h.quad) m = false) :
    (ks.all fun k => (s.gangs.find k).all fun g => !wayCut s (dieOfQuad g.quad) m) = true := by
  refine List.all_eq_true.2 fun k hk => ?_
  cases found : s.gangs.find k with
  | none => rfl
  | some h => rw [Option.all_some, ways k hk h found]; rfl

section
variable {s : State} {gk die : Nat} {g : Gang} {l : Launch} {f : Fn} (found : s.gangs.find gk = some g)
  (launch : s.launches.find (launchOfGang gk) = some l) (sees : s.fnFor (launchOfGang gk) = some f) (away : dieOfQuad g.quad ≠ die) (spans : l.span ≠ 0)
  (free : ∀ k ∈ stopSet s gk, ∃ h, s.gangs.find k = some h ∧ h.status = .suspended ∧ h.holdUntil = none ∧ h.kept = false ∧
    debugHeld s (launchOfGang gk) h = false)
  (full : seatsFor f (launchOfGang gk) l (f.quads.filter fun q => dieOfQuad q == dieOfQuad g.quad) (stopSet s gk) (stopSet s gk) s = none)
include found launch sees away spans free full

/-- R414: to another die of this module that can place them. -/
theorem gangPack_die (here : die < Config.dies)
    (room : (seatsFor f (launchOfGang gk) l (f.quads.filter fun q => dieOfQuad q == die) (stopSet s gk) (stopSet s gk) s).isSome = true) :
    exec (.gangPack gk die) s = .next { s with
      gangs := s.gangs.mapVals fun k g => if k ∈ stopSet s gk then
        { g with status := .moving, quad := (f.quads.filter fun q => dieOfQuad q == die).headD g.quad } else g } := by
  show execGangPack gk die s = _
  simp only [execGangPack, launch, sees, found, packable free, full, spans, away, room, Nat.not_le.2 here, Option.isSome_none, Bool.not_true,
    Bool.false_eq_true, or_self, if_false, if_true, List.contains_iff_mem]

/-- R414, R8: to another module, by ways that have not failed. -/
theorem gangPack_module (pod : l.span = 2) (beyond : Config.dies ≤ die)
    (ways : ∀ k ∈ stopSet s gk, ∀ h, s.gangs.find k = some h → wayCut s (dieOfQuad h.quad) (die / Config.dies) = false) :
    exec (.gangPack gk die) s = .next { s with
      gangs := s.gangs.mapVals fun k g => if k ∈ stopSet s gk then { g with status := .moving, quad := die * Config.quadsPerDie } else g } := by
  show execGangPack gk die s = _
  simp only [execGangPack, launch, sees, found, packable free, full, spans, away, beyond, Option.isSome_none, Bool.not_true,
    Bool.false_eq_true, or_self, if_false, if_true, List.contains_iff_mem]
  exact if_pos ⟨pod, waysOpen ways⟩

end

/-- R414, R8: the next gang of a `.pod` launch that no quad here can place leaves undispatched, by a port that has not failed. -/
theorem gangPack_undispatched {s : State} {gk die : Nat} {l : Launch} {f : Fn} (absent : s.gangs.find gk = none)
    (launch : s.launches.find (launchOfGang gk) = some l) (sees : s.fnFor (launchOfGang gk) = some f) (next : gk % 131072 = l.placed)
    (live : l.status = .admitting ∨ l.status = .running) (sound : l.fatal = none) (left : l.placed < l.gangs) (single : l.cohort = false)
    (pod : l.span = 2) (beyond : Config.dies ≤ die) (way : wayCut s linkDie (die / Config.dies) = false)
    (full : fitsNow s f (launchOfGang gk) l = false) : ∃ t l', exec (.gangPack gk die) s = .next t ∧ t.mem = s.mem ∧
      (∃ g, t.gangs.find gk = some g ∧ g.status = .moving ∧ g.quad = die * Config.quadsPerDie) ∧
      t.launches.find (launchOfGang gk) = some l' ∧ l'.placed = l.placed + 1 := by
  have may : ¬ ((l.status ≠ .admitting ∧ l.status ≠ .running) ∨ l.fatal.isSome ∨ l.gangs ≤ l.placed ∨ l.span ≠ 2 ∨ die < Config.dies ∨
      fitsNow s f (launchOfGang gk) l ∨ wayCut s linkDie (die / Config.dies)) := by
    simp only [sound, pod, way, full, Nat.not_le.2 left, Nat.not_lt.2 beyond, Option.isSome_none, ne_eq, not_true_eq_false, Bool.false_eq_true, or_false]
    exact fun h => live.elim h.1 h.2
  have key : gangKey (launchOfGang gk) (l.placed + 0) = gk := by
    rw [gangKey, launchOfGang, ← next]
    omega
  obtain ⟨t, run, mem, gangs, launches⟩ : ∃ t, packUndispatched s (launchOfGang gk) die l f = .next t ∧ t.mem = s.mem ∧
      t.gangs = s.gangs.put (gangKey (launchOfGang gk) (l.placed + 0)) (awayGang s die) ∧
      t.launches = s.launches.modify (launchOfGang gk) fun l => { l with status := .running, placed := l.placed + 1 } := by
    refine ⟨_, if_neg may, rfl, ?_, ?_⟩
    · simp only [single, Bool.false_eq_true, if_false]
      rfl
    · simp only [single, Bool.false_eq_true, if_false]
      rfl
  refine ⟨t, { l with status := .running, placed := l.placed + 1 }, ?_, mem, ⟨awayGang s die, ?_, rfl, rfl⟩, ?_, rfl⟩
  · show execGangPack gk die s = _
    simp only [execGangPack, launch, sees, absent, if_pos next, run]
  · rw [gangs, key, Tab.find_put, if_pos rfl]
  · rw [launches, Tab.find_modify, if_pos rfl, launch, Option.map_some]

/-! ### GANG_RESUME -/

/-- Teams put back on cores differ in the tables that name their cores and groups, and nothing else does (R135). -/
def Reseated (s t : State) : Prop := t = { s with groups := t.groups, teams := t.teams, traps := t.traps, calls := t.calls, cur := t.cur }

theorem Reseated.trans {s t u : State} (h : Reseated s t) (g : Reseated t u) : Reseated s u := by
  unfold Reseated at *
  rw [g, h]

theorem moveGroups_reseated {tk core : Nat} (gs : List (Nat × Group)) {s : State} {m : List (Nat × Nat)} {r : State × List (Nat × Nat)}
    (h : moveGroups tk core gs s m = some r) : Reseated s r.1 := by
  induction gs generalizing s m with
  | nil => cases h; rfl
  | cons p gs ih =>
    unfold moveGroups at h
    split at h
    · exact Reseated.trans (by rfl) (ih h)
    · cases h

theorem restoreTeam_reseated {s t : State} {tk core : Nat} (h : restoreTeam s tk core = some t) : Reseated s t := by
  unfold restoreTeam at h
  simp only at h
  split at h
  · cases h
  · obtain ⟨r, moved, rfl⟩ := Option.map_eq_some_iff.1 h
    have groups := moveGroups_reseated _ moved
    unfold Reseated at *
    rw [groups]
    rfl

theorem restoreTeams_reseated {gk : Nat} (cores : List Nat) {n : Nat} {s t : State} (h : restoreTeams gk n cores s = some t) : Reseated s t := by
  induction cores generalizing n s with
  | nil => cases h; rfl
  | cons c cores ih =>
    obtain ⟨u, first, rest⟩ := Option.bind_eq_some_iff.1 h
    exact (restoreTeam_reseated first).trans (ih rest)

/-- Binding changes a gang's channels alone (R284). -/
theorem bindChannels_rest (s : State) (die : Nat) (g : Gang) : bindChannels s die g = { g with channels := (bindChannels s die g).channels } := by
  unfold bindChannels
  generalize (List.take 4 _).zipIdx = es
  induction es generalizing g with
  | nil => rfl
  | cons e es ih => rw [List.foldl_cons, ih]; rfl

theorem clearHeirs_gang (s : State) (p : Nat → Bool) (k : Nat) : (clearHeirs s p).gangs.find k =
    (s.gangs.find k).map fun g => if g.heir.any p then { g with heir := none } else g :=
  Tab.find_mapVals s.gangs (fun _ g => if g.heir.any p then { g with heir := none } else g) k

/-- The state as the gang's issue restarts, before its teams are put back. -/
def restarting (s : State) (gk quad : Nat) : State := (clearHeirs (s.setGang gk (Gang.restarted s quad)) (· == gk)).markHeads gk false

theorem restarting_gang {s : State} {gk quad : Nat} {g : Gang} (found : s.gangs.find gk = some g) : ∃ g', (restarting s gk quad).gangs.find gk = some g' ∧
    g'.status = .resident ∧ g'.quad = quad ∧ g'.vt = g.vt ∧ g'.timers = g.timers ∧ g'.inbox = g.inbox ∧ g'.kept = false ∧ g'.holdUntil = none := by
  have gang : (restarting s gk quad).gangs.find gk = some (if (Gang.restarted s quad g).heir.any (· == gk) then
      { Gang.restarted s quad g with heir := none } else Gang.restarted s quad g) := by
    refine (clearHeirs_gang (s.setGang gk (Gang.restarted s quad)) (· == gk) gk).trans ?_
    rw [State.setGang_gangs, Tab.find_modify, if_pos rfl, found, Option.map_some, Option.map_some]
  refine ⟨_, gang, ?_⟩
  rw [Gang.restarted, bindChannels_rest]
  split <;> exact ⟨rfl, rfl, rfl, rfl, rfl, rfl, rfl⟩

/-- A restart is the gang as restarted, its teams put back, a HOLD's answer, and what its partners and the host are told (R386, R387, R412, R432). -/
theorem restart_eq_some {s u : State} {gk quad : Nat} {cores : List Nat} {g : Gang} (found : s.gangs.find gk = some g)
    (h : restart s gk quad cores = some u) : ∃ t, Reseated (restarting s gk quad) t ∧
    u = (if g.reduceOf.isSome then t else
      ((notify t gk false).setLaunch (launchOfGang gk) (·.addStop (gk % 65536) (g.stopTicks s))).noteTime (launchOfGang gk)).wake := by
  simp only [restart, found] at h
  obtain ⟨s2, restored, rfl⟩ := Option.map_eq_some_iff.1 h
  have seats : Reseated (restarting s gk quad) s2 := restoreTeams_reseated cores restored
  refine ⟨_, ?_, rfl⟩
  split
  · exact seats.trans (by rfl)
  · exact seats

theorem noteTime_launch {s : State} {lk : Nat} {l : Launch} (h : s.launches.find lk = some l) :
    (s.noteTime lk).launches.find lk = some { l with timeRec := timeRecord s lk l } := by
  rw [State.noteTime, State.setLaunch_launches, Tab.find_modify, if_pos rfl, h, Option.map_some]

section
variable {s u : State} {gk quad : Nat} {cores : List Nat} {g : Gang} (found : s.gangs.find gk = some g) (h : restart s gk quad cores = some u)
include found h

/-- A restart keeps memory, waves and threads, and of the gangs changes those that the restart of this one does. -/
theorem restart_keeps : u.mem = s.mem ∧ u.waves = s.waves ∧ u.threads = s.threads ∧ u.gangs = (restarting s gk quad).gangs := by
  obtain ⟨t, seats, rfl⟩ := restart_eq_some found h
  have tables : t.mem = s.mem ∧ t.waves = s.waves ∧ t.threads = s.threads ∧ t.gangs = (restarting s gk quad).gangs := by
    rw [seats]
    exact ⟨rfl, rfl, rfl, rfl⟩
  simp only [State.wake_mem, State.wake_waves, State.wake_threads, State.wake_gangs]
  split
  · exact tables
  · simp only [State.noteTime, State.setLaunch_mem, State.setLaunch_waves, State.setLaunch_threads, State.setLaunch_gangs, notify]
    exact tables

/-- Its launch counts the real ticks for which the gang has been stopped (R387). -/
theorem restart_counts {l : Launch} (ofLaunch : g.reduceOf = none) (launch : s.launches.find (launchOfGang gk) = some l) :
    ∃ l', u.launches.find (launchOfGang gk) = some l' ∧ l'.stops = sset 0 l.stops (gk % 65536)
      (sget 0 l.stops (gk % 65536) + (s.now / 5 - g.stopAt / 5)) := by
  obtain ⟨t, seats, rfl⟩ := restart_eq_some found h
  have launches : t.launches.find (launchOfGang gk) = some l := by
    rw [seats]
    exact launch
  have stopped : ((notify t gk false).setLaunch (launchOfGang gk) (·.addStop (gk % 65536) (g.stopTicks s))).launches.find (launchOfGang gk) =
      some (l.addStop (gk % 65536) (g.stopTicks s)) := by
    rw [State.setLaunch_launches, show (notify t gk false).launches = t.launches from rfl, Tab.find_modify, if_pos rfl, launches, Option.map_some]
  rw [if_neg (by simp [ofLaunch])]
  exact ⟨_, noteTime_launch stopped, rfl⟩

end

/-- R410, R412: a suspended gang that stands alone is placed again where its seat says. -/
theorem gangResume_restarts {s u : State} {gk quad : Nat} {cores : List Nat} {g : Gang} {l : Launch} {f : Fn}
    (found : s.gangs.find gk = some g) (launch : s.launches.find (launchOfGang gk) = some l) (sees : s.fnFor (launchOfGang gk) = some f)
    (alone : l.cohort = false ∨ g.reduceOf.isSome = true) (sound : l.fatal = none) (may : mayResume s f (launchOfGang gk) l [gk] gk g quad cores = true)
    (h : restart s gk quad cores = some u) : exec (.gangResume gk quad ⟨cores, []⟩) s = .next u := by
  have others : ([gk].filter fun k => k != gk) = [] := by simp
  show execGangResume gk quad ⟨cores, []⟩ s = _
  simp only [execGangResume, found, launch, sees, stopSet_alone found launch alone, sound, others, restartSeats, may, h, List.map_nil, List.all_nil,
    Option.isSome_none, Bool.not_true, bne_self_eq_false, Bool.or_self, Bool.false_eq_true, if_false, if_true, Option.bind_some]

/-- R417, R432, R41: what a resume waits for. -/
theorem mayResume_of {s : State} {f : Fn} {lk gk quad : Nat} {cores : List Nat} {g : Gang} {l : Launch} (suspended : g.status = .suspended)
    (due : ∀ t id, g.holdUntil = some (t, id) → t ≤ s.now) (free : debugHeld s lk g = false) (turn : g.heir = none)
    (engine : g.relay.active = none ∨ runsOnDie (unreserved s [gk]) (dieOfQuad quad) < 64)
    (own : g.kept = true → quad = g.quad ∧ cores = ownCores s gk)
    (room : g.kept = false → (launchQuads s f l).contains quad = true ∧ roomOn (unreserved s [gk]) f lk l quad cores (savedNeeds s l gk) = true) :
    mayResume s f lk l [gk] gk g quad cores = true := by
  have places : (if g.kept then quad == g.quad && cores == ownCores s gk
      else (launchQuads s f l).contains quad && roomOn (unreserved s [gk]) f lk l quad cores (savedNeeds s l gk)) = true := by
    cases kept : g.kept with
    | true => simpa using own kept
    | false => simpa using room kept
  have run : (g.relay.active.isNone || decide (runsOnDie (unreserved s [gk]) (dieOfQuad quad) < 64)) = true := by simpa using engine
  have ended : (match g.holdUntil with | some (t, _) => decide (t ≤ s.now) | none => true) = true := by
    split
    · next t id e => exact decide_eq_true (due t id e)
    · rfl
  simp only [mayResume, suspended, free, turn, run, beq_self_eq_true, Bool.not_false, Option.isNone_none, Bool.true_and, Bool.and_true, Bool.and_eq_true]
  exact ⟨places, ended⟩

/-! ### GANG_RETIRE -/

/-- Flushing buffers that hold nothing changes the teams alone, and of them at most the buffers. -/
def Drained (s t : State) : Prop := t = { s with teams := t.teams } ∧
  ∃ e : Nat → Team → Team, t.teams = s.teams.mapVals e ∧ ∀ k m, ((e k m).orphaned = m.orphaned ∧ (m.buffer = [] → (e k m).buffer = []))

theorem Drained.refl (s : State) : Drained s s := by
  refine ⟨rfl, fun _ m => m, ?_, fun _ m => ⟨rfl, id⟩⟩
  simp [Tab.mapVals]

theorem flush_empty {s : State} {tk : Nat} {p : Contrib → Bool} (empty : ∀ m, s.teams.find tk = some m → m.buffer = []) :
    flush s tk p = s ∨ flush s tk p = s.setTeam tk fun m => { m with buffer := m.buffer.filter fun c => !p c } := by
  unfold flush
  split
  · exact .inl rfl
  · next m found =>
    right
    rw [empty m found]
    rfl

theorem flush_drained {s : State} {tk : Nat} {p : Contrib → Bool} (empty : ∀ m, s.teams.find tk = some m → m.buffer = []) : Drained s (flush s tk p) := by
  rcases flush_empty (p := p) empty with h | h
  · rw [h]; exact .refl s
  · rw [h]
    refine ⟨rfl, fun k m => if k = tk then { m with buffer := m.buffer.filter fun c => !p c } else m, ?_, fun k m => ?_⟩
    · rw [State.setTeam_teams, Tab.modify, Tab.mapVals]
      refine List.map_congr_left fun x _ => ?_
      split <;> rfl
    · dsimp only
      split
      · exact ⟨rfl, fun h => by simp [h]⟩
      · exact ⟨rfl, id⟩

theorem Drained.trans {s t u : State} (h : Drained s t) (g : Drained t u) : Drained s u := by
  obtain ⟨rest, e, teams, keeps⟩ := h
  obtain ⟨rest', e', teams', keeps'⟩ := g
  refine ⟨by rw [rest', rest], fun k m => e' k (e k m), ?_, fun k m => ?_⟩
  · rw [teams', teams]
    simp [Tab.mapVals]
  · exact ⟨(keeps' k _).1.trans (keeps k m).1, fun h => (keeps' k _).2 ((keeps k m).2 h)⟩

theorem Drained.find {s t : State} (h : Drained s t) (k : Nat) : ∃ e : Team → Team, t.teams.find k = (s.teams.find k).map e ∧
    ∀ m, (e m).orphaned = m.orphaned ∧ (m.buffer = [] → (e m).buffer = []) := by
  obtain ⟨-, e, teams, keeps⟩ := h
  exact ⟨e k, by rw [teams, Tab.find_mapVals], keeps k⟩

theorem flushAll_drained {p : Contrib → Bool} (tks : List Nat) {s : State} (empty : ∀ tk ∈ tks, ∀ m, s.teams.find tk = some m → m.buffer = []) :
    Drained s (flushAll s p tks) := by
  induction tks generalizing s with
  | nil => exact .refl s
  | cons tk tks ih =>
    have first : Drained s (flush s tk p) := flush_drained (empty tk List.mem_cons_self)
    refine first.trans (ih fun j hj m found => ?_)
    obtain ⟨e, here, keeps⟩ := first.find j
    rw [here] at found
    obtain ⟨m', found', rfl⟩ := Option.map_eq_some_iff.1 found
    exact (keeps m').2 (empty j (List.mem_cons_of_mem _ hj) m' found')

/-- Neither which teams a gang has nor what their threads left locked changes. -/
theorem Drained.orphans {s t : State} (h : Drained s t) (gk : Nat) : orphansOf t gk = orphansOf s gk := by
  have keys : teamsOfGang t gk = teamsOfGang s gk := by
    obtain ⟨-, e, teams, -⟩ := h
    rw [teamsOfGang, teamsOfGang, teams, Tab.mapVals, List.filter_map, List.map_map]
    rfl
  rw [orphansOf, orphansOf, keys]
  congr 1
  refine List.map_congr_left fun tk _ => ?_
  obtain ⟨e, here, keeps⟩ := h.find tk
  rw [here, Option.map_map]
  cases s.teams.find tk with
  | none => rfl
  | some m => exact (keeps m).1

/-- Only posts, calls and functions differ. -/
def PostsOnly (s t : State) : Prop := t = { s with posts := t.posts, calls := t.calls, fns := t.fns }

theorem PostsOnly.trans {s t u : State} (h : PostsOnly s t) (g : PostsOnly t u) : PostsOnly s u := by
  unfold PostsOnly at *
  rw [g, h]

theorem PostsOnly.foldl {f : State → Post → State} (step : ∀ s x, PostsOnly s (f s x)) (xs : List Post) (s : State) : PostsOnly s (xs.foldl f s) := by
  induction xs generalizing s with
  | nil => rfl
  | cons x xs ih => exact (step s x).trans (ih (f s x))

/-- Ending posts answers calls and counts discarded events of functions, and does nothing else (R385, R401). -/
theorem endPosts_postsOnly (s : State) (p : Post → Bool) : PostsOnly s (endPosts s p) := by
  refine PostsOnly.trans (t := { s with posts := s.posts.filter fun x => !p x }) rfl (PostsOnly.foldl (fun s x => ?_) _ _)
  split
  · rfl
  · rfl

theorem dropGangs_gang (s : State) (gk k : Nat) : (dropGangs s fun j => j == gk).gangs.find k = if k = gk then none else s.gangs.find k := by
  refine (show (dropGangs s fun j => j == gk).gangs = s.gangs.del gk from rfl) ▸ Tab.find_del s.gangs gk k

theorem dropGangs_team (s : State) {gk k : Nat} (h : gangOfTeam k = gk) : (dropGangs s fun j => j == gk).teams.find k = none := by
  cases found : (dropGangs s fun j => j == gk).teams.find k with
  | none => rfl
  | some m =>
    have kept := (List.mem_filter.1 (Tab.mem_of_find found)).2
    simp [h] at kept

/-- A launch of which one gang more has retired, with its partials and its writes. -/
def Launch.retireOne (l : Launch) (ps : List (Nat × Nat × Partial)) (v : View) : Launch :=
  { l with retired := l.retired + 1, partials := l.partials ++ ps, wrote := View.join l.wrote v }

section
variable {s : State} {gk : Nat} {g : Gang} {l : Launch} (found : s.gangs.find gk = some g) (ready : retirable s gk g = true)
  (launch : s.launches.find (launchOfGang gk) = some l) (sound : l.fatal = none) (ofLaunch : g.reduceOf = none)
  (empty : ∀ tk tm, gangOfTeam tk = gk → s.teams.find tk = some tm → tm.buffer = [])
include found ready launch sound ofLaunch empty

/-- A retirement whose teams have flushed before drops the gang, ends its posts, reports the lock bits of its exited threads and counts it in its launch. -/
theorem gangRetire_eq : ∃ d u, Drained s d ∧ PostsOnly (dropGangs d fun k => k == gk) u ∧
    exec (.gangRetire gk) s = .next (({ u with reports := if orphansOf s gk = 0 then u.reports else (5, orphansOf s gk) :: u.reports } : State).setLaunch
      (launchOfGang gk) (·.retireOne (partialsOf d gk) (gangWrote d gk g))).wake := by
  have drained : Drained s (flushAll s (fun _ => true) (teamsOfGang s gk)) := flushAll_drained _ fun tk mem m here => by
    obtain ⟨p, hp, rfl⟩ := List.mem_map.1 mem
    exact empty p.1 m (by simpa using (List.mem_filter.1 hp).2) here
  refine ⟨_, _, drained, endPosts_postsOnly _ fun x => x.gang == gk, ?_⟩
  show execGangRetire gk s = _
  rw [← drained.orphans gk]
  simp only [execGangRetire, found, ready, launch]
  generalize flushAll s (fun _ => true) (teamsOfGang s gk) = d at drained
  have launches : d.launches.find (launchOfGang gk) = some l := by rw [drained.1]; exact launch
  have kernel : reduceRetired d gk = d := by
    have gang : d.gangs.find gk = some g := by rw [drained.1]; exact found
    simp only [reduceRetired, gang, Option.bind_some, ofLaunch]
  simp only [launches, kernel, sound, ofLaunch, Option.any_some, Option.isSome_none, Bool.not_true, Bool.or_self, Bool.false_eq_true, if_false]
  split
  · rfl
  · rfl

/-- R125, R275, R412: a retired gang is gone with its teams, its launch counts it, and its exited threads' lock bits are reported. -/
theorem gangRetire_retires : ∃ t l', exec (.gangRetire gk) s = .next t ∧ t.mem = s.mem ∧
    (∀ k, t.gangs.find k = if k = gk then none else s.gangs.find k) ∧ (∀ k, gangOfTeam k = gk → t.teams.find k = none) ∧
    t.launches.find (launchOfGang gk) = some l' ∧ l'.retired = l.retired + 1 ∧
    t.reports = if orphansOf s gk = 0 then s.reports else (5, orphansOf s gk) :: s.reports := by
  obtain ⟨d, u, ⟨drained, -⟩, posts, run⟩ := gangRetire_eq found ready launch sound ofLaunch empty
  have rest : u.mem = s.mem ∧ u.gangs = (dropGangs s fun k => k == gk).gangs ∧ u.teams = (dropGangs d fun k => k == gk).teams ∧
      u.launches = s.launches ∧ u.reports = s.reports := by
    rw [posts]
    refine ⟨?_, ?_, rfl, ?_, ?_⟩
    · rw [drained]; rfl
    · rw [drained]; rfl
    · rw [drained]; rfl
    · rw [drained]; rfl
  obtain ⟨mem, gangs, teams, launches, reports⟩ := rest
  generalize partialsOf d gk = ps, gangWrote d gk g = v at run
  refine ⟨_, l.retireOne ps v, run, mem, fun k => ?_, fun k hk => ?_, ?_, rfl, ?_⟩
  · exact (congrArg (Tab.find · k) gangs).trans (dropGangs_gang s gk k)
  · exact (congrArg (Tab.find · k) teams).trans (dropGangs_team d hk)
  · refine (Tab.find_modify u.launches _ _ (·.retireOne ps v)).trans ?_
    rw [if_pos rfl, launches, launch, Option.map_some]
  · show (if orphansOf s gk = 0 then u.reports else (5, orphansOf s gk) :: u.reports) = _
    rw [reports]

end

end Sys2Proof.Machine
end

section
/-! A gang as it is placed (R29, R99, R409): its teams stand on their cores, each wave's group in the slot of its number. -/
namespace Sys2Proof.Machine

/-! ### Tables -/

theorem Tab.mem_put_self {α : Type} (t : Tab α) (k : Nat) (v : α) : (k, v) ∈ t.put k v :=
  Tab.mem_of_find ((Tab.find_put t k k v).trans (if_pos rfl))

/-- An entry of another key stays. -/
theorem Tab.mem_put_of_ne {α : Type} {t : Tab α} {k : Nat} {v : α} {p : Nat × α} (h : p ∈ t) (hk : p.1 ≠ k) : p ∈ t.put k v := by
  induction t with
  | nil => cases h
  | cons q t ih =>
    obtain ⟨i, u⟩ := q
    unfold Tab.put
    split
    · exact List.mem_cons_of_mem _ h
    · split
      · next e =>
        rcases List.mem_cons.1 h with rfl | h
        · exact absurd e.symm hk
        · exact List.mem_cons_of_mem _ h
      · rcases List.mem_cons.1 h with rfl | h
        · exact List.mem_cons_self
        · exact List.mem_cons_of_mem _ (ih h)

theorem find_putRange {α : Type} (t : Tab α) (k : Nat) (v : α) (n j : Nat) :
    (putRange t k v n).find j = if k ≤ j ∧ j < k + n then some v else t.find j := by
  induction n with
  | zero => rw [putRange, if_neg (by omega)]
  | succ n ih =>
    rw [putRange, Tab.find_put, ih]
    by_cases e : j = k + n
    · rw [if_pos e, if_pos (by omega)]
    · rw [if_neg e]
      refine if_congr ?_ rfl rfl
      omega

theorem sortNat_sorted {l : List Nat} (h : l.Pairwise (· ≤ ·)) : sortNat l = l := by
  induction l with
  | nil => rfl
  | cons x l ih =>
    obtain ⟨first, rest⟩ := List.pairwise_cons.1 h
    show insertNat x (sortNat l) = _
    rw [ih rest]
    cases l with
    | nil => rfl
    | cons y l => rw [insertNat, if_pos (first y List.mem_cons_self)]

/-! ### Group slots -/

/-- The numbers of a core's taken slots are those below w. -/
def SlotsBelow (s : State) (core w : Nat) : Prop := ∀ n, n < 64 → ((∃ p ∈ groupsOn s core, p.1 % 64 = n) ↔ n < w)

theorem slotsBelow_zero {s : State} {core : Nat} (h : groupsOn s core = []) : SlotsBelow s core 0 := by
  intro n _
  simp [h]

/-- The lowest free slot of such a core is the next. -/
theorem freeSlot_of_slotsBelow {s : State} {core w : Nat} (h : SlotsBelow s core w) (hw : w < 64) : freeSlot s core = some w := by
  have taken (n : Nat) (hn : n < 64) : (!((groupsOn s core).map fun p => p.1 % 64).contains n) = decide (w ≤ n) := by
    have below := h n hn
    rw [Bool.eq_iff_iff]
    simp only [Bool.not_eq_true', List.contains_eq_mem, decide_eq_false_iff_not, List.mem_map, decide_eq_true_eq, below, Nat.not_lt]
  unfold freeSlot
  refine List.find?_eq_some_iff_getElem.2 ⟨by rw [taken w hw]; simp, w, by simpa using hw, by simp, fun j hj => ?_⟩
  rw [List.getElem_range, taken j (by omega)]
  simp [hj]

/-- The team has its place on the core. -/
def StandsOn (s : State) (tk core : Nat) : Prop := ∃ t, (tk, t) ∈ s.teams ∧ teamOn s core tk t = true

theorem mem_groupsOn {s : State} {core : Nat} {p : Nat × Group} : p ∈ groupsOn s core ↔ p ∈ s.groups ∧ StandsOn s (teamOfGroup p.1) core := by
  simp only [groupsOn, teamsOn, StandsOn, List.mem_filter, List.contains_iff_mem, List.mem_map]
  refine and_congr_right fun _ => ⟨?_, ?_⟩
  · rintro ⟨⟨k, t⟩, ⟨mem, on⟩, rfl⟩
    exact ⟨t, mem, on⟩
  · rintro ⟨t, mem, on⟩
    exact ⟨(_, t), ⟨mem, on⟩, rfl⟩

theorem groupKey_slot (tk : Nat) {w : Nat} (hw : w < 64) : groupKey tk w % 64 = w := by rw [groupKey]; omega
theorem teamOfGroup_groupKey (tk : Nat) {w : Nat} (hw : w < 64) : teamOfGroup (groupKey tk w) = tk := by rw [teamOfGroup, groupKey]; omega

section
variable {s : State} {tk core pc w : Nat} {lanes : List Nat} {st : GStatus}

/-- A group put into the next slot of its team's core takes that slot. -/
theorem putGroup_slotsBelow (stands : StandsOn s tk core) (hw : w < 64) (h : SlotsBelow s core w) :
    SlotsBelow (s.putGroup tk w pc lanes st) core (w + 1) := by
  intro n hn
  have same : ∀ k, StandsOn (s.putGroup tk w pc lanes st) k core ↔ StandsOn s k core := fun _ => Iff.rfl
  constructor
  · rintro ⟨p, mem, rfl⟩
    obtain ⟨here, on⟩ := mem_groupsOn.1 mem
    rcases Tab.mem_put here with rfl | old
    · rw [groupKey_slot tk hw]; exact Nat.lt_succ_self w
    · exact Nat.lt_succ_of_lt ((h _ hn).1 ⟨p, mem_groupsOn.2 ⟨old, (same _).1 on⟩, rfl⟩)
  · intro below
    by_cases e : n = w
    · refine ⟨_, mem_groupsOn.2 ⟨Tab.mem_put_self s.groups (groupKey tk w) _, (same _).2 ?_⟩, (groupKey_slot tk hw).trans e.symm⟩
      rw [teamOfGroup_groupKey tk hw]
      exact stands
    · obtain ⟨p, mem, slot⟩ := (h n hn).2 (by omega)
      obtain ⟨old, on⟩ := mem_groupsOn.1 mem
      have other : p.1 ≠ groupKey tk w := fun k => e (by rw [← slot, k, groupKey_slot tk hw])
      exact ⟨p, mem_groupsOn.2 ⟨Tab.mem_put_of_ne old other, (same _).2 on⟩, slot⟩

/-- A new group's table entry: the lanes that are put are in ascending order. -/
theorem putGroup_group (sorted : lanes.Pairwise (· ≤ ·)) (k : Nat) : (s.putGroup tk w pc lanes st).groups.find k =
    if k = groupKey tk w then some ⟨lanes, pc, st, none, [], [], [], s.nextId, 0, none, false⟩ else s.groups.find k := by
  rw [State.putGroup, sortNat_sorted sorted]
  exact Tab.find_put ..

theorem mem_putGroup {p : Nat × Group} (hw : w < 64) (mem : p ∈ (s.putGroup tk w pc lanes st).groups) : p ∈ s.groups ∨ teamOfGroup p.1 = tk := by
  rcases Tab.mem_put mem with rfl | old
  · exact .inr (teamOfGroup_groupKey tk hw)
  · exact .inl old

/-- Putting a group leaves a thread that is in a group as it is. -/
theorem putGroup_thread {k : Nat} {th : Thread} (found : s.threads.find k = some th) (grouped : th.status = .grouped) :
    (s.putGroup tk w pc lanes st).threads.find k = some th := by
  rw [State.putGroup, Tab.find_mapVals, found, Option.map_some]
  split
  · rw [← grouped]
  · rfl

theorem putGroup_rest : s.putGroup tk w pc lanes st = { s with
    groups := (s.putGroup tk w pc lanes st).groups, threads := (s.putGroup tk w pc lanes st).threads
    nextId := (s.putGroup tk w pc lanes st).nextId } := rfl

end

/-- The lanes of wave-of-origin w (R99). -/
def waveLanes (w : Nat) : List Nat := (List.range 32).map (32 * w + ·)

theorem waveLanes_sorted (w : Nat) : (waveLanes w).Pairwise (· ≤ ·) :=
  List.pairwise_map.2 (List.pairwise_lt_range.imp fun lt => Nat.add_le_add_left (Nat.le_of_lt lt) _)

/-- From s to t, groups of n waves from w on have been put for a team, each into the slot of its number: nothing else has changed, threads that
stand in groups among it. -/
structure Grouped (s t : State) (tk pc w n : Nat) : Prop where
  rest : t = { s with groups := t.groups, threads := t.threads, nextId := t.nextId }
  groups : ∀ i, w ≤ i → i < w + n → ∃ g, t.groups.find (groupKey tk i) = some g ∧ g.lanes = waveLanes i ∧ g.pc = pc ∧ g.status = .ready
  others : ∀ k, teamOfGroup k ≠ tk ∨ k < groupKey tk w → t.groups.find k = s.groups.find k
  source : ∀ p ∈ t.groups, p ∈ s.groups ∨ teamOfGroup p.1 = tk
  threads : ∀ k th, s.threads.find k = some th → th.status = .grouped → t.threads.find k = some th

theorem Grouped.zero (s : State) (tk pc w : Nat) : Grouped s s tk pc w 0 :=
  ⟨rfl, fun _ h1 h2 => absurd h1 (by omega), fun _ _ => rfl, fun _ => .inl, fun _ _ found _ => found⟩

/-- One wave's group first, then those of the waves after it. -/
theorem Grouped.succ {s t : State} {tk pc w n : Nat} (hw : w + (n + 1) ≤ 64)
    (h : Grouped (s.putGroup tk w pc (waveLanes w) .ready) t tk pc (w + 1) n) : Grouped s t tk pc w (n + 1) := by
  have put (k : Nat) := putGroup_group (s := s) (tk := tk) (w := w) (pc := pc) (st := .ready) (waveLanes_sorted w) k
  refine ⟨h.rest.trans (by rw [putGroup_rest]), fun i h1 h2 => ?_, fun k hk => ?_, fun p hp => ?_,
    fun k th found grouped => h.threads k th (putGroup_thread found grouped) grouped⟩
  · by_cases e : i = w
    · subst e
      have first := h.others (groupKey tk i) (.inr (by rw [groupKey, groupKey]; omega))
      exact ⟨_, first.trans ((put _).trans (if_pos rfl)), rfl, rfl, rfl⟩
    · exact h.groups i (by omega) (by omega)
  · have other : k ≠ groupKey tk w := by
      rintro rfl
      rcases hk with team | below
      · exact team (teamOfGroup_groupKey tk (by omega))
      · exact Nat.lt_irrefl _ below
    rw [h.others k (hk.imp id fun below => by rw [groupKey] at below ⊢; omega), put, if_neg other]
  · rcases h.source p hp with old | new
    · exact mem_putGroup (by omega) old
    · exact .inr new

/-- On a core whose slots from w on are free, each of n waves from w on gets the slot of its number (R99). -/
theorem startGroups_grouped {tk core pc : Nat} (n : Nat) {w : Nat} {s : State} (stands : StandsOn s tk core) (hw : w + n ≤ 64)
    (h : SlotsBelow s core w) : Grouped s (startGroups s tk core pc (List.range' w n)) tk pc w n := by
  induction n generalizing w s with
  | zero => exact .zero s tk pc w
  | succ n ih =>
    rw [List.range'_succ, startGroups, freeSlot_of_slotsBelow h (by omega)]
    exact .succ hw (ih stands (by omega) (putGroup_slotsBelow stands (by omega) h))

/-! ### Teams -/

/-- A team of a launch stands on a core at its first instruction, with its waves, threads and groups (R29). -/
structure TeamAt (t : State) (l : Launch) (tk core : Nat) : Prop where
  team : ∃ m, t.teams.find tk = some m ∧ m.core = core ∧ m.count = l.waves * 32
  waves : ∀ w, w < l.waves → t.waves.find (waveKey tk w) = some (startWave l)
  threads : ∀ i, i < l.waves * 32 → t.threads.find (threadKey tk i) = some (startThread l.given)
  groups : ∀ w, w < l.waves → ∃ g, t.groups.find (groupKey tk w) = some g ∧ g.lanes = waveLanes w ∧ g.pc = 0 ∧ g.status = .ready

/-- A gang has its places on its quad, none of its teams from n on has anything yet, and no group stands on the cores that are to take them. -/
structure Vacant (s : State) (gk n : Nat) (cores : List Nat) : Prop where
  gang : (s.gangs.find gk).any (·.occupies) = true
  teams : ∀ p ∈ s.teams, ∀ m, n ≤ m → m < 4 → p.1 ≠ teamKey gk m
  groups : ∀ p ∈ s.groups, ∀ m, n ≤ m → m < 4 → teamOfGroup p.1 ≠ teamKey gk m
  cores : ∀ c ∈ cores, groupsOn s c = []

theorem gangOfTeam_teamKey (gk : Nat) {n : Nat} (hn : n < 4) : gangOfTeam (teamKey gk n) = gk := by rw [gangOfTeam, teamKey]; omega

/-- The state once a team, its waves and its threads stand in the tables, and no group of it. -/
def teamPut (s : State) (l : Launch) (tk core : Nat) : State := { s with
  teams := s.teams.put tk (startTeam l core)
  waves := putRange s.waves (waveKey tk 0) (startWave l) l.waves
  threads := putRange s.threads (threadKey tk 0) (startThread l.given) (l.waves * 32) }

/-- A team of a launch, put onto a core. -/
def launchTeam (s : State) (l : Launch) (tk core : Nat) : State := placeTeam s tk (startTeam l core) (startWave l) l.waves 0 l.given

theorem placeTeams_cons (s : State) (l : Launch) (gk n c : Nat) (cs : List Nat) :
    placeTeams s l gk n (c :: cs) = placeTeams (launchTeam s l (teamKey gk n) c) l gk (n + 1) cs := rfl

section
variable {s : State} {l : Launch} {gk n c : Nat} {cs : List Nat}

/-- A core holds a team that is put there, and those that it held. -/
theorem standsOn_teamPut {k core : Nat} (h : StandsOn (teamPut s l (teamKey gk n) c) k core) : k = teamKey gk n ∧ core = c ∨ StandsOn s k core := by
  obtain ⟨t, mem, on⟩ := h
  rcases Tab.mem_put mem with e | old
  · cases e
    have here : (startTeam l c).core == core := (Bool.and_eq_true_iff.1 on).1
    exact .inl ⟨rfl, (beq_iff_eq.1 here).symm⟩
  · exact .inr ⟨t, old, on⟩

variable (vacant : Vacant s gk n (c :: cs)) (hn : n < 4) (hw : l.waves ≤ 64)
include vacant hn hw

/-- The groups of the next team go into the slots of their waves' numbers. -/
theorem launchTeam_grouped : Grouped (teamPut s l (teamKey gk n) c) (launchTeam s l (teamKey gk n) c) (teamKey gk n) 0 0 l.waves := by
  have stands : StandsOn (teamPut s l (teamKey gk n) c) (teamKey gk n) c := by
    refine ⟨startTeam l c, Tab.mem_put_self .., Bool.and_eq_true_iff.2 ⟨beq_self_eq_true c, ?_⟩⟩
    rw [gangOfTeam_teamKey gk hn]
    exact vacant.gang
  have empty : groupsOn (teamPut s l (teamKey gk n) c) c = [] := by
    refine List.eq_nil_iff_forall_not_mem.2 fun p mem => ?_
    obtain ⟨old, on⟩ := mem_groupsOn.1 mem
    rcases standsOn_teamPut on with ⟨team, -⟩ | on
    · exact vacant.groups p old n (Nat.le_refl n) hn team
    · have none := vacant.cores c List.mem_cons_self
      exact List.eq_nil_iff_forall_not_mem.1 none p (mem_groupsOn.2 ⟨old, on⟩)
  rw [launchTeam, placeTeam, List.range_eq_range']
  exact startGroups_grouped l.waves stands (by omega) (slotsBelow_zero empty)

theorem launchTeam_teamAt : TeamAt (launchTeam s l (teamKey gk n) c) l (teamKey gk n) c := by
  have h := launchTeam_grouped vacant hn hw
  refine ⟨⟨startTeam l c, ?_, rfl, rfl⟩, fun w lt => ?_, fun i lt => h.threads _ _ ?_ rfl, fun w lt => h.groups w (Nat.zero_le w) (by omega)⟩
  · rw [h.rest]
    exact (Tab.find_put ..).trans (if_pos rfl)
  · rw [h.rest]
    exact (find_putRange ..).trans (if_pos (by rw [waveKey, waveKey]; omega))
  · exact (find_putRange ..).trans (if_pos (by rw [threadKey, threadKey]; omega))

/-- What stands of another team stays. -/
theorem launchTeam_keeps {tk core : Nat} (other : tk ≠ teamKey gk n) (h : TeamAt s l tk core) : TeamAt (launchTeam s l (teamKey gk n) c) l tk core := by
  have g := launchTeam_grouped vacant hn hw
  obtain ⟨⟨m, team, mcore, mcount⟩, waves, threads, groups⟩ := h
  refine ⟨⟨m, ?_, mcore, mcount⟩, fun w lt => ?_, fun i lt => g.threads _ _ ?_ rfl, fun w lt => ?_⟩
  · rw [g.rest]
    exact ((Tab.find_put ..).trans (if_neg other)).trans team
  · rw [g.rest]
    exact ((find_putRange ..).trans (if_neg (by rw [waveKey, waveKey]; omega))).trans (waves w lt)
  · exact ((find_putRange ..).trans (if_neg (by rw [threadKey, threadKey]; omega))).trans (threads i lt)
  · rw [g.others _ (.inl (by rw [teamOfGroup_groupKey tk (by omega)]; exact other))]
    exact groups w lt

theorem launchTeam_vacant (apart : c ∉ cs) : Vacant (launchTeam s l (teamKey gk n) c) gk (n + 1) cs := by
  have g := launchTeam_grouped vacant hn hw
  have later (m : Nat) (hm : n + 1 ≤ m) : teamKey gk n ≠ teamKey gk m := by rw [teamKey, teamKey]; omega
  refine ⟨?_, fun p hp m h1 h2 => ?_, fun p hp m h1 h2 => ?_, fun c' hc => List.eq_nil_iff_forall_not_mem.2 fun p mem => ?_⟩
  · rw [g.rest]
    exact vacant.gang
  · rw [g.rest] at hp
    rcases Tab.mem_put hp with rfl | old
    · exact later m h1
    · exact vacant.teams p old m (by omega) h2
  · rcases g.source p hp with old | new
    · exact vacant.groups p old m (by omega) h2
    · rw [new]
      exact later m h1
  · obtain ⟨here, on⟩ := mem_groupsOn.1 mem
    have on : StandsOn (teamPut s l (teamKey gk n) c) (teamOfGroup p.1) c' := by
      rw [g.rest] at on
      exact on
    rcases standsOn_teamPut on with ⟨-, rfl⟩ | ⟨t, old, on⟩
    · exact apart hc
    · rcases g.source p here with there | new
      · have none := vacant.cores c' (List.mem_cons_of_mem _ hc)
        exact List.eq_nil_iff_forall_not_mem.1 none p (mem_groupsOn.2 ⟨there, t, old, on⟩)
      · exact vacant.teams _ old n (Nat.le_refl n) hn new

end

/-- A gang's teams, put onto distinct cores from team n on, stand there, and teams that stood stay. -/
theorem placeTeams_places {l : Launch} {gk : Nat} (hw : l.waves ≤ 64) (cores : List Nat) {n : Nat} {s : State} (vacant : Vacant s gk n cores)
    (apart : cores.Nodup) (four : n + cores.length ≤ 4) : let t := placeTeams s l gk n cores
    t = { s with teams := t.teams, waves := t.waves, threads := t.threads, groups := t.groups, nextId := t.nextId } ∧
    (∀ (i : Nat) c, cores[i]? = some c → TeamAt t l (teamKey gk (n + i)) c) ∧
    ∀ tk c, (∀ m, n ≤ m → tk ≠ teamKey gk m) → TeamAt s l tk c → TeamAt t l tk c := by
  induction cores generalizing n s with
  | nil => exact ⟨rfl, fun i c h => by simp at h, fun _ _ _ h => h⟩
  | cons c cs ih =>
    obtain ⟨first, distinct⟩ := List.nodup_cons.1 apart
    rw [List.length_cons] at four
    rw [placeTeams_cons]
    obtain ⟨rest, places, keeps⟩ := ih (launchTeam_vacant vacant (by omega) hw first) distinct (by omega)
    refine ⟨?_, fun i c' h => ?_, fun tk c' other h => ?_⟩
    · rw [rest, (launchTeam_grouped vacant (by omega) hw).rest]
      rfl
    · cases i with
      | zero =>
        cases h
        refine keeps _ _ (fun m hm => ?_) (launchTeam_teamAt vacant (by omega) hw)
        rw [teamKey, teamKey]
        omega
      | succ i =>
        rw [show n + (i + 1) = n + 1 + i by omega]
        exact places i c' h
    · exact keeps tk c' (fun m hm => other m (by omega)) (launchTeam_keeps vacant (by omega) hw (other n (Nat.le_refl n)) h)

/-! ### GANG_PLACE -/

/-- The gangs of a launch that n placements after those made so far bring. -/
def freshGang (lk placed n k : Nat) : Bool := launchOfGang k == lk && decide (placed ≤ k % 131072) && decide (k % 131072 < placed + n)

/-- A gang of the table when some have been dispatched at tick rt: a new one has its launch's outside events and its slice begins, and one that waited
for it waits no more (R383, R417). -/
def Gang.onDispatch (l : Launch) (fresh : Nat → Bool) (rt k : Nat) (g : Gang) : Gang :=
  let g1 := if fresh k then { restoreInbox l k g with slice := rt } else g
  if g1.heir.any fresh then { g1 with heir := none } else g1

theorem Gang.onDispatch_keeps (l : Launch) (fresh : Nat → Bool) (rt k : Nat) (g : Gang) : let g' := g.onDispatch l fresh rt k
    g'.status = g.status ∧ g'.quad = g.quad ∧ g'.teams = g.teams ∧ g'.vt = g.vt ∧ g'.timers = g.timers := by
  unfold Gang.onDispatch
  dsimp only
  split
  · split
    · exact ⟨rfl, rfl, rfl, rfl, rfl⟩
    · exact ⟨rfl, rfl, rfl, rfl, rfl⟩
  · split
    · exact ⟨rfl, rfl, rfl, rfl, rfl⟩
    · exact ⟨rfl, rfl, rfl, rfl, rfl⟩

/-- A launch when n more of its gangs have been dispatched, the first on a quad (R405, R420, R272). -/
def Launch.onDispatch (s : State) (lk quad n : Nat) (l : Launch) : Launch := { l with
  status := .running, placed := l.placed + n, die := some (l.die.getD (dieOfQuad quad)), start := if l.placed = 0 ∧ l.replays = 0 then s.rt else l.start
  origins := if l.placed = 0 ∧ l.replays = 0 then ((s.fnFor lk).map fun f => originsOf s f l).getD [] else l.origins }

/-- The state once n gangs of a launch that stand have been dispatched, its time record and waiting groups apart. -/
def dispatched (s : State) (lk : Nat) (l : Launch) (quad n : Nat) : State := { s with
  gangs := s.gangs.mapVals (Gang.onDispatch l (freshGang lk l.placed n) s.rt)
  launches := s.launches.modify lk (Launch.onDispatch s lk quad n)
  fns := s.fns.modify l.fn fun f => { f with queues := f.queues.mapVals fun _ q => q.filter (· != lk) } }

/-- A placement that no debugger halts. -/
theorem afterPlace_eq {s : State} {lk : Nat} (l : Launch) (quad n : Nat) (free : s.debugged.contains lk = false ∨ s.started.contains lk = true) :
    afterPlace s lk l quad n = (if l.placed = 0 then (dispatched s lk l quad n).noteTime lk else dispatched s lk l quad n).wake := by
  have run : (s.debugged.contains lk && !s.started.contains lk) = false := by
    rcases free with h | h
    · rw [h, Bool.false_and]
    · rw [h, Bool.not_true, Bool.and_false]
  have gangs : dispatched s lk l quad n = { dispatched s lk l quad n with
      gangs := (s.gangs.mapVals fun k g => if freshGang lk l.placed n k then { restoreInbox l k g with slice := s.rt } else g).mapVals fun _ g =>
        if g.heir.any (freshGang lk l.placed n) then { g with heir := none } else g } := by
    rw [Tab.mapVals, Tab.mapVals, List.map_map]
    rfl
  rw [gangs]
  simp only [afterPlace, run, Bool.false_eq_true, if_false]
  rfl

/-- The note of a launch's time changes that launch alone. -/
theorem noteTime_rest (s : State) (lk : Nat) : s.noteTime lk = { s with launches := (s.noteTime lk).launches } := rfl

/-- What the dispatch leaves, and what it changes but launches. -/
theorem dispatched_tables {s t : State} {lk : Nat} {l : Launch} {quad n : Nat}
    (h : t = (if l.placed = 0 then (dispatched s lk l quad n).noteTime lk else dispatched s lk l quad n).wake) :
    t.mem = s.mem ∧ t.teams = s.teams ∧ t.waves = s.waves ∧ t.threads = s.threads ∧ t.groups = s.wake.groups ∧
    t.gangs = (dispatched s lk l quad n).gangs ∧ t.fns = (dispatched s lk l quad n).fns := by
  have rest : ∃ ls, t = ({ dispatched s lk l quad n with launches := ls } : State).wake := by
    rw [h]
    split
    · exact ⟨_, congrArg State.wake (noteTime_rest _ lk)⟩
    · exact ⟨_, rfl⟩
  obtain ⟨ls, rfl⟩ := rest
  exact ⟨rfl, rfl, rfl, rfl, rfl, rfl, rfl⟩

/-- The launch of which gangs have been dispatched. -/
theorem dispatched_launch {s t : State} {lk : Nat} {l : Launch} {quad n : Nat} (found : s.launches.find lk = some l)
    (h : t = (if l.placed = 0 then (dispatched s lk l quad n).noteTime lk else dispatched s lk l quad n).wake) :
    ∃ r, t.launches.find lk = some { l.onDispatch s lk quad n with timeRec := r } := by
  have here : (dispatched s lk l quad n).launches.find lk = some (l.onDispatch s lk quad n) := by
    rw [dispatched, Tab.find_modify, if_pos rfl, found, Option.map_some]
  rw [h, State.wake_launches]
  split
  · exact ⟨_, noteTime_launch here⟩
  · exact ⟨_, here⟩

/-- The old contents of ordered targets are read from memory. -/
theorem originsOf_congr {s t : State} (mem : t.mem = s.mem) (f : Fn) (l : Launch) : originsOf t f l = originsOf s f l := by
  simp only [originsOf, pageCount, frameOf, entryPhys, mem]

/-- A gang before its teams are put: its channels are bound (R284). -/
def gangPut (s : State) (gk quad teams : Nat) : State :=
  { s with gangs := s.gangs.put gk (bindChannels s (dieOfQuad quad) (startGang quad teams s.nextId)), nextId := s.nextId + 1 }

theorem gangPut_gang (s : State) (gk quad teams : Nat) : ∃ g, (gangPut s gk quad teams).gangs.find gk = some g ∧
    g.status = .resident ∧ g.quad = quad ∧ g.teams = teams ∧ g.vt = 0 ∧ g.timers = [] := by
  refine ⟨_, (Tab.find_put ..).trans (if_pos rfl), ?_⟩
  rw [bindChannels_rest]
  exact ⟨rfl, rfl, rfl, rfl, rfl⟩

/-- Where a new gang finds empty cores and nothing of its own, its teams may be put. -/
theorem gangPut_vacant {s : State} {gk quad : Nat} {cores : List Nat} (empty : ∀ core ∈ cores, groupsOn s core = [])
    (noGroups : ∀ p ∈ s.groups, gangOfTeam (teamOfGroup p.1) ≠ gk) (noTeams : ∀ p ∈ s.teams, gangOfTeam p.1 ≠ gk) (teams : Nat) :
    Vacant (gangPut s gk quad teams) gk 0 cores := by
  obtain ⟨g, found, resident, -⟩ := gangPut_gang s gk quad teams
  refine ⟨by rw [found, Option.any_some, Gang.occupies, resident]; rfl, fun p hp m _ hm e => noTeams p hp (by rw [e, gangOfTeam_teamKey gk hm]),
    fun p hp m _ hm e => noGroups p hp (by rw [e, gangOfTeam_teamKey gk hm]), fun c hc => List.eq_nil_iff_forall_not_mem.2 fun p mem => ?_⟩
  obtain ⟨here, t, team, on⟩ := mem_groupsOn.1 mem
  have other : gangOfTeam (teamOfGroup p.1) ≠ gk := noTeams (_, t) team
  have same : (gangPut s gk quad teams).gangs.find (gangOfTeam (teamOfGroup p.1)) = s.gangs.find (gangOfTeam (teamOfGroup p.1)) :=
    (Tab.find_put ..).trans (if_neg other)
  rw [teamOn, same] at on
  exact List.eq_nil_iff_forall_not_mem.1 (empty c hc) p (mem_groupsOn.2 ⟨here, t, team, on⟩)

theorem nodup_of_noRepeats {l : List Nat} (h : noRepeats l = true) : l.Nodup := by
  induction l with
  | nil => exact List.nodup_nil
  | cons x l ih =>
    simp only [noRepeats, Bool.and_eq_true, Bool.not_eq_true', List.contains_eq_mem, decide_eq_false_iff_not] at h
    exact List.nodup_cons.2 ⟨h.1, ih h.2⟩

/-- What room on a quad says of the cores. -/
theorem roomOn_cores {s : State} {f : Fn} {lk quad : Nat} {l : Launch} {cores : List Nat} {ns : List Need} (h : roomOn s f lk l quad cores ns = true) :
    cores.length = ns.length ∧ cores.Nodup := by
  simp only [roomOn, Bool.and_eq_true, decide_eq_true_eq] at h
  obtain ⟨⟨⟨⟨⟨⟨-, length⟩, apart⟩, -⟩, -⟩, -⟩, -⟩ := h
  exact ⟨length, nodup_of_noRepeats apart⟩

section
variable {s : State} {lk : Nat} {l : Launch} {f : Fn} {quad : Nat} {cores : List Nat}

/-- R409, R410: the next gang of a launch that is no cohort is placed where its span has room. -/
theorem gangPlace_run (launch : s.launches.find lk = some l) (sees : s.fnFor lk = some f) (live : l.status = .admitting ∨ l.status = .running)
    (sound : l.fatal = none) (left : l.placed < l.gangs) (single : l.cohort = false) (span : (launchQuads s f l).contains quad = true)
    (room : roomOn s f lk l quad cores l.needs = true) : exec (.gangPlace lk l.placed quad cores) s =
      .next (afterPlace (placeTeams (gangPut s (gangKey lk l.placed) quad cores.length) l (gangKey lk l.placed) 0 cores) lk l quad 1) := by
  have may : ¬ ((l.status ≠ .admitting ∧ l.status ≠ .running) ∨ l.fatal.isSome ∨ l.placed ≠ l.placed ∨ l.gangs ≤ l.placed ∨
      !(launchQuads s f l).contains quad ∨ !roomOn s f lk l quad cores l.needs) := by
    simp only [sound, span, room, Nat.not_le.2 left, Option.isSome_none, ne_eq, not_true_eq_false, Bool.not_true, Bool.false_eq_true, or_false]
    exact fun h => live.elim h.1 h.2
  show execGangPlace lk l.placed quad cores s = _
  simp only [execGangPlace, launch, sees]
  rw [if_neg may, if_neg (by rw [single]; exact Bool.false_ne_true)]
  rfl

end

/-- A team that stands at its first instruction stands so in the state of a dispatch, in the words of the statement. -/
theorem TeamAt.placed {s t : State} {l : Launch} {tk core : Nat} (h : TeamAt s l tk core) (teams : t.teams = s.teams) (waves : t.waves = s.waves)
    (threads : t.threads = s.threads) (groups : t.groups = s.wake.groups) :
    (∃ m, t.teams.find tk = some m ∧ m.core = core ∧ m.count = l.waves * 32) ∧
    (∀ w, w < l.waves → t.waves.find (waveKey tk w) = some (startWave l)) ∧
    (∀ i, i < l.waves * 32 → ∃ th, t.threads.find (threadKey tk i) = some th ∧ th.regs = [] ∧ th.preds = 0 ∧ th.status = .grouped) ∧
    (∀ w, w < l.waves → ∃ g, t.groups.find (groupKey tk w) = some g ∧ g.lanes = (List.range 32).map (32 * w + ·) ∧ g.pc = 0 ∧
      g.status = .ready) := by
  rw [teams, waves, threads, groups]
  refine ⟨h.team, h.waves, fun i lt => ⟨_, h.threads i lt, rfl, rfl, rfl⟩, fun w lt => ?_⟩
  obtain ⟨g, found, lanes, pc, ready⟩ := h.groups w lt
  refine ⟨g, ?_, lanes, pc, ready⟩
  rw [wake_group, found, Option.map_some, if_neg (by rw [ready]; decide)]

/-- R29, R409: what a placement leaves. -/
theorem gangPlace_places {s : State} {lk : Nat} {l : Launch} {f : Fn} {quad : Nat} {cores : List Nat} (launch : s.launches.find lk = some l)
    (sees : s.fnFor lk = some f) (four : l.shape.teams ≤ 4) (hw : l.waves ≤ 64)
    (room : roomOn s f lk l quad cores l.needs = true) (empty : ∀ core ∈ cores, groupsOn s core = [])
    (noGroups : ∀ p ∈ s.groups, gangOfTeam (teamOfGroup p.1) ≠ gangKey lk l.placed) (noTeams : ∀ p ∈ s.teams, gangOfTeam p.1 ≠ gangKey lk l.placed)
    (free : s.debugged.contains lk = false ∨ s.started.contains lk = true) : ∃ l',
    let t := afterPlace (placeTeams (gangPut s (gangKey lk l.placed) quad cores.length) l (gangKey lk l.placed) 0 cores) lk l quad 1
    t.mem = s.mem ∧ Placed t l (gangKey lk l.placed) quad cores ∧ t.launches.find lk = some l' ∧ l'.status = .running ∧ l'.placed = l.placed + 1 ∧
    (l.placed = 0 → l.replays = 0 → l'.origins = originsOf s f l) ∧
    ∀ f', t.fns.find l.fn = some f' → ∀ q ks, f'.queues.find q = some ks → lk ∉ ks := by
  obtain ⟨length, apart⟩ := roomOn_cores room
  rw [Launch.needs, List.length_replicate] at length
  obtain ⟨g, gang, resident, quad', count, vt, timers⟩ := gangPut_gang s (gangKey lk l.placed) quad cores.length
  obtain ⟨rest, places, -⟩ := placeTeams_places hw cores (gangPut_vacant (quad := quad) empty noGroups noTeams cores.length) apart (by omega)
  generalize hp : placeTeams (gangPut s (gangKey lk l.placed) quad cores.length) l (gangKey lk l.placed) 0 cores = p at rest places
  have tables : p.mem = s.mem ∧ p.gangs = (gangPut s (gangKey lk l.placed) quad cores.length).gangs ∧ p.launches = s.launches ∧ p.fns = s.fns ∧
      p.debugged = s.debugged ∧ p.started = s.started := by
    rw [rest]
    exact ⟨rfl, rfl, rfl, rfl, rfl, rfl⟩
  obtain ⟨mem, gangs, launches, fns, debugged, started⟩ := tables
  rw [← debugged, ← started] at free
  have run := afterPlace_eq l quad 1 free
  obtain ⟨mem', teams, waves, threads, groups, gangs', fns'⟩ := dispatched_tables run
  obtain ⟨r, launch'⟩ := dispatched_launch (by rw [launches, launch]) run
  refine ⟨_, mem'.trans mem, ⟨?_, fun n core hn => ?_⟩, launch', rfl, rfl, fun first fresh => ?_, fun f' found q ks hq mem => ?_⟩
  · obtain ⟨st, qd, tm, v, ti⟩ := Gang.onDispatch_keeps l (freshGang lk l.placed 1) p.rt (gangKey lk l.placed) g
    refine ⟨_, ?_, st.trans resident, qd.trans quad', tm.trans count, v.trans vt, ti.trans timers⟩
    rw [gangs', dispatched, Tab.find_mapVals, gangs, gang, Option.map_some]
  · have at_ := places n core hn
    rw [Nat.zero_add] at at_
    exact at_.placed teams waves threads groups
  · have same : p.fnFor lk = some f := by
      rw [← sees, State.fnFor, State.fnFor, launches, fns]
    show (if l.placed = 0 ∧ l.replays = 0 then ((p.fnFor lk).map fun f => originsOf p f l).getD [] else l.origins) = _
    rw [if_pos ⟨first, fresh⟩, same, Option.map_some, Option.getD_some, originsOf_congr mem]
  · rw [fns', dispatched, Tab.find_modify, if_pos rfl] at found
    obtain ⟨f0, -, rfl⟩ := Option.map_eq_some_iff.1 found
    rw [Tab.find_mapVals] at hq
    obtain ⟨q0, -, rfl⟩ := Option.map_eq_some_iff.1 hq
    simp at mem

/-- Settles O57 (`gangEvents` is a function of the model): event by event. A placement's teams stand on their cores by an induction over them
that keeps the cores of the teams to come empty (`placeTeams_places`), and the slots of a core's waves by one over the waves
(`startGroups_grouped`); a stop is `stopGang_stops`, a resume `restart_eq_some`. -/
theorem gangEvents_hold : Obligations.GangEvents := by
  unfold Obligations.GangEvents
  refine ⟨?place, ?stop, fun s gk g l found launch single => gangStop_halts found launch single,
    fun s gk g l id c found launch alone resident unheld => gangStop_holds found launch alone resident unheld, ?slice,
    fun s gk => gangSaved_saves, ?resume, ?pack, fun s gk die l f absent launch sees => gangPack_undispatched absent launch sees,
    fun s gk => gangMigrateAccept_takes, fun s gk g l found ready launch => gangRetire_retires found ready launch⟩
  case place =>
    intro s lk l f quad cores launch sees live sound left single four _ hw span room empty noGroups noTeams free
    obtain ⟨l', places⟩ := gangPlace_places launch sees four hw room empty noGroups noTeams free
    exact ⟨_, l', gangPlace_run launch sees live sound left single span room, places⟩
  case stop =>
    intro s gk g l why found launch single resident ofLaunch reason due free
    obtain ⟨t, run, rest, gang, teams, others, partners, notices⟩ := gangStop_stops found launch single resident ofLaunch reason due free
    exact ⟨t, run, rest, gang, teams, others, partners, notices⟩
  case slice =>
    intro s gk gk2 g l found launch det single resident ofLaunch same waits slice
    exact timeSliceExpiry_stops found launch det single resident ofLaunch same waits slice
  case resume =>
    intro s gk g l f quad cores u lk found launch sees alone sound suspended due free turn engine own room restarted
    have may := mayResume_of suspended due free turn engine own room
    obtain ⟨mem, waves, threads, gangs⟩ := restart_keeps found restarted
    exact ⟨gangResume_restarts found launch sees alone sound may restarted, mem, waves, threads, gangs ▸ restarting_gang found,
      fun ofLaunch => restart_counts found restarted ofLaunch launch⟩
  case pack =>
    intro s gk die g l f ks lk on found launch sees away spans free full
    exact ⟨fun here room => gangPack_die found launch sees away spans free full here room,
      fun pod beyond ways => gangPack_module found launch sees away spans free full pod beyond ways⟩

end Sys2Proof.Machine
end

section
/-! Final roundings of a lane (R205 to R207), and reads and writes of clocks, counters and control registers (R389, R394, R397 to R399). -/
namespace Sys2Proof.Machine

/-! ### FIN and PACK -/

theorem finalOf_eq (c : Ctx) (l : Lane) (f : Fmt) (x : Image) (k : Nat) : finalOf c l f x k = finalRounding f x k c l := rfl

theorem packed_eq (c : Ctx) (l : Lane) (f : Fmt) (xs : List Image) :
    packed c l f xs = packedCodes f (xs.zipIdx.map fun p => finalRounding f p.1 p.2 c l) := rfl

section
variable {i : Instr} {f : Fmt} {d a b : Nat}

/-- R59: the draw numbers are consumed whatever r is, so also where no element draws. -/
theorem laneDoes_of_finIss {n : Nat} {reads : List Nat} {r : Ctx → Lane → W32 × Flags5} (encoded : isEvent i = false)
    (iss : issOf i = finIss d reads n r) : LaneDoes i 1 (putD d n r) fun c l => (r c l).2 :=
  laneDoes_of encoded (by rw [iss]; rfl) fun c s => by rw [iss]; rfl

theorem laneDoes_of_finTo (encoded : isEvent i = false) (iss : issOf i = finTo f d a) :
    let r := fun c l => let y := finalRounding f (c.src l a) 0 c l; (BitVec.ofNat 32 (encodeF .f32 y.1), y.2)
    LaneDoes i 1 (putD d 1 r) fun c l => (r c l).2 :=
  laneDoes_of_finIss encoded (reads := [a]) (by simp only [iss, finTo, finalOf_eq])

theorem laneDoes_of_pack2 (encoded : isEvent i = false) (iss : issOf i = pack2 f d a b) :
    let r := fun c l => packedCodes f [finalRounding f (c.src l a) 0 c l, finalRounding f (c.src l b) 1 c l]
    LaneDoes i 1 (putD d 2 r) fun c l => (r c l).2 :=
  laneDoes_of_finIss encoded (reads := [a, b]) (by
    simp only [iss, pack2, packed_eq, List.zipIdx_cons, List.zipIdx_nil, List.map_cons, List.map_nil, Nat.zero_add])

theorem laneDoes_of_pack4 (encoded : isEvent i = false) (iss : issOf i = pack4 f d a) :
    let r := fun c l => packedCodes f ((List.range 4).map fun k => finalRounding f (c.src l (a + k)) k c l)
    LaneDoes i 1 (putD d 4 r) fun c l => (r c l).2 := by
  have elements (g : Nat → FVal × Flags5) : (List.range 4).map g = [g 0, g 1, g 2, g 3] := rfl
  refine laneDoes_of_finIss encoded (reads := [a, a + 1, a + 2, a + 3]) ?_
  simp only [iss, pack4, packed_eq, elements, List.zipIdx_cons, List.zipIdx_nil, List.map_cons, List.map_nil, Nat.zero_add, Nat.add_zero, Nat.reduceAdd]

end

/-- Settles O13: each FIN is `finTo` of its format, each PACK `pack2` or `pack4`, and both write through `finIss`. -/
theorem laneFinalRoundings : Obligations.LaneFinalRoundings := by
  unfold Obligations.LaneFinalRoundings
  refine ⟨fun d a p member => ?_, fun d a b p member => ?_, fun d a p member => ?_⟩ <;>
    simp only [List.mem_cons, List.not_mem_nil, or_false] at member
  · obtain rfl | rfl | rfl | rfl | rfl := member <;> exact laneDoes_of_finTo rfl rfl
  · obtain rfl | rfl := member <;> exact laneDoes_of_pack2 rfl rfl
  · obtain rfl | rfl := member <;> exact laneDoes_of_pack4 rfl rfl

/-! ### Clocks, counters and control registers -/

theorem subDoes_of_uIss {i : Instr} {g d : Nat} {reads : List Nat} {v : Ctx → Sub → W64} (encoded : isEvent i = false)
    (iss : issOf i = uIss 0 g d reads v) : SubDoes i 1 (putS d v) :=
  subDoes_of encoded (by rw [iss]; rfl) fun c s => by rw [iss]; rfl

theorem vclk_clock (d g : Nat) : SubDoes (.vclk d g) 1 (putS d fun c _ => BitVec.ofNat 64 c.gang.vtick) := subDoes_of_uIss rfl rfl

theorem pcnt_counter (d n : Nat) : SubDoes (.pcnt d n) 1 (putS d fun c _ => BitVec.ofNat 64 (c.gang.counter n)) := subDoes_of_uIss rfl rfl

theorem csrr_csrValue (d i : Nat) : SubDoes (.csrr d i) 1 (putS d fun c w => csrValue c w i) := subDoes_of_uIss rfl rfl

/-- R70: a value passes exactly where neither of its modes is a reserved code. -/
theorem badMode_eq_false (v : W64) : badMode v = false ↔ v.toNat % 8 < 5 ∧ v.toNat / 16 % 8 < 5 := by
  simp [badMode]

/-- What CSRW checks of a subset before any is written (R70, R399). -/
def csrwBad (a i : Nat) (w : Sub) : Option (Cause × Nat × Nat) := if i == 0 && badMode (w.wv.getS a) then some (.illegalInstruction, 0, 0) else none

theorem csrw_eff (a i : Nat) (c : Ctx) (s : State) : (issOf (.csrw a i)).eff c s = match firstBad c (csrwBad a i) with
    | some t => .trap t
    | none => .done (eachSub c s fun w => csrWrite i (w.wv.getS a) w.wv) := rfl

theorem csrwBad_mode (a : Nat) : csrwBad a 0 = fun w => let v := (w.wv.getS a).toNat
    if v % 8 < 5 ∧ v / 16 % 8 < 5 then none else some (.illegalInstruction, 0, 0) := by
  funext w
  cases e : badMode (w.wv.getS a)
  · simp [csrwBad, e, (badMode_eq_false _).1 e]
  · simp [csrwBad, e, ← badMode_eq_false]

theorem csrwBad_flags {a i : Nat} (flags : i ≠ 0) (w : Sub) : csrwBad a i w = none := by simp [csrwBad, flags]

/-- R68, R70: %mode takes the defined bits of the source, unless some subset's rounding mode is reserved. -/
theorem csrw_mode (a : Nat) : SubChecked (.csrw a 0) 1 (fun _ => csrwBad a 0) fun _ w => { w.wv with mode := w.wv.getS a &&& 0x1F77#64 } :=
  subChecked_of rfl rfl fun c s => csrw_eff a 0 c s

/-- R69: %flags takes the defined bits of any source. -/
theorem csrw_flags {a i : Nat} (flags : i ≠ 0) : SubDoes (.csrw a i) 1 fun _ w => { w.wv with flags := w.wv.getS a &&& 0x1F#64 } :=
  subDoes_of rfl rfl fun c s => by
    rw [csrw_eff, firstBad_none fun w _ => csrwBad_flags flags w]
    simp only [csrWrite, if_neg flags, flagMask]

/-- Settles O38: VCLK, PCNT and CSRR are `uIss` of what they read, and a write is checked in every subset before it is made. -/
theorem clockAndControlRegisterResults : Obligations.ClockAndControlRegisterResults := by
  unfold Obligations.ClockAndControlRegisterResults
  refine ⟨vclk_clock, pcnt_counter, csrr_csrValue, fun a => ?_, fun a i flags => csrw_flags flags⟩
  exact csrwBad_mode a ▸ csrw_mode a

end Sys2Proof.Machine
end

section
/-! Encoding (R72 to R84): what the decoder reads from a word that packs fields, and that the encoder's words decode to their instruction. -/
namespace Sys2Proof

/-! ### Fields of a packed word -/

/-- A field read as two: its low bits and those above them. -/
theorem fld_split (w lo m n : Nat) : fld w lo (m + n) = fld w lo m + 2 ^ m * fld w (lo + m) n := by
  simp only [fld, Nat.pow_add, ← Nat.div_div_eq_div_mul, Nat.mod_mul]

theorem fld_split_eq_zero {w lo m n : Nat} (low : fld w lo m = 0) (high : fld w (lo + m) n = 0) : fld w lo (m + n) = 0 := by
  simp [fld_split, low, high]

/-- A first word whose field bits are clear: it names an assigned operation, and n literal words follow a word of it (R73). -/
structure Opcode (h n : Nat) : Prop where
  low : h % 2097152 = 0
  word : h < 4294967296
  known : assigned (h / 2097152) = true
  lits : ∀ w, litWords (h / 2097152) w = n

/-- The assigned keys as the set bits of a number, which is quicker to look up than the ranges. -/
def assignedMask : Nat := assignedKeys.foldr (fun r m => ((2 ^ (r.2 + 1 - r.1) - 1) <<< r.1) ||| m) 0

theorem testBit_range (lo hi k : Nat) : ((2 ^ (hi + 1 - lo) - 1) <<< lo).testBit k = (decide (lo ≤ k) && decide (k ≤ hi)) := by
  rw [Nat.testBit_shiftLeft, Nat.testBit_two_pow_sub_one, Bool.eq_iff_iff]
  simp only [Bool.and_eq_true, decide_eq_true_eq]
  omega

theorem testBit_assignedMask (k : Nat) : assignedMask.testBit k = assigned k := by
  unfold assignedMask assigned
  induction assignedKeys with
  | nil => exact Nat.zero_testBit k
  | cons r rs ih => rw [List.foldr_cons, Nat.testBit_or, ih, testBit_range, List.any_cons]

/-- `Opcode` as a check that evaluates: no word but HEAT's has literal words by its own bits. -/
def opcodeOk (h n : Nat) : Bool :=
  h % 2097152 == 0 && decide (h < 4294967296) && assignedMask.testBit (h / 2097152) && h / 2097152 != 0x469 && litWords (h / 2097152) 0 == n

theorem opcode_of_ok {h n : Nat} (ok : opcodeOk h n = true) : Opcode h n := by
  simp only [opcodeOk, testBit_assignedMask, Bool.and_eq_true, beq_iff_eq, bne_iff_ne, decide_eq_true_eq] at ok
  obtain ⟨⟨⟨⟨low, word⟩, known⟩, notHeat⟩, lits⟩ := ok
  refine ⟨low, word, known, fun w => ?_⟩
  rw [← lits]
  simp only [litWords, if_neg notHeat]

/-- A first word whose key is assigned and that has all its literal words decodes as its operation reads these. -/
theorem decodeWords_append {w : Nat} {ls rest : List Nat} {i : Instr} (known : assigned (keyOf w) = true) (lits : litWords (keyOf w) w = ls.length)
    (op : decodeOp (keyOf w) w (ls.getD 0 0) (ls.getD 1 0) = .ok i) : decodeWords (w :: ls ++ rest) = .ok (i, rest) := by
  have few : litWords (keyOf w) w ≤ 2 := by
    unfold litWords
    split_ifs <;> omega
  simp only [List.cons_append, decodeWords, known, if_true]
  match ls with
  | [] | [l] | [l, m] => simp_all [Except.map]
  | _ :: _ :: _ :: _ => simp only [List.length_cons] at lits; omega

/-- The key is what stands above the fields. -/
theorem keyOf_add {h f : Nat} (low : h % 2097152 = 0) (word : h < 4294967296) (fields : f < 2097152) : keyOf (h + f) = h / 2097152 := by
  simp only [keyOf, fld]
  omega

theorem decodeWords_fields {h f : Nat} {ls rest : List Nat} {i : Instr} (head : Opcode h ls.length) (fields : f < 2097152)
    (op : decodeOp (h / 2097152) (h + f) (ls.getD 0 0) (ls.getD 1 0) = .ok i) : decodeWords ((h + f) :: ls ++ rest) = .ok (i, rest) := by
  have key := keyOf_add head.low head.word fields
  exact decodeWords_append (key ▸ head.known) (key ▸ head.lits _) (key ▸ op)

/-! ### Packed words: a sum of fields reads back field by field -/

/-- A field of a word: n bits from bit lo, with a value, or none where the bits stay clear. -/
structure Slot where
  lo : Nat
  n : Nat
  val : Option Nat

/-- A field's value moved to its place and added; the encoder writes no factor for bit 0. -/
def Slot.add (w : Nat) : Slot → Nat
  | ⟨_, _, none⟩ => w
  | ⟨0, _, some v⟩ => w + v
  | ⟨lo + 1, _, some v⟩ => w + v * 2 ^ (lo + 1)

/-- The word with these fields, as the encoder adds them up. -/
def pack (h : Nat) (fs : List Slot) : Nat := fs.foldl Slot.add h

/-- Each field stands below the one before it, the first below bit top. -/
def descends : Nat → List Slot → Bool
  | _, [] => true
  | top, ⟨lo, n, _⟩ :: fs => decide (lo + n ≤ top) && descends lo fs

/-- P, and the values of these fields fit. -/
def withinAnd (P : Prop) : List Slot → Prop
  | [] => P
  | ⟨_, n, some v⟩ :: fs => withinAnd (P ∧ v < 2 ^ n) fs
  | ⟨_, _, none⟩ :: fs => withinAnd P fs

/-- The values of these fields fit. -/
def within : List Slot → Prop
  | [] => True
  | ⟨_, n, some v⟩ :: fs => withinAnd (v < 2 ^ n) fs
  | ⟨_, _, none⟩ :: fs => within fs

/-- P holds of a word that has these values in its fields. -/
def readsValues (w : Nat) (P : Prop) : List Slot → Prop
  | [] => P
  | ⟨lo, n, some v⟩ :: fs => fld w lo n = v → readsValues w P fs
  | ⟨_, _, none⟩ :: fs => readsValues w P fs

/-- P holds of a word whose other fields are clear. -/
def readsClear (w : Nat) (P : Prop) : List Slot → Prop
  | [] => P
  | ⟨_, _, some _⟩ :: fs => readsClear w P fs
  | ⟨lo, n, none⟩ :: fs => fld w lo n = 0 → readsClear w P fs

theorem Slot.add_eq (w : Nat) (f : Slot) : f.add w = w + f.val.getD 0 * 2 ^ f.lo := by
  obtain ⟨lo, n, val⟩ := f
  cases val with
  | none => simp [Slot.add]
  | some v => cases lo <;> simp [Slot.add]

theorem withinAnd_spec {fs : List Slot} {P : Prop} (fits : withinAnd P fs) : P ∧ ∀ f ∈ fs, f.val.getD 0 < 2 ^ f.n := by
  induction fs generalizing P with
  | nil => exact ⟨fits, fun f member => by cases member⟩
  | cons f fs ih =>
    obtain ⟨lo, n, val⟩ := f
    cases val with
    | none => exact ⟨(ih fits).1, List.forall_mem_cons.2 ⟨Nat.two_pow_pos n, (ih fits).2⟩⟩
    | some v => exact ⟨(ih fits).1.1, List.forall_mem_cons.2 ⟨(ih fits).1.2, (ih fits).2⟩⟩

theorem within_spec {fs : List Slot} (fits : within fs) : ∀ f ∈ fs, f.val.getD 0 < 2 ^ f.n := by
  induction fs with
  | nil => exact fun f member => by cases member
  | cons f fs ih =>
    obtain ⟨lo, n, val⟩ := f
    cases val with
    | none => exact List.forall_mem_cons.2 ⟨Nat.two_pow_pos n, ih fits⟩
    | some v => exact List.forall_mem_cons.2 (withinAnd_spec fits)

theorem readsValues_spec {w : Nat} {P : Prop} {fs : List Slot} (values : ∀ f ∈ fs, fld w f.lo f.n = f.val.getD 0) (reads : readsValues w P fs) : P := by
  induction fs with
  | nil => exact reads
  | cons f fs ih =>
    obtain ⟨lo, n, val⟩ := f
    have later := fun g (member : g ∈ fs) => values g (List.mem_cons_of_mem _ member)
    cases val with
    | none => exact ih later reads
    | some v => exact ih later (reads (values _ List.mem_cons_self))

theorem readsClear_spec {w : Nat} {P : Prop} {fs : List Slot} (values : ∀ f ∈ fs, fld w f.lo f.n = f.val.getD 0) (reads : readsClear w P fs) : P := by
  induction fs with
  | nil => exact reads
  | cons f fs ih =>
    obtain ⟨lo, n, val⟩ := f
    have later := fun g (member : g ∈ fs) => values g (List.mem_cons_of_mem _ member)
    cases val with
    | none => exact ih later (reads (values _ List.mem_cons_self))
    | some v => exact ih later reads

/-- A field read above clear bits and below others. -/
theorem fld_add {h v r lo n : Nat} (clear : h % 2 ^ (lo + n) = 0) (value : v < 2 ^ n) (low : r < 2 ^ lo) : fld (h + v * 2 ^ lo + r) lo n = v := by
  obtain ⟨q, rfl⟩ := Nat.dvd_of_mod_eq_zero clear
  have parts : 2 ^ (lo + n) * q + v * 2 ^ lo + r = r + 2 ^ lo * (2 ^ n * q + v) := by rw [Nat.pow_add]; ring
  rw [fld, parts, Nat.add_mul_div_left _ _ (Nat.two_pow_pos lo), Nat.div_eq_of_lt low, Nat.zero_add, Nat.mul_add_mod, Nat.mod_eq_of_lt value]

/-- What packing adds stays below bit top, and each field reads its value. -/
theorem pack_spec {fs : List Slot} {top h : Nat} (clear : h % 2 ^ top = 0) (order : descends top fs = true)
    (fits : ∀ f ∈ fs, f.val.getD 0 < 2 ^ f.n) :
    ∃ r, pack h fs = h + r ∧ r < 2 ^ top ∧ ∀ f ∈ fs, fld (pack h fs) f.lo f.n = f.val.getD 0 := by
  induction fs generalizing top h with
  | nil => exact ⟨0, rfl, Nat.two_pow_pos top, fun f member => by cases member⟩
  | cons f fs ih =>
    simp only [descends, Bool.and_eq_true, decide_eq_true_eq] at order
    obtain ⟨below, order⟩ := order
    have value := fits f List.mem_cons_self
    have clearField : h % 2 ^ (f.lo + f.n) = 0 := Nat.mod_eq_zero_of_dvd
      ((Nat.pow_dvd_pow 2 below).trans (Nat.dvd_of_mod_eq_zero clear))
    have clearNext : (f.add h) % 2 ^ f.lo = 0 := by
      rw [Slot.add_eq, Nat.add_mul_mod_self_right]
      exact Nat.mod_eq_zero_of_dvd ((Nat.pow_dvd_pow 2 (by omega)).trans (Nat.dvd_of_mod_eq_zero clear))
    obtain ⟨r, sum, low, reads⟩ := ih clearNext order fun g member => fits g (List.mem_cons_of_mem _ member)
    have whole : pack h (f :: fs) = h + f.val.getD 0 * 2 ^ f.lo + r := by rw [← Slot.add_eq, ← sum]; rfl
    refine ⟨f.val.getD 0 * 2 ^ f.lo + r, by rw [whole, Nat.add_assoc], ?_, List.forall_mem_cons.2 ⟨?_, reads⟩⟩
    · calc f.val.getD 0 * 2 ^ f.lo + r < (f.val.getD 0 + 1) * 2 ^ f.lo := by rw [Nat.add_mul, Nat.one_mul]; omega
        _ ≤ 2 ^ f.n * 2 ^ f.lo := Nat.mul_le_mul_right _ value
        _ = 2 ^ (f.lo + f.n) := by rw [Nat.add_comm, Nat.pow_add]
        _ ≤ 2 ^ top := Nat.pow_le_pow_right (by decide) below
    · rw [whole]
      exact fld_add clearField value low

/-- A packed word decodes as its operation reads its fields. -/
theorem decodeWords_pack {h : Nat} {ls rest : List Nat} {i : Instr} (fs : List Slot) (head : opcodeOk h ls.length = true)
    (order : descends 21 fs = true) (fits : within fs)
    (op : ∀ w, readsValues w (readsClear w (decodeOp (h / 2097152) w (ls.getD 0 0) (ls.getD 1 0) = .ok i) fs) fs) :
    decodeWords (pack h fs :: ls ++ rest) = .ok (i, rest) := by
  have opcode := opcode_of_ok head
  obtain ⟨r, sum, low, reads⟩ := pack_spec opcode.low order (within_spec fits)
  have decoded := readsClear_spec reads (readsValues_spec reads (op _))
  rw [sum] at decoded ⊢
  exact decodeWords_fields opcode low decoded

/-! ### The formats (R75): a word of each decodes as its operation reads its fields -/

section
variable {h : Nat} {ls rest : List Nat} {i : Instr}

/-- Three lane registers, or an immediate in the place of one. -/
theorem decodeWords_lane {d a b : Nat} (head : opcodeOk h ls.length = true)
    (fits : (d < 128 ∧ a < 128) ∧ b < 128)
    (op : ∀ w, fld w 14 7 = d → fld w 7 7 = a → fld w 0 7 = b → decodeOp (h / 2097152) w (ls.getD 0 0) (ls.getD 1 0) = .ok i) :
    decodeWords ((h + d * 16384 + a * 128 + b) :: ls ++ rest) = .ok (i, rest) :=
  decodeWords_pack [⟨14, 7, some d⟩, ⟨7, 7, some a⟩, ⟨0, 7, some b⟩] head rfl fits op

/-- A lane predicate, a condition and two lane registers. -/
theorem decodeWords_compare {p c a b : Nat} (head : opcodeOk h ls.length = true)
    (fits : ((p < 8 ∧ c < 16) ∧ a < 128) ∧ b < 128)
    (op : ∀ w, fld w 18 3 = p → fld w 14 4 = c → fld w 7 7 = a → fld w 0 7 = b → decodeOp (h / 2097152) w (ls.getD 0 0) (ls.getD 1 0) = .ok i) :
    decodeWords ((h + p * 262144 + c * 16384 + a * 128 + b) :: ls ++ rest) = .ok (i, rest) :=
  decodeWords_pack [⟨18, 3, some p⟩, ⟨14, 4, some c⟩, ⟨7, 7, some a⟩, ⟨0, 7, some b⟩] head rfl fits op

/-- A lane access: registers, capability and lookahead. -/
theorem decodeWords_access {t x s l : Nat} (head : opcodeOk h ls.length = true)
    (fits : ((t < 128 ∧ x < 128) ∧ s < 8) ∧ l < 16)
    (op : ∀ w, fld w 14 7 = t → fld w 7 7 = x → fld w 4 3 = s → fld w 0 4 = l → decodeOp (h / 2097152) w (ls.getD 0 0) (ls.getD 1 0) = .ok i) :
    decodeWords ((h + t * 16384 + x * 128 + s * 16 + l) :: ls ++ rest) = .ok (i, rest) :=
  decodeWords_pack [⟨14, 7, some t⟩, ⟨7, 7, some x⟩, ⟨4, 3, some s⟩, ⟨0, 4, some l⟩] head rfl fits op

/-- Three uniform registers under a guard. -/
theorem decodeWords_uniform {d a b g : Nat} (head : opcodeOk h ls.length = true)
    (fits : ((d < 64 ∧ a < 64) ∧ b < 64) ∧ g < 8)
    (op : ∀ w, fld w 15 6 = d → fld w 9 6 = a → fld w 3 6 = b → fld w 0 3 = g → decodeOp (h / 2097152) w (ls.getD 0 0) (ls.getD 1 0) = .ok i) :
    decodeWords ((h + d * 32768 + a * 512 + b * 8 + g) :: ls ++ rest) = .ok (i, rest) :=
  decodeWords_pack [⟨15, 6, some d⟩, ⟨9, 6, some a⟩, ⟨3, 6, some b⟩, ⟨0, 3, some g⟩] head rfl fits op

/-- A uniform predicate, a condition and two uniform registers under a guard. -/
theorem decodeWords_uniformCompare {q c a b g : Nat} (head : opcodeOk h ls.length = true)
    (fits : (((q < 8 ∧ c < 8) ∧ a < 64) ∧ b < 64) ∧ g < 8)
    (op : ∀ w, fld w 18 3 = q → fld w 15 3 = c → fld w 9 6 = a → fld w 3 6 = b → fld w 0 3 = g →
      decodeOp (h / 2097152) w (ls.getD 0 0) (ls.getD 1 0) = .ok i) :
    decodeWords ((h + q * 262144 + c * 32768 + a * 512 + b * 8 + g) :: ls ++ rest) = .ok (i, rest) :=
  decodeWords_pack [⟨18, 3, some q⟩, ⟨15, 3, some c⟩, ⟨9, 6, some a⟩, ⟨3, 6, some b⟩, ⟨0, 3, some g⟩] head rfl fits op

/-- Two uniform registers and an immediate. -/
theorem decodeWords_immediate {d a n : Nat} (head : opcodeOk h ls.length = true)
    (fits : (d < 64 ∧ a < 64) ∧ n < 512)
    (op : ∀ w, fld w 15 6 = d → fld w 9 6 = a → fld w 0 9 = n → decodeOp (h / 2097152) w (ls.getD 0 0) (ls.getD 1 0) = .ok i) :
    decodeWords ((h + d * 32768 + a * 512 + n) :: ls ++ rest) = .ok (i, rest) :=
  decodeWords_pack [⟨15, 6, some d⟩, ⟨9, 6, some a⟩, ⟨0, 9, some n⟩] head rfl fits op

/-- A uniform access: registers, capability and lookahead. -/
theorem decodeWords_uniformAccess {d c b l : Nat} (head : opcodeOk h ls.length = true)
    (fits : ((d < 64 ∧ c < 32) ∧ b < 64) ∧ l < 16)
    (op : ∀ w, fld w 15 6 = d → fld w 10 5 = c → fld w 4 6 = b → fld w 0 4 = l → decodeOp (h / 2097152) w (ls.getD 0 0) (ls.getD 1 0) = .ok i) :
    decodeWords ((h + d * 32768 + c * 1024 + b * 16 + l) :: ls ++ rest) = .ok (i, rest) :=
  decodeWords_pack [⟨15, 6, some d⟩, ⟨10, 5, some c⟩, ⟨4, 6, some b⟩, ⟨0, 4, some l⟩] head rfl fits op

/-- A predicate and an offset. -/
theorem decodeWords_branch {k o : Nat} (head : opcodeOk h ls.length = true)
    (fits : k < 8 ∧ o < 262144)
    (op : ∀ w, fld w 18 3 = k → fld w 0 18 = o → decodeOp (h / 2097152) w (ls.getD 0 0) (ls.getD 1 0) = .ok i) :
    decodeWords ((h + k * 262144 + o) :: ls ++ rest) = .ok (i, rest) :=
  decodeWords_pack [⟨18, 3, some k⟩, ⟨0, 18, some o⟩] head rfl fits op

/-- A lane register. -/
theorem decodeWords_laneOne {d : Nat} (head : opcodeOk h ls.length = true)
    (fits : d < 128)
    (op : ∀ w, fld w 14 7 = d → fld w 0 14 = 0 → decodeOp (h / 2097152) w (ls.getD 0 0) (ls.getD 1 0) = .ok i) :
    decodeWords ((h + d * 16384) :: ls ++ rest) = .ok (i, rest) := by
  have word : h + d * 16384 + 0 * 128 + 0 = h + d * 16384 := by omega
  have packed := decodeWords_lane (rest := rest) (a := 0) (b := 0) head ⟨⟨fits, by decide⟩, by decide⟩ fun w hd ha hb =>
    op w hd (fld_split_eq_zero hb ha)
  rwa [word] at packed

/-- A lane predicate and a lane register. -/
theorem decodeWords_predicateOfLane {p a : Nat} (head : opcodeOk h ls.length = true)
    (fits : p < 8 ∧ a < 128)
    (op : ∀ w, fld w 18 3 = p → fld w 7 7 = a → fld w 14 4 = 0 → fld w 0 7 = 0 → decodeOp (h / 2097152) w (ls.getD 0 0) (ls.getD 1 0) = .ok i) :
    decodeWords ((h + p * 262144 + a * 128) :: ls ++ rest) = .ok (i, rest) :=
  decodeWords_pack [⟨18, 3, some p⟩, ⟨14, 4, none⟩, ⟨7, 7, some a⟩, ⟨0, 7, none⟩] head rfl fits op

/-- A lane register and an immediate. -/
theorem decodeWords_laneImmediate {d n : Nat} (head : opcodeOk h ls.length = true)
    (fits : d < 128 ∧ n < 128)
    (op : ∀ w, fld w 14 7 = d → fld w 0 7 = n → fld w 7 7 = 0 → decodeOp (h / 2097152) w (ls.getD 0 0) (ls.getD 1 0) = .ok i) :
    decodeWords ((h + d * 16384 + n) :: ls ++ rest) = .ok (i, rest) :=
  decodeWords_pack [⟨14, 7, some d⟩, ⟨7, 7, none⟩, ⟨0, 7, some n⟩] head rfl fits op

/-- A lane access without a capability. -/
theorem decodeWords_tagAccess {t x l : Nat} (head : opcodeOk h ls.length = true)
    (fits : (t < 128 ∧ x < 128) ∧ l < 16)
    (op : ∀ w, fld w 14 7 = t → fld w 7 7 = x → fld w 0 4 = l → fld w 4 3 = 0 → decodeOp (h / 2097152) w (ls.getD 0 0) (ls.getD 1 0) = .ok i) :
    decodeWords ((h + t * 16384 + x * 128 + l) :: ls ++ rest) = .ok (i, rest) :=
  decodeWords_pack [⟨14, 7, some t⟩, ⟨7, 7, some x⟩, ⟨4, 3, none⟩, ⟨0, 4, some l⟩] head rfl fits op

/-- Two uniform registers under a guard. -/
theorem decodeWords_uniformPair {d a g : Nat} (head : opcodeOk h ls.length = true)
    (fits : (d < 64 ∧ a < 64) ∧ g < 8)
    (op : ∀ w, fld w 15 6 = d → fld w 9 6 = a → fld w 0 3 = g → fld w 3 6 = 0 → decodeOp (h / 2097152) w (ls.getD 0 0) (ls.getD 1 0) = .ok i) :
    decodeWords ((h + d * 32768 + a * 512 + g) :: ls ++ rest) = .ok (i, rest) :=
  decodeWords_pack [⟨15, 6, some d⟩, ⟨9, 6, some a⟩, ⟨3, 6, none⟩, ⟨0, 3, some g⟩] head rfl fits op

/-- A uniform register and a selector under a guard. -/
theorem decodeWords_uniformSelect {d b g : Nat} (head : opcodeOk h ls.length = true)
    (fits : (d < 64 ∧ b < 64) ∧ g < 8)
    (op : ∀ w, fld w 15 6 = d → fld w 3 6 = b → fld w 0 3 = g → fld w 9 6 = 0 → decodeOp (h / 2097152) w (ls.getD 0 0) (ls.getD 1 0) = .ok i) :
    decodeWords ((h + d * 32768 + b * 8 + g) :: ls ++ rest) = .ok (i, rest) :=
  decodeWords_pack [⟨15, 6, some d⟩, ⟨9, 6, none⟩, ⟨3, 6, some b⟩, ⟨0, 3, some g⟩] head rfl fits op

/-- A uniform register under a guard. -/
theorem decodeWords_uniformOne {d g : Nat} (head : opcodeOk h ls.length = true)
    (fits : d < 64 ∧ g < 8)
    (op : ∀ w, fld w 15 6 = d → fld w 0 3 = g → fld w 3 12 = 0 → decodeOp (h / 2097152) w (ls.getD 0 0) (ls.getD 1 0) = .ok i) :
    decodeWords ((h + d * 32768 + g) :: ls ++ rest) = .ok (i, rest) :=
  decodeWords_pack [⟨15, 6, some d⟩, ⟨3, 12, none⟩, ⟨0, 3, some g⟩] head rfl fits op

/-- A uniform register and an immediate. -/
theorem decodeWords_immediateOne {d n : Nat} (head : opcodeOk h ls.length = true)
    (fits : d < 64 ∧ n < 512)
    (op : ∀ w, fld w 15 6 = d → fld w 0 9 = n → fld w 9 6 = 0 → decodeOp (h / 2097152) w (ls.getD 0 0) (ls.getD 1 0) = .ok i) :
    decodeWords ((h + d * 32768 + n) :: ls ++ rest) = .ok (i, rest) :=
  decodeWords_pack [⟨15, 6, some d⟩, ⟨9, 6, none⟩, ⟨0, 9, some n⟩] head rfl fits op

/-- A uniform register. -/
theorem decodeWords_register {d : Nat} (head : opcodeOk h ls.length = true)
    (fits : d < 64)
    (op : ∀ w, fld w 15 6 = d → fld w 0 15 = 0 → decodeOp (h / 2097152) w (ls.getD 0 0) (ls.getD 1 0) = .ok i) :
    decodeWords ((h + d * 32768) :: ls ++ rest) = .ok (i, rest) := by
  have word : h + d * 32768 + 0 * 512 + 0 = h + d * 32768 := by omega
  have packed := decodeWords_immediate (rest := rest) (a := 0) (n := 0) head ⟨⟨fits, by decide⟩, by decide⟩ fun w hd ha hn =>
    op w hd (fld_split_eq_zero hn ha)
  rwa [word] at packed

/-- A register and a lookahead. -/
theorem decodeWords_command {a l : Nat} (head : opcodeOk h ls.length = true)
    (fits : a < 64 ∧ l < 16)
    (op : ∀ w, fld w 15 6 = a → fld w 0 4 = l → fld w 4 11 = 0 → decodeOp (h / 2097152) w (ls.getD 0 0) (ls.getD 1 0) = .ok i) :
    decodeWords ((h + a * 32768 + l) :: ls ++ rest) = .ok (i, rest) :=
  decodeWords_pack [⟨15, 6, some a⟩, ⟨4, 11, none⟩, ⟨0, 4, some l⟩] head rfl fits op

/-- A register and an index. -/
theorem decodeWords_indexed {a n : Nat} (head : opcodeOk h ls.length = true)
    (fits : a < 64 ∧ n < 32)
    (op : ∀ w, fld w 15 6 = a → fld w 4 5 = n → fld w 9 6 = 0 → fld w 0 4 = 0 → decodeOp (h / 2097152) w (ls.getD 0 0) (ls.getD 1 0) = .ok i) :
    decodeWords ((h + a * 32768 + n * 16) :: ls ++ rest) = .ok (i, rest) :=
  decodeWords_pack [⟨15, 6, some a⟩, ⟨9, 6, none⟩, ⟨4, 5, some n⟩, ⟨0, 4, none⟩] head rfl fits op

/-- A mask of eight bits. -/
theorem decodeWords_mask {m : Nat} (head : opcodeOk h ls.length = true)
    (fits : m < 256)
    (op : ∀ w, fld w 0 8 = m → fld w 8 13 = 0 → decodeOp (h / 2097152) w (ls.getD 0 0) (ls.getD 1 0) = .ok i) :
    decodeWords ((h + m) :: ls ++ rest) = .ok (i, rest) :=
  decodeWords_pack [⟨8, 13, none⟩, ⟨0, 8, some m⟩] head rfl fits op

/-- A timer, a register and two bits. -/
theorem decodeWords_timer {a b p s : Nat} (head : opcodeOk h ls.length = true)
    (fits : ((a < 64 ∧ b < 64) ∧ p < 2) ∧ s < 2)
    (op : ∀ w, fld w 15 6 = a → fld w 9 6 = b → fld w 5 1 = p → fld w 4 1 = s → fld w 6 3 = 0 → fld w 0 4 = 0 →
      decodeOp (h / 2097152) w (ls.getD 0 0) (ls.getD 1 0) = .ok i) :
    decodeWords ((h + a * 32768 + b * 512 + p * 32 + s * 16) :: ls ++ rest) = .ok (i, rest) :=
  decodeWords_pack [⟨15, 6, some a⟩, ⟨9, 6, some b⟩, ⟨6, 3, none⟩, ⟨5, 1, some p⟩, ⟨4, 1, some s⟩, ⟨0, 4, none⟩] head rfl fits op

/-- Two registers, an index and a lookahead. -/
theorem decodeWords_engine {a b n l : Nat} (head : opcodeOk h ls.length = true)
    (fits : ((a < 64 ∧ b < 64) ∧ n < 32) ∧ l < 16)
    (op : ∀ w, fld w 15 6 = a → fld w 9 6 = b → fld w 4 5 = n → fld w 0 4 = l → decodeOp (h / 2097152) w (ls.getD 0 0) (ls.getD 1 0) = .ok i) :
    decodeWords ((h + a * 32768 + b * 512 + n * 16 + l) :: ls ++ rest) = .ok (i, rest) :=
  decodeWords_pack [⟨15, 6, some a⟩, ⟨9, 6, some b⟩, ⟨4, 5, some n⟩, ⟨0, 4, some l⟩] head rfl fits op

end

/-! ### Bounds of operands -/

theorem and_map {p q : Bool} {P Q : Prop} (both : (p && q) = true) (hp : p = true → P) (hq : q = true → Q) : P ∧ Q :=
  ⟨hp (Bool.and_elim_left both), hq (Bool.and_elim_right both)⟩

section
variable {p q r s t : Bool} {P Q R S T : Prop}

theorem and_map_three (all : (p && q && r) = true) (hp : p = true → P) (hq : q = true → Q) (hr : r = true → R) : (P ∧ Q) ∧ R :=
  and_map all (fun both => and_map both hp hq) hr

theorem and_map_four (all : (p && q && r && s) = true) (hp : p = true → P) (hq : q = true → Q) (hr : r = true → R) (hs : s = true → S) :
    ((P ∧ Q) ∧ R) ∧ S :=
  and_map all (fun three => and_map_three three hp hq hr) hs

theorem and_map_five (all : (p && q && r && s && t) = true) (hp : p = true → P) (hq : q = true → Q) (hr : r = true → R) (hs : s = true → S)
    (ht : t = true → T) : (((P ∧ Q) ∧ R) ∧ S) ∧ T :=
  and_map all (fun four => and_map_four four hp hq hr hs) ht

end

/-- A field has room for values below m. -/
theorem below {x m k : Nat} (room : Nat.ble m k = true) (ok : decide (x < m) = true) : x < k :=
  Nat.lt_of_lt_of_le (of_decide_eq_true ok) (Nat.le_of_ble_eq_true room)

theorem vOk_lt {regs x : Nat} {heat : Bool} (ok : vOk regs heat x = true) : x < 128 := of_decide_eq_true (Bool.and_elim_left ok)

theorem vSpan_lt {regs x : Nat} {heat : Bool} : ∀ {k : Nat}, vSpan regs heat x k = true → x < 128
  | 0, ok => vOk_lt ok
  | _ + 1, ok => vSpan_lt (Bool.and_elim_left (b := vOk regs heat (x + _ + 1)) ok)

theorem cDst_lt {x : Nat} (ok : cDst x = true) : x < 64 := below rfl (Bool.and_elim_right ok)

theorem tOk_lt {x : Nat} (ok : tOk x = true) : x < 64 := below rfl (Bool.and_elim_left ok)

theorem blockReg_lt {x : Nat} (ok : blockReg x = true) : x < 64 :=
  Nat.lt_of_le_of_lt (of_decide_eq_true (Bool.and_elim_right (Bool.and_elim_left ok))) (by decide)

theorem quadReg_lt {x : Nat} (ok : quadReg x = true) : x < 64 :=
  Nat.lt_of_le_of_lt (of_decide_eq_true (Bool.and_elim_right (Bool.and_elim_left ok))) (by decide)

/-- The order field of an atomic (R262) is part of its key. -/
theorem order_cases {r : Nat} {b c d e : Bool} (wf : (decide (r < 4) && b && c && d && e) = true) : r = 0 ∨ r = 1 ∨ r = 2 ∨ r = 3 := by
  have order := of_decide_eq_true (Bool.and_elim_left (Bool.and_elim_left (Bool.and_elim_left (Bool.and_elim_left wf))))
  omega

/-- So is VSEL's predicate (R180). -/
theorem predicate_cases {k : Nat} {b c d : Bool} (wf : (decide (k < 8) && b && c && d) = true) :
    k = 0 ∨ k = 1 ∨ k = 2 ∨ k = 3 ∨ k = 4 ∨ k = 5 ∨ k = 6 ∨ k = 7 := by
  have predicate := of_decide_eq_true (Bool.and_elim_left (Bool.and_elim_left (Bool.and_elim_left wf)))
  omega

/-! ### The shapes of most instructions -/

section
variable {h regs : Nat} {heat : Bool} {ls rest : List Nat}

/-- Three lane registers; the first has its own condition. -/
theorem decodeWords_lanes {mk : Nat → Nat → Nat → Instr} {d a b : Nat} {first : Bool} (register : first = true → d < 128)
    (head : opcodeOk h ls.length = true)
    (op : ∀ w, decodeOp (h / 2097152) w (ls.getD 0 0) (ls.getD 1 0) = .ok (mk (fld w 14 7) (fld w 7 7) (fld w 0 7)))
    (wf : (first && vOk regs heat a && vOk regs heat b) = true) :
    decodeWords ((h + d * 16384 + a * 128 + b) :: ls ++ rest) = .ok (mk d a b, rest) :=
  decodeWords_lane head (and_map_three wf register vOk_lt vOk_lt) (by rintro w rfl rfl rfl; exact op w)

/-- Two lane registers; the third field is 0. -/
theorem decodeWords_lanePair {mk : Nat → Nat → Instr} {d a : Nat} (head : opcodeOk h ls.length = true)
    (op : ∀ w, fld w 0 7 = 0 → decodeOp (h / 2097152) w (ls.getD 0 0) (ls.getD 1 0) = .ok (mk (fld w 14 7) (fld w 7 7)))
    (wf : (vOk regs heat d && vOk regs heat a) = true) : decodeWords ((h + d * 16384 + a * 128) :: ls ++ rest) = .ok (mk d a, rest) :=
  decodeWords_lane (b := 0) head ⟨and_map wf vOk_lt vOk_lt, by decide⟩ (by rintro w rfl rfl z; exact op w z)

/-- A lane access; its register or span of registers is checked by t's condition. -/
theorem decodeWords_laneAccess {mk : Nat → Nat → Nat → Nat → Instr} {t x s l : Nat} {span : Bool} (register : span = true → t < 128)
    (head : opcodeOk h ls.length = true)
    (op : ∀ w, decodeOp (h / 2097152) w (ls.getD 0 0) (ls.getD 1 0) = .ok (mk (fld w 14 7) (fld w 7 7) (fld w 4 3) (fld w 0 4)))
    (wf : (span && vOk regs heat x && decide (s < 8) && decide (l < 16)) = true) :
    decodeWords ((h + t * 16384 + x * 128 + s * 16 + l) :: ls ++ rest) = .ok (mk t x s l, rest) :=
  decodeWords_access head
    (and_map_four wf register vOk_lt of_decide_eq_true of_decide_eq_true)
    (by rintro w rfl rfl rfl rfl; exact op w)

/-- A lane access with a displacement in a literal word. -/
theorem decodeWords_laneAccessTwin {mk : Nat → Nat → Nat → Nat → Nat → Instr} {t x s l v : Nat} {span : Bool}
    (register : span = true → t < 128) (head : opcodeOk h 1 = true)
    (op : ∀ w, decodeOp (h / 2097152) w v 0 = .ok (mk (fld w 14 7) (fld w 7 7) (fld w 4 3) (fld w 0 4) v))
    (wf : (span && vOk regs heat x && decide (s < 8) && decide (l < 16) && decide (v < 4294967296)) = true) :
    decodeWords ((h + t * 16384 + x * 128 + s * 16 + l) :: [v] ++ rest) = .ok (mk t x s l v, rest) :=
  decodeWords_laneAccess (mk := fun t x s l => mk t x s l v) register head op (Bool.and_elim_left wf)

/-- Three uniform registers under a guard. -/
theorem decodeWords_uniforms {mk : Nat → Nat → Nat → Nat → Instr} {d a b g : Nat} (head : opcodeOk h ls.length = true)
    (op : ∀ w, decodeOp (h / 2097152) w (ls.getD 0 0) (ls.getD 1 0) = .ok (mk (fld w 15 6) (fld w 9 6) (fld w 3 6) (fld w 0 3)))
    (wf : (decide (d < 64) && decide (a < 64) && decide (b < 64) && decide (g < 8)) = true) :
    decodeWords ((h + d * 32768 + a * 512 + b * 8 + g) :: ls ++ rest) = .ok (mk d a b g, rest) :=
  decodeWords_uniform head
    (and_map_four wf of_decide_eq_true of_decide_eq_true of_decide_eq_true of_decide_eq_true)
    (by rintro w rfl rfl rfl rfl; exact op w)

end

/-! ### HEAT, FENCE and SYSC -/

/-- A HEAT's word with its masks, in one literal word or two by the number of its instructions (R81). -/
theorem decodeWords_heatWords {w k n m : Nat} {rest : List Nat} (key : keyOf w = 0x469) (zero : fld w 0 13 = 0) (path : fld w 18 3 = k)
    (count : fld w 13 5 = n - 1) (nonempty : 1 ≤ n) : decodeWords (heatWords w n m ++ rest) = .ok (.heat k n m, rest) := by
  have known : assigned (keyOf w) = true := key ▸ rfl
  have lits : litWords (keyOf w) w = if fld w 13 5 < 16 then 1 else 2 := key ▸ rfl
  have op (l1 l2 : Nat) (masks : heatMasks w l1 l2 = m) : decodeOp (keyOf w) w l1 l2 = .ok (.heat k n m) := by
    have reads : decodeOp 0x469 w l1 l2 = zeroThen (fld w 0 13) (.heat (fld w 18 3) (fld w 13 5 + 1) (heatMasks w l1 l2)) := rfl
    rw [key, reads, masks, path, count, Nat.sub_add_cancel nonempty]
    exact if_pos zero
  unfold heatWords
  split
  · have short : fld w 13 5 < 16 := by omega
    exact decodeWords_append known (lits.trans (if_pos short)) (op m 0 (if_pos short))
  · have long : ¬fld w 13 5 < 16 := by omega
    exact decodeWords_append known (lits.trans (if_neg long)) (op _ _ ((if_neg long).trans (Nat.mod_add_div' m 4294967296)))

theorem decodeWords_heat {k n m : Nat} {rest : List Nat} (predicate : k < 8) (nonempty : 1 ≤ n) (few : n ≤ 32) :
    decodeWords (encode (.heat k n m) ++ rest) = .ok (.heat k n m, rest) := by
  refine decodeWords_heatWords ?_ ?_ ?_ ?_ nonempty
  · rw [Nat.add_assoc]; exact keyOf_add rfl (by decide) (by omega)
  all_goals simp only [fld]; omega

theorem decodeFence_acquire {w : Nat} (zero : fld w 15 6 = 0) (kind : fld w 9 6 = 1) : decodeFence w = .ok (.fenceAcq (fld w 0 9)) := by
  simp [decodeFence, zero, kind]

theorem decodeFence_release {w : Nat} (zero : fld w 15 6 = 0) (kind : fld w 9 6 = 2) : decodeFence w = .ok (.fenceRel (fld w 0 9)) := by
  simp [decodeFence, zero, kind]

theorem decodeFence_full {w : Nat} (zero : fld w 15 6 = 0) (kind : fld w 9 6 = 3) : decodeFence w = .ok (.fenceFull (fld w 0 9)) := by
  simp [decodeFence, zero, kind]

theorem decodeSysc_reserved {w : Nat} (low : 4 ≤ fld w 0 9) (high : fld w 0 9 < 16) :
    decodeSysc w = .ok (.syscReserved (fld w 15 6) (fld w 9 6) (fld w 0 9)) := by
  simp only [decodeSysc]
  rw [if_neg (by omega), if_neg (by omega), if_neg (by omega), if_neg (by omega), if_pos high]

theorem decodeSysc_runtime {w : Nat} (low : 18 ≤ fld w 0 9) (high : fld w 0 9 < 256) :
    decodeSysc w = .ok (.syscRuntimeService (fld w 15 6) (fld w 9 6) (fld w 0 9)) := by
  simp only [decodeSysc]
  rw [if_neg (by omega), if_neg (by omega), if_neg (by omega), if_neg (by omega), if_neg (by omega), if_neg (by omega), if_neg (by omega),
    if_pos high]

/-- A service call of a fixed code, which stands in the word's low bits (R401). -/
theorem decodeWords_service {call : Nat → Nat → Instr} {d a : Nat} {rest : List Nat} (c : Nat) (wf : (decide (d < 64) && quadReg a) = true)
    (code : c < 512) (op : ∀ w, fld w 0 9 = c → decodeSysc w = .ok (call (fld w 15 6) (fld w 9 6))) :
    decodeWords ((0x9d200000 + c + d * 32768 + a * 512) :: [] ++ rest) = .ok (call d a, rest) := by
  have sum : 0x9d200000 + c + d * 32768 + a * 512 = 0x9d200000 + d * 32768 + a * 512 + c := by omega
  rw [sum]
  exact decodeWords_immediate rfl ⟨and_map wf of_decide_eq_true quadReg_lt, code⟩ (by rintro w rfl rfl z; exact op w z)

/-! ### Every instruction -/

/-- The encoder packs the operands where the decoder reads them: format by format, then what needs more than its fields.
Each case is a lemma of its own, so that the kernel checks one case at a time. -/
theorem decodeWords_encode {i : Instr} {regs : Nat} {heat : Bool} {rest : List Nat} (encoded : Machine.isEvent i = false)
    (wf : i.wellFormed regs heat = true) : decodeWords (encode i ++ rest) = .ok (i, rest) := by
  cases i with
  | vadd d a b | vsub d a b | vmul d a b | vmulhI32 d a b | vmulhN32 d a b | vmad d a b | vaddsI32 d a b | vsubsI32 d a b | vaddsN32 d a b
  | vsubsN32 d a b | vand d a b | vor d a b | vxor d a b | vandn d a b | vshl d a b | vshrN32 d a b | vshrI32 d a b | vminI32 d a b | vminN32 d a b
  | vmaxI32 d a b | vmaxN32 d a b | vbfx d a b | vbfi d a b | vdot4I8 d a b | vdot4N8 d a b | fadd d a b | fsub d a b | fmul d a b | fma d a b
  | fnma d a b | fmin d a b | fmax d a b | fcopysign d a b | fdot2Bf16 d a b | fdot4E4m3 d a b | fdot4E5m2 d a b | fdot8E2m1 d a b | fdiv d a b
  | pack2Bf16 d a b | pack2F16 d a b | vshfl d a b | vshflx d a b | vshfll d a b => as_aux_lemma =>
    exact decodeWords_lanes vOk_lt rfl (fun _ => rfl) wf
  | vabsI32 d a | vpopc d a | vclz d a | vmov d a | fabs d a | fneg d a | frcpa d a | frsqa d a | fexp2a d a | flog2a d a | fsqrt d a | nrwBf16 d a
  | nrwF16 d a | nrwE4m3 d a | nrwE5m2 d a | nrwE2m1 d a | finBf16 d a | finF16 d a | finE4m3 d a | finE5m2 d a | finE2m1 d a | vscanI32 d a
  | vscanF32 d a | vredI32 d a | vredF32 d a | vredmax d a | vredmin d a => as_aux_lemma =>
    exact decodeWords_lanePair rfl (fun _ z => if_pos z) wf
  | ldN8 t x s l | ldI8 t x s l | ldN16 t x s l | ldI16 t x s l | ldB32 t x s l | stB8 t x s l | stB16 t x s l | stB32 t x s l | ldBf16 t x s l
  | ldF16 t x s l | ldE4m3 t x s l | ldE5m2 t x s l | stBf16 t x s l | stF16 t x s l | stE4m3 t x s l | stE5m2 t x s l | vspill t x s l
  | vfill t x s l | ldgB32 t x s l | stgB32 t x s l | ldgmB32 t x s l | stgmB32 t x s l | aaddF32O t x s l | ldl t x s l | stul t x s l
  | gaddI32 t x s l | gaddF32 t x s l | gmaxI32 t x s l | gxchg t x s l => as_aux_lemma =>
    exact decodeWords_laneAccess vOk_lt rfl (fun _ => rfl) wf
  | ldB64 t x s l | ldB128 t x s l | stB64 t x s l | stB128 t x s l | ldgB64 t x s l | ldgB128 t x s l | stgB64 t x s l | stgB128 t x s l
  | gcas t x s l => as_aux_lemma =>
    exact decodeWords_laneAccess vSpan_lt rfl (fun _ => rfl) wf
  | ldN8Twin t x s l w | ldI8Twin t x s l w | ldN16Twin t x s l w | ldI16Twin t x s l w | ldB32Twin t x s l w | stB8Twin t x s l w
  | stB16Twin t x s l w | stB32Twin t x s l w | ldBf16Twin t x s l w | ldF16Twin t x s l w | ldE4m3Twin t x s l w | ldE5m2Twin t x s l w
  | stBf16Twin t x s l w | stF16Twin t x s l w | stE4m3Twin t x s l w | stE5m2Twin t x s l w | vspillTwin t x s l w | vfillTwin t x s l w => as_aux_lemma =>
    exact decodeWords_laneAccessTwin vOk_lt rfl (fun _ => rfl) wf
  | ldB64Twin t x s l w | ldB128Twin t x s l w | stB64Twin t x s l w | stB128Twin t x s l w => as_aux_lemma =>
    exact decodeWords_laneAccessTwin vSpan_lt rfl (fun _ => rfl) wf
  | sadd d a b g | ssub d a b g | smul d a b g | smulh d a b g | sand d a b g | sor d a b g | sxor d a b g | sshl d a b g | sshrN d a b g
  | sshrI d a b g | sminI d a b g | smaxI d a b g | ssel d a b g => as_aux_lemma =>
    exact decodeWords_uniforms rfl (fun _ => rfl) wf
  | vmovs d a b => as_aux_lemma =>
    exact decodeWords_lane rfl (and_map_three wf vOk_lt (below rfl) (below rfl)) (by rintro w rfl rfl rfl; rfl)
  | vaddi d a b | vandi d a b => as_aux_lemma =>
    exact decodeWords_lane rfl (and_map_three wf vOk_lt vOk_lt of_decide_eq_true) (by rintro w rfl rfl rfl; rfl)
  | vshli d a b | vshriN32 d a b | vshriI32 d a b | cvtF32I32 d a b | cvtF32N32 d a b | cvtI32F32 d a b | cvtN32F32 d a b | widBf16 d a b
  | widF16 d a b | widE4m3 d a b | widE5m2 d a b | vbcast d a b => as_aux_lemma =>
    exact decodeWords_lane rfl (and_map_three wf vOk_lt vOk_lt (below rfl)) (by rintro w rfl rfl rfl; rfl)
  | vvote d a b | vballot d a b => as_aux_lemma =>
    exact decodeWords_lane rfl (and_map_three wf (below rfl) (below rfl) (below rfl)) (by rintro w rfl rfl rfl; rfl)
  | pack4E4m3 d a | pack4E5m2 d a => as_aux_lemma =>
    exact decodeWords_lane (b := 0) rfl ⟨and_map wf vOk_lt vSpan_lt, by decide⟩ (by rintro w rfl rfl z; exact if_pos z)
  | vcount d a => as_aux_lemma =>
    exact decodeWords_lane (b := 0) rfl ⟨and_map wf vOk_lt (below rfl), by decide⟩ (by rintro w rfl rfl z; exact if_pos z)
  | ckaccI32 d a | ckaccF32 d a | ckaccSig d a => as_aux_lemma =>
    exact decodeWords_lane (b := 0) rfl ⟨and_map wf (below rfl) vOk_lt, by decide⟩ (by rintro w rfl rfl z; exact if_pos z)
  | vid d n | vfromp d n => as_aux_lemma =>
    exact decodeWords_laneImmediate rfl (and_map wf vOk_lt (below rfl)) (by rintro w rfl rfl z; exact if_pos z)
  | vli d n => as_aux_lemma =>
    exact decodeWords_laneImmediate rfl (and_map wf vOk_lt of_decide_eq_true) (by rintro w rfl rfl z; exact if_pos z)
  | vaddiTwin d a w | vandiTwin d a w => as_aux_lemma =>
    exact decodeWords_lane (b := 0) rfl ⟨and_map (Bool.and_elim_left wf) vOk_lt vOk_lt, by decide⟩ (by rintro w rfl rfl z; exact if_pos z)
  | vliTwin d w => as_aux_lemma =>
    exact decodeWords_laneOne rfl (vOk_lt (Bool.and_elim_left wf)) (by rintro w rfl z; exact if_pos z)
  | icmpI32 p c a b | icmpN32 p c a b | fcmpF32 p c a b | fcmpX p c a b => as_aux_lemma =>
    exact decodeWords_compare rfl (and_map_four wf of_decide_eq_true (below rfl) vOk_lt vOk_lt) (by rintro w rfl rfl rfl rfl; rfl)
  | plog p c a b => as_aux_lemma =>
    exact decodeWords_compare rfl (and_map_four wf of_decide_eq_true (below rfl) (below rfl) (below rfl)) (by rintro w rfl rfl rfl rfl; rfl)
  | vtop p a => as_aux_lemma =>
    exact decodeWords_predicateOfLane rfl (and_map wf of_decide_eq_true vOk_lt) (by rintro w rfl rfl y z; exact if_pos (Nat.add_eq_zero_iff.2 ⟨z, y⟩))
  | ldZb4 t x s l | ldZb8 t x s l | stZb4 t x s l | stZb8 t x s l => as_aux_lemma =>
    exact decodeWords_access rfl (and_map_four wf vSpan_lt vOk_lt (below rfl) of_decide_eq_true) (by rintro w rfl rfl rfl rfl; rfl)
  | ldZb4Twin t x s l w | ldZb8Twin t x s l w | stZb4Twin t x s l w | stZb8Twin t x s l w => as_aux_lemma =>
    exact decodeWords_access rfl (and_map_four (Bool.and_elim_left (Bool.and_elim_left wf)) vSpan_lt vOk_lt (below rfl) of_decide_eq_true)
      (by rintro w rfl rfl rfl rfl; rfl)
  | tlook t x l | tset t x l => as_aux_lemma =>
    exact decodeWords_tagAccess rfl (and_map_three wf vOk_lt vOk_lt of_decide_eq_true) (by rintro w rfl rfl rfl z; exact if_pos z)
  | tclr x l => as_aux_lemma =>
    exact decodeWords_access (t := 0) (s := 0) rfl
      ⟨⟨⟨by decide, vOk_lt (Bool.and_elim_left wf)⟩, by decide⟩, of_decide_eq_true (Bool.and_elim_right wf)⟩
      (by rintro w y rfl z rfl; exact if_pos (Nat.add_eq_zero_iff.2 ⟨z, y⟩))
  | cbnd d a b g => as_aux_lemma =>
    exact decodeWords_uniform rfl (and_map_four (Bool.and_elim_left wf) cDst_lt (below rfl) of_decide_eq_true of_decide_eq_true)
      (by rintro w rfl rfl rfl rfl; rfl)
  | crgt d a b g | ccol d a b g => as_aux_lemma =>
    exact decodeWords_uniform rfl (and_map_four wf cDst_lt (below rfl) of_decide_eq_true of_decide_eq_true) (by rintro w rfl rfl rfl rfl; rfl)
  | cget d a b g | ckrd d a b g => as_aux_lemma =>
    exact decodeWords_uniform rfl (and_map_four wf of_decide_eq_true (below rfl) (below rfl) of_decide_eq_true) (by rintro w rfl rfl rfl rfl; rfl)
  | jmpc d a b g => as_aux_lemma =>
    exact decodeWords_uniform rfl (and_map_four wf of_decide_eq_true (below rfl) of_decide_eq_true of_decide_eq_true)
      (by rintro w rfl rfl rfl rfl; rfl)
  | smov d a g | spopc d a g | sclz d a g => as_aux_lemma =>
    exact decodeWords_uniformPair rfl (and_map_three wf of_decide_eq_true of_decide_eq_true of_decide_eq_true)
      (by rintro w rfl rfl rfl z; exact if_pos z)
  | cmov d a g => as_aux_lemma =>
    exact decodeWords_uniformPair rfl (and_map_three wf cDst_lt (below rfl) of_decide_eq_true) (by rintro w rfl rfl rfl z; exact if_pos z)
  | ckclr d b g => as_aux_lemma =>
    exact decodeWords_uniformSelect rfl (and_map_three wf (below rfl) (below rfl) of_decide_eq_true) (by rintro w rfl rfl rfl z; exact if_pos z)
  | evpop d b g => as_aux_lemma =>
    exact decodeWords_uniformSelect rfl (and_map_three wf quadReg_lt (below rfl) of_decide_eq_true) (by rintro w rfl rfl rfl z; exact if_pos z)
  | cnull d g => as_aux_lemma =>
    exact decodeWords_uniformOne rfl (and_map wf cDst_lt of_decide_eq_true) (by rintro w rfl rfl z; exact if_pos z)
  | vclk d g => as_aux_lemma =>
    exact decodeWords_uniformOne rfl (and_map wf of_decide_eq_true of_decide_eq_true) (by rintro w rfl rfl z; exact if_pos z)
  | ret a g => as_aux_lemma =>
    exact decodeWords_uniform (d := 0) (b := 0) rfl
      ⟨⟨⟨by decide, of_decide_eq_true (Bool.and_elim_left wf)⟩, by decide⟩, of_decide_eq_true (Bool.and_elim_right wf)⟩
      (by rintro w y rfl z rfl; exact if_pos (Nat.add_eq_zero_iff.2 ⟨z, y⟩))
  | reform g | exit g | nop g => as_aux_lemma =>
    exact decodeWords_uniform (d := 0) (a := 0) (b := 0) rfl ⟨⟨⟨by decide, by decide⟩, by decide⟩, below rfl wf⟩
      (by rintro w x y z rfl; exact if_pos (fld_split_eq_zero (fld_split_eq_zero z y) x))
  | scmpI q c a b g | scmpN q c a b g => as_aux_lemma =>
    exact decodeWords_uniformCompare rfl (and_map_five wf of_decide_eq_true of_decide_eq_true of_decide_eq_true of_decide_eq_true of_decide_eq_true)
      (by rintro w rfl rfl rfl rfl rfl; rfl)
  | qlog q c a b g => as_aux_lemma =>
    exact decodeWords_uniformCompare rfl (and_map_five wf of_decide_eq_true of_decide_eq_true (below rfl) (below rfl) of_decide_eq_true)
      (by rintro w rfl rfl rfl rfl rfl; rfl)
  | cchk q c a b g => as_aux_lemma =>
    exact decodeWords_uniformCompare rfl (and_map_five (Bool.and_elim_left wf) of_decide_eq_true (below rfl) (below rfl) of_decide_eq_true of_decide_eq_true)
      (by rintro w rfl rfl rfl rfl rfl; rfl)
  | saddi d a n | sandi d a n => as_aux_lemma =>
    exact decodeWords_immediate rfl (and_map_three wf of_decide_eq_true of_decide_eq_true of_decide_eq_true) (by rintro w rfl rfl rfl; rfl)
  | sshli d a n => as_aux_lemma =>
    exact decodeWords_immediate rfl (and_map_three wf of_decide_eq_true of_decide_eq_true (below rfl)) (by rintro w rfl rfl rfl; rfl)
  | sli d n => as_aux_lemma =>
    exact decodeWords_immediateOne rfl (and_map wf of_decide_eq_true of_decide_eq_true) (by rintro w rfl rfl z; exact if_pos z)
  | sid d n | pcnt d n | csrr d n => as_aux_lemma =>
    exact decodeWords_immediateOne rfl (and_map wf of_decide_eq_true (below rfl)) (by rintro w rfl rfl z; exact if_pos z)
  | csrw a n => as_aux_lemma =>
    exact decodeWords_immediate (d := 0) rfl ⟨⟨by decide, of_decide_eq_true (Bool.and_elim_left wf)⟩, below rfl (Bool.and_elim_right wf)⟩
      (by rintro w z rfl rfl; exact if_pos z)
  | hmap a b => as_aux_lemma =>
    exact decodeWords_immediate (n := 0) rfl ⟨and_map wf of_decide_eq_true of_decide_eq_true, by decide⟩ (by rintro w rfl rfl z; exact if_pos z)
  | tlsig a b => as_aux_lemma =>
    exact decodeWords_immediate (n := 0) rfl ⟨and_map wf (fun wf => below rfl (Bool.and_elim_right wf)) of_decide_eq_true, by decide⟩
      (by rintro w rfl rfl z; exact if_pos z)
  | tlwait a b => as_aux_lemma =>
    exact decodeWords_immediate (n := 0) rfl ⟨and_map wf tOk_lt of_decide_eq_true, by decide⟩ (by rintro w rfl rfl z; exact if_pos z)
  | tlrd a b => as_aux_lemma =>
    exact decodeWords_immediate (n := 0) rfl ⟨and_map wf of_decide_eq_true tOk_lt, by decide⟩ (by rintro w rfl rfl z; exact if_pos z)
  | saddiTwin d a w => as_aux_lemma =>
    exact decodeWords_immediate (n := 0) rfl ⟨and_map (Bool.and_elim_left wf) of_decide_eq_true of_decide_eq_true, by decide⟩
      (by rintro w rfl rfl z; exact if_pos z)
  | waitm n | waits n | bar n | bara n | barw n | cbwait n | trap n | brk n => as_aux_lemma =>
    exact decodeWords_immediate (d := 0) (a := 0) rfl ⟨⟨by decide, by decide⟩, below rfl wf⟩
      (by rintro w y z rfl; exact if_pos (fld_split_eq_zero z y))
  | cbseal d | rlstat d | tmwait d | tmcan d => as_aux_lemma =>
    exact decodeWords_register rfl (below rfl wf) (by rintro w rfl z; exact if_pos z)
  | sliTwin d w => as_aux_lemma =>
    exact decodeWords_register rfl (below rfl (Bool.and_elim_left wf)) (by rintro w rfl z; exact if_pos z)
  | sli64 d w v => as_aux_lemma =>
    exact decodeWords_register rfl (below rfl (Bool.and_elim_left (Bool.and_elim_left wf))) (by rintro w rfl z; exact if_pos z)
  | cld d c b l => as_aux_lemma =>
    exact decodeWords_uniformAccess rfl (and_map_four wf cDst_lt of_decide_eq_true of_decide_eq_true of_decide_eq_true)
      (by rintro w rfl rfl rfl rfl; rfl)
  | cst d c b l => as_aux_lemma =>
    exact decodeWords_uniformAccess rfl (and_map_four wf (below rfl) of_decide_eq_true of_decide_eq_true of_decide_eq_true)
      (by rintro w rfl rfl rfl rfl; rfl)
  | ctag d c b l | sldB32 d c b l | sldB64 d c b l | sstB32 d c b l | sstB64 d c b l => as_aux_lemma =>
    exact decodeWords_uniformAccess rfl (and_map_four wf of_decide_eq_true of_decide_eq_true of_decide_eq_true of_decide_eq_true)
      (by rintro w rfl rfl rfl rfl; rfl)
  | sldB32Twin d c b l w | sldB64Twin d c b l w | sstB32Twin d c b l w | sstB64Twin d c b l w => as_aux_lemma =>
    exact decodeWords_uniformAccess rfl (and_map_four (Bool.and_elim_left wf) of_decide_eq_true of_decide_eq_true of_decide_eq_true of_decide_eq_true)
      (by rintro w rfl rfl rfl rfl; rfl)
  | spawn d k b => as_aux_lemma =>
    exact decodeWords_uniformAccess (l := 0) rfl ⟨and_map_three wf of_decide_eq_true (below rfl) (below rfl), by decide⟩
      (by rintro w rfl rfl rfl z; exact if_pos z)
  | halo a l => as_aux_lemma =>
    exact decodeWords_command rfl (and_map wf blockReg_lt of_decide_eq_true) (by rintro w rfl rfl z; exact if_pos z)
  | mwld a l | mmul a l | mclr a l | mrd a l | mstg a l | mspl a l => as_aux_lemma =>
    exact decodeWords_command rfl (and_map wf of_decide_eq_true of_decide_eq_true) (by rintro w rfl rfl z; exact if_pos z)
  | rlinv l => as_aux_lemma =>
    exact decodeWords_uniformAccess (d := 0) (c := 0) (b := 0) rfl ⟨⟨⟨by decide, by decide⟩, by decide⟩, below rfl wf⟩
      (by rintro w x y z rfl; exact if_pos (fld_split_eq_zero (fld_split_eq_zero z y) x))
  | bq k o | bqn k o | brl k o | brln k o => as_aux_lemma =>
    exact decodeWords_branch rfl (and_map wf of_decide_eq_true of_decide_eq_true) (by rintro w rfl rfl; rfl)
  | call o => as_aux_lemma =>
    exact decodeWords_branch (k := 0) rfl ⟨by decide, below rfl wf⟩ (by rintro w z rfl; exact if_pos z)
  | gstep m => as_aux_lemma =>
    exact decodeWords_mask rfl (below rfl (Bool.and_elim_right wf)) (by rintro w rfl z; exact if_pos z)
  | tmarm a b p s => as_aux_lemma =>
    exact decodeWords_timer rfl (and_map_four (Bool.and_elim_left wf) (below rfl) of_decide_eq_true of_decide_eq_true of_decide_eq_true)
      (by rintro w rfl rfl rfl rfl y z; exact if_pos (Nat.add_eq_zero_iff.2 ⟨z, y⟩))
  | cpy a b n l | cpym a b n l => as_aux_lemma =>
    exact decodeWords_engine rfl (and_map_four wf blockReg_lt (below rfl) of_decide_eq_true of_decide_eq_true) (by rintro w rfl rfl rfl rfl; rfl)
  | cpyc a b n l | rlrun a b n l => as_aux_lemma =>
    exact decodeWords_engine rfl (and_map_four wf (below rfl) of_decide_eq_true (below rfl) of_decide_eq_true) (by rintro w rfl rfl rfl rfl; rfl)
  | ckchk a b n => as_aux_lemma =>
    exact decodeWords_engine (l := 0) rfl ⟨and_map_three wf (below rfl) (below rfl) (below rfl), by decide⟩
      (by rintro w rfl rfl rfl z; exact if_pos z)
  | gcfg a n | mstat a n => as_aux_lemma =>
    exact decodeWords_indexed rfl (and_map wf of_decide_eq_true (below rfl)) (by rintro w rfl rfl y z; exact if_pos (Nat.add_eq_zero_iff.2 ⟨z, y⟩))
  | vsel k d a b =>
    obtain rfl | rfl | rfl | rfl | rfl | rfl | rfl | rfl := predicate_cases wf <;> as_aux_lemma =>
      exact decodeWords_lanes (fun ok => vOk_lt (Bool.and_elim_right ok)) rfl (fun _ => rfl) wf
  | aaddI32 r t x s l | aminI32 r t x s l | amaxI32 r t x s l | aminN32 r t x s l | amaxN32 r t x s l | aand r t x s l
  | aor r t x s l | axor r t x s l | axchg r t x s l | aaddF32U r t x s l =>
    obtain rfl | rfl | rfl | rfl := order_cases wf <;> as_aux_lemma =>
      exact decodeWords_laneAccess (fun ok => vOk_lt (Bool.and_elim_right ok)) rfl (fun _ => rfl) wf
  | aaddI64 r t x s l | acas r t x s l =>
    obtain rfl | rfl | rfl | rfl := order_cases wf <;> as_aux_lemma =>
      exact decodeWords_laneAccess (fun ok => vSpan_lt (Bool.and_elim_right ok)) rfl (fun _ => rfl) wf
  | heat k n m =>
    have bounds := Bool.and_eq_true_iff.1 wf
    simp only [masksOk, Bool.and_eq_true, decide_eq_true_eq, beq_iff_eq] at bounds
    obtain ⟨⟨⟨predicate, nonempty⟩, few⟩, -⟩ := bounds
    exact decodeWords_heat predicate nonempty few
  | fenceAcq s => as_aux_lemma =>
    exact decodeWords_immediate (h := 0x92000000) (d := 0) (a := 1) rfl ⟨⟨by decide, by decide⟩, below rfl wf⟩
      (by rintro w y z rfl; exact decodeFence_acquire y z)
  | fenceRel s => as_aux_lemma =>
    exact decodeWords_immediate (h := 0x92000000) (d := 0) (a := 2) rfl ⟨⟨by decide, by decide⟩, below rfl wf⟩
      (by rintro w y z rfl; exact decodeFence_release y z)
  | fenceFull s => as_aux_lemma =>
    exact decodeWords_immediate (h := 0x92000000) (d := 0) (a := 3) rfl ⟨⟨by decide, by decide⟩, below rfl wf⟩
      (by rintro w y z rfl; exact decodeFence_full y z)
  | syscNull d a => as_aux_lemma => exact decodeWords_service 0 wf (by decide) fun w code => by simp [decodeSysc, code]
  | syscPostPeerEvent d a => as_aux_lemma => exact decodeWords_service 1 wf (by decide) fun w code => by simp [decodeSysc, code]
  | syscPostHostEvent d a => as_aux_lemma => exact decodeWords_service 2 wf (by decide) fun w code => by simp [decodeSysc, code]
  | syscEndLaunch d a => as_aux_lemma => exact decodeWords_service 3 wf (by decide) fun w code => by simp [decodeSysc, code]
  | syscHold d a => as_aux_lemma => exact decodeWords_service 16 wf (by decide) fun w code => by simp [decodeSysc, code]
  | syscEvict d a => as_aux_lemma => exact decodeWords_service 17 wf (by decide) fun w code => by simp [decodeSysc, code]
  | syscReserved d a c =>
    obtain ⟨⟨registers, low⟩, high⟩ := and_map_four wf of_decide_eq_true quadReg_lt of_decide_eq_true of_decide_eq_true
    exact decodeWords_immediate rfl ⟨registers, by omega⟩ (by rintro w rfl rfl rfl; exact decodeSysc_reserved low high)
  | syscRuntimeService d a c =>
    obtain ⟨⟨registers, low⟩, high⟩ := and_map_four wf of_decide_eq_true quadReg_lt of_decide_eq_true of_decide_eq_true
    exact decodeWords_immediate rfl ⟨registers, by omega⟩ (by rintro w rfl rfl rfl; exact decodeSysc_runtime low high)
  | _ => as_aux_lemma => exact Bool.noConfusion (encoded : true = false)

/-! ### Written words -/

/-- Settles O4: a word of each format decodes as its operation reads its fields, and these are the operands that the encoder packed. -/
theorem encodeDecodeRoundTrip : Obligations.EncodeDecodeRoundTrip := by
  unfold Obligations.EncodeDecodeRoundTrip
  exact fun _ _ _ _ encoded wf => decodeWords_encode encoded wf

theorem decodeWords_of_encode {ws : List Nat} {i : Instr} (words : encode i = ws) (encoded : Machine.isEvent i = false)
    (wf : i.wellFormed 128 false = true) : decodeWords ws = .ok (i, []) := by
  rw [← words, ← List.append_nil (encode i)]
  exact decodeWords_encode encoded wf

/-- Settles O3: each of the words is its instruction's encoding. -/
theorem decodedWords : Obligations.DecodedWords := by
  unfold Obligations.DecodedWords
  refine ⟨?_, ?_, ?_, ?_, ?_, ?_, ?_, ?_, ?_, ?_⟩ <;> exact decodeWords_of_encode rfl rfl rfl

/-! ### A step runs what its words decode to -/

theorem keyOf_lt (w : Nat) : keyOf w < 2048 := Nat.mod_lt _ (by decide)

/-- Words that decode to an instruction with nothing left are its first word and all its literal words. -/
theorem decodeWords_all {w : Nat} {ls : List Nat} {i : Instr} (h : decodeWords (w :: ls) = .ok (i, [])) : assigned (keyOf w) = true ∧
    litWords (keyOf w) w = ls.length ∧ decodeOp (keyOf w) w (ls.getD 0 0) (ls.getD 1 0) = .ok i := by
  have mapped {e : Except DecodeErr Instr} {r : List Nat} (h : (e.map fun i => (i, r)) = .ok (i, [])) : e = .ok i ∧ r = [] := by
    cases e with
    | error => cases h
    | ok j => cases h; exact ⟨rfl, rfl⟩
  simp only [decodeWords] at h
  split at h
  next known =>
    refine ⟨known, ?_⟩
    split at h
    next none => obtain ⟨op, rfl⟩ := mapped h; exact ⟨none, op⟩
    next one => obtain ⟨op, rfl⟩ := mapped h; exact ⟨one, op⟩
    next two => obtain ⟨op, rfl⟩ := mapped h; exact ⟨two, op⟩
    next => cases h
  next => split at h <;> cases h

namespace Machine

section
variable {s : State} {c : Ctx} {k w : Nat} {ls : List Nat} {i : Instr}

theorem runWord_ok {l1 l2 regs : Nat} {heat : Bool} (op : decodeOp k w l1 l2 = .ok i) (wf : i.wellFormed regs heat = true) :
    runWord k w l1 l2 regs heat s = exec i s := by
  simp only [runWord, op, wf, if_true]

/-- R86, R95: under a valid entry that names k, the literal words that k has are fetched, and the instruction they decode to runs. -/
theorem afterFirst_runs (entry : tableEntry c.fn (keyOf w) = 0x8000 + k) (key : k < 2048) (lits : litWords k w = ls.length)
    (fetched : ∀ (j : Nat) l, ls[j]? = some l → fetchWord s c (c.g.pc + 4 + 4 * j) = .word l)
    (op : decodeOp k w (ls.getD 0 0) (ls.getD 1 0) = .ok i) (wf : i.wellFormed c.team.regs c.inHeat = true) :
    afterFirst s c w = exec i (s.withWords w (ls.getD 0 0) (ls.getD 1 0)) := by
  have named : (0x8000 + k) % 2048 = k := by omega
  have valid : ¬0x8000 + k < 32768 := by omega
  have few : litWords k w ≤ 2 := by
    unfold litWords
    split_ifs <;> omega
  simp only [afterFirst, entry, named, if_neg valid, lits]
  match ls with
  | [] => exact runWord_ok op wf
  | [l] =>
    simp only [fetched 0 l rfl]
    exact runWord_ok op wf
  | [l, m] =>
    have first : fetchWord s c (c.g.pc + 4) = .word l := fetched 0 l rfl
    have second : fetchWord s c (c.g.pc + 8) = .word m := fetched 1 m rfl
    simp only [first, second]
    exact runWord_ok op wf
  | _ :: _ :: _ :: _ => simp only [List.length_cons] at lits; omega

theorem runGroup_word {gkey : Nat} (current : ctx? { s with cur := some gkey, fetched := none } = some c)
    (first : fetchWord { s with cur := some gkey, fetched := none } c c.g.pc = .word w) :
    runGroup gkey s = afterFirst { s with cur := some gkey, fetched := none } c w := by
  simp only [runGroup, current, first]

end

/-- Where nothing falls due within a move's time, the step is the move's act when that time has passed. -/
theorem step_act {s : State} {dt : Nat} {a : Act} {rest : List Move} (move : nextMove s = (⟨dt, a⟩, rest)) (due : dueFirst s dt = none) :
    step s = runAct a dt (moved s rest dt) := by
  simp only [step, move, runMove, due]
  rfl

theorem runAct_resident {s : State} {dt gkey : Nat} {g : Gang} (gang : s.gangs.find (gangOfTeam (teamOfGroup gkey)) = some g)
    (resident : g.status = .resident) : runAct (.issue gkey) dt s = issueTurn gkey s := by
  have serves : (s.gangs.find (gangOfTeam (teamOfGroup gkey))).any (·.inService) = true := by
    simp [gang, Gang.inService, resident]
  simp only [runAct, serves, if_true]

/-- Settles O2: the step is the group's turn, the entry names the key under which its words are decoded, and those are all its words. -/
theorem stepRunsDecoded : Obligations.StepRunsDecoded := by
  unfold Obligations.StepRunsDecoded
  intro s dt gkey rest c w i ls move due v u ⟨g, gang, resident⟩ turn current first fetched entries wf
  have named : ∃ k, tableEntry c.fn (keyOf w) = 0x8000 + k ∧ k < 2048 ∧ litWords k w = ls.length ∧
      decodeOp k w (ls.getD 0 0) (ls.getD 1 0) = .ok i := by
    obtain ⟨reset, decodes⟩ | ⟨k, key, entry, lits, op⟩ := entries
    · obtain ⟨known, lits, op⟩ := decodeWords_all decodes
      exact ⟨keyOf w, by rw [reset, resetEntry, if_pos known], keyOf_lt w, lits, op⟩
    · exact ⟨k, entry, key, lits, op⟩
  obtain ⟨k, entry, key, lits, op⟩ := named
  have runs := (runGroup_word current first).trans (afterFirst_runs entry key lits fetched op wf)
  rw [step_act move due, runAct_resident gang resident]
  simp only [issueTurn, turn, ne_eq, not_true_eq_false, if_false, v, runs] at turn ⊢ <;> rfl

end Machine

end Sys2Proof
end

section
/-! Lane predicates (R176 to R179). -/
namespace Sys2Proof.Machine

/-- The hardware's table of conditions is R74's, for the codes that the field holds. -/
theorem ccHolds_eq_condition {cc : Nat} (code : cc < 8) (o : Option Ordering) : ccHolds cc o = condition cc o := by
  cases o with
  | none => interval_cases cc <;> rfl
  | some o => interval_cases cc <;> cases o <;> rfl

/-- R176 to R179: an instruction that writes one predicate of each lane. -/
theorem laneDoes_of_pIss {i : Instr} {p : Nat} {readsV readsP : List Nat} {f v : Ctx → Lane → Bool} (encoded : isEvent i = false)
    (iss : issOf i = pIss p readsV readsP f) (value : ∀ c l, f c l = v c l) : LaneDoes i 1 (putP p v) noFlags := by
  obtain rfl : f = v := funext fun c => funext (value c)
  exact laneDoes_of encoded (by rw [iss]; rfl) fun c s => by rw [iss]; rfl

/-- Settles O8: each of these instructions is a `pIss`, and its bit is the statement's. -/
theorem lanePredicateResults : Obligations.LanePredicateResults := by
  unfold Obligations.LanePredicateResults
  refine ⟨fun p cc a b code => ?_, fun p cc a b code => ?_, fun p cc a b code => ?_, fun p cc a b code => ?_, fun p o a b op => ?_,
    fun p a => ?_⟩
  · exact laneDoes_of_pIss rfl rfl fun _ _ => ccHolds_eq_condition code _
  · exact laneDoes_of_pIss rfl rfl fun _ _ => ccHolds_eq_condition code _
  · exact laneDoes_of_pIss rfl rfl fun _ _ => ccHolds_eq_condition code _
  · exact laneDoes_of_pIss rfl rfl fun _ _ => ccHolds_eq_condition code _
  · refine laneDoes_of_pIss rfl rfl fun _ l => ?_
    cases l.th.getP a <;> cases l.th.getP b <;> interval_cases o <;> rfl
  · exact laneDoes_of_pIss rfl rfl fun c l => by rw [bne, Bool.beq_eq_decide_eq, decide_not]

end Sys2Proof.Machine
end

section
/-! Heats, lookahead hazards and skipped instructions (R78, R101, R113, R130, R131). -/
namespace Sys2Proof.Machine

/-- The entries that refuse to issue in a heat are R131's list. -/
theorem forbid_issOf (i : Instr) : (issOf i).forbid = heatForbids i := by
  cases i <;> as_aux_lemma => rfl

theorem heat_gate {i : Instr} {c : Ctx} (allowed : c.inHeat = true → heatForbids i = false) :
    (c.inHeat && (issOf i).forbid) = false := by
  rw [forbid_issOf i, Bool.and_eq_false_iff, ← Bool.not_eq_true, ← imp_iff_not_or]
  exact allowed

/-- An instruction that passes the heat's gate and whose waits are over acts, traps at a name, or is skipped. -/
theorem exec_past_waits {i : Instr} {s : State} {c : Ctx} (encoded : isEvent i = false) (current : ctx? s = some c)
    (allowed : c.inHeat = true → heatForbids i = false) (waited : waitFor s c.tk (mustComplete c.g (issOf i)) = .go) :
    exec i s = if c.lanes.isEmpty || (acting i c).subs.isEmpty then .next (advance (acted i s c) c (issOf i) true)
      else if hazard (pruned c.g (issOf i)) ((issOf i).names (acting i c)) then
        .next (takeTrap (acted i s c) c.gkey { c.trapArgs .lookaheadViolation (lowLane c.lanes) with
          shut := violated (pruned c.g (issOf i)) ((issOf i).names (acting i c)) })
      else finish (acting i c) (issOf i) (acted i s c) ((issOf i).eff (acting i c) (acted i s c)) := by
  rw [exec_encoded i s encoded, issue, current]
  simp only [issueIn, heat_gate allowed, waited, Bool.false_eq_true, if_false]
  rfl

/-- A skipped instruction moves the group on past it; it opens no window. -/
theorem moved_of_skip {s : State} {c : Ctx} (of : Ctx.Of s c) (I : Iss) : Moved s (advance (pastWaits s c I) c I true) c (1 + I.lits) := by
  have moved := moved_of_advance (c' := c) (I := I) (J := I) of rfl rfl (s1 := pastWaits s c I) rfl rfl
  refine ⟨⟨moved.gangs, ?_, ?_⟩, rfl⟩
  · refine ⟨(pruned c.g I).map (fun w => { w with left := w.left - 1 }) ++ (match I.la with
        | some n => if true || !(I.load || !(I.dests c).isEmpty) then [] else [⟨c.xact, n, I.load, I.dests c⟩]
        | none => []), if I.mem then [] else c.g.acquires, ?_⟩
    rw [advance_group, if_pos rfl, pastWaits_group, if_pos rfl, of.group]
    rfl
  · intro k other
    rw [advance_group, if_neg other, pastWaits_group, if_neg other]

/-- R78, R101, R130: no lane is selected, or no subset's guard holds. -/
theorem nothing_selected {i : Instr} {c : Ctx} (unselected : c.lanes = [] ∨ ∀ w ∈ c.subs, w.wv.getQ (issOf i).guard = false) :
    (c.lanes.isEmpty || (acting i c).subs.isEmpty) = true := by
  rcases unselected with empty | unguarded
  · simp [empty]
  · rw [Bool.or_eq_true, List.isEmpty_iff, List.isEmpty_iff]
    right
    rw [acting, Ctx.guarded, List.filter_eq_nil_iff]
    intro w member
    simp [guardOk, unguarded w member]

/-- Settles O24: the four ways through `issueIn` before an effect. -/
theorem issueTrapsAndSkips : Obligations.IssueTrapsAndSkips := by
  unfold Obligations.IssueTrapsAndSkips
  refine ⟨⟨fun i s c encoded current heat forbidden => ?_, fun i s c encoded current allowed waited lanes guard named => ?_⟩,
    fun i s c encoded current allowed waited unselected => ?_⟩
  · rw [exec_encoded i s encoded, issue, current]
    simp only [issueIn, heat, forbid_issOf i, forbidden, Bool.and_self, if_true]
  · rw [exec_past_waits encoded current allowed waited, if_neg, if_pos named]
    rw [Bool.or_eq_true, List.isEmpty_iff, List.isEmpty_iff]
    exact not_or.2 ⟨lanes, guard⟩
  · rw [exec_past_waits encoded current allowed waited, if_pos (nothing_selected unselected)]
    exact ⟨_, rfl, moved_of_skip (Ctx.of current) _, advance_threadsKept fun _ => rfl, fun _ => rfl⟩

end Sys2Proof.Machine
end

section
/-! Branches (R79, R102, R104, R119, R120): the group goes on whole, or dissolves and its threads are filed. -/
namespace Sys2Proof.Machine

theorem allSame_iff {α : Type} [DecidableEq α] (xs : List α) : allSame xs = true ↔ ∀ x ∈ xs, ∀ y ∈ xs, x = y := by
  cases xs with
  | nil => simp [allSame]
  | cons a xs =>
    simp only [allSame, List.all_eq_true, decide_eq_true_eq]
    constructor
    · intro same x hx y hy
      have toHead : ∀ z ∈ a :: xs, z = a := List.forall_mem_cons.2 ⟨rfl, same⟩
      rw [toHead x hx, toHead y hy]
    · exact fun same y hy => same y (List.mem_cons_of_mem _ hy) a List.mem_cons_self

theorem sextN_eq_toInt (o : Nat) : sextN 18 o = (BitVec.ofNat 18 o).toInt := by
  rw [BitVec.toInt_eq_toNat_cond, BitVec.toNat_ofNat]
  simp only [sextN]
  split <;> split <;> omega

theorem branchTarget_eq (c : Ctx) (o : Nat) : branchTarget c.g.pc o = branchTo c o := by
  rw [branchTarget, branchTo, sextN_eq_toInt]

/-! ### Bins -/

/-- Every bin is still there under its key, with its threads and perhaps more. -/
def BinsGrow (bs cs : List Bin) : Prop := ∀ b ∈ bs, ∃ d ∈ cs, (d.code, d.pc) = (b.code, b.pc) ∧ ∀ t ∈ b.threads, t ∈ d.threads

/-- Some bin of that key holds the thread. -/
def InBin (bs : List Bin) (t : Nat) (key : Cap × Nat) : Prop := ∃ b ∈ bs, t ∈ b.threads ∧ (b.code, b.pc) = key

theorem BinsGrow.refl (bs : List Bin) : BinsGrow bs bs := fun b member => ⟨b, member, rfl, fun _ => id⟩

theorem BinsGrow.trans {bs cs ds : List Bin} (h : BinsGrow bs cs) (g : BinsGrow cs ds) : BinsGrow bs ds := by
  intro b member
  obtain ⟨c, hc, keyC, moreC⟩ := h b member
  obtain ⟨d, hd, keyD, moreD⟩ := g c hc
  exact ⟨d, hd, keyD.trans keyC, fun t ht => moreD t (moreC t ht)⟩

theorem InBin.grow {bs cs : List Bin} {t : Nat} {key : Cap × Nat} (h : InBin bs t key) (g : BinsGrow bs cs) : InBin cs t key := by
  obtain ⟨b, member, ht, rfl⟩ := h
  obtain ⟨d, hd, keyD, more⟩ := g b member
  exact ⟨d, hd, more t ht, keyD⟩

/-- With a bin free on the core, a thread finds its bin or opens one. -/
theorem addToBin_roomy {bs : List Bin} {det : Bool} {t pc age seq : Nat} {code : Cap} (room : age < 64) :
    ∃ cs, addToBin bs det t pc code age 64 seq = some cs ∧ cs.length ≤ bs.length + 1 ∧ BinsGrow bs cs ∧ InBin cs t (code, pc) := by
  unfold addToBin
  split
  · next b found =>
    have member := List.mem_of_find?_eq_some found
    have key := List.find?_some found
    simp only [Bool.and_eq_true, beq_iff_eq] at key
    obtain ⟨⟨⟨rfl, rfl⟩, -⟩, -⟩ := key
    refine ⟨_, rfl, by rw [List.length_map]; omega, fun x hx => ⟨_, List.mem_map_of_mem hx, ?_⟩, _, List.mem_map_of_mem member, ?_⟩
    · split
      · exact ⟨rfl, fun u hu => List.mem_append_left _ hu⟩
      · exact ⟨rfl, fun _ => id⟩
    · simp
  · rw [if_pos room]
    refine ⟨_, rfl, by simp, fun x hx => ⟨x, List.mem_append_left _ hx, rfl, fun _ => id⟩, _, List.mem_append_right _ List.mem_cons_self, ?_⟩
    simp

/-! ### How many bins a core has -/

theorem Tab.risingFrom_modify {α : Type} (f : α → α) (k : Nat) {t : Tab α} {lo : Nat} :
    Tab.risingFrom lo (t.modify k f) = Tab.risingFrom lo t := by
  unfold Tab.modify
  induction t generalizing lo with
  | nil => rfl
  | cons p t ih =>
    rw [List.map_cons]
    have head : (if p.1 = k then (p.1, f p.2) else p) = (p.1, if p.1 = k then f p.2 else p.2) := by split <;> rfl
    rw [head]
    simp only [Tab.risingFrom, ih]

/-- A change of the entry at a key that is not there changes nothing. -/
theorem Tab.modify_absent {α : Type} (f : α → α) {t : Tab α} {lo k : Nat} (rising : Tab.risingFrom lo t = true) (below : k < lo) :
    t.modify k f = t := by
  unfold Tab.modify
  induction t generalizing lo with
  | nil => rfl
  | cons p t ih =>
    obtain ⟨i, u⟩ := p
    simp only [Tab.risingFrom, Bool.and_eq_true, decide_eq_true_eq] at rising
    rw [List.map_cons, ih rising.2 (by omega), if_neg (by simp only; omega)]

/-- A sum over a table grows by what its one entry at a key grows. -/
theorem Tab.sum_modify_le {α : Type} (w : Nat × α → Nat) (f : α → α) {t : Tab α} {lo k : Nat} {v : α} (rising : Tab.risingFrom lo t = true)
    (found : t.find k = some v) (grows : w (k, f v) ≤ w (k, v) + 1) : ((t.modify k f).map w).sum ≤ (t.map w).sum + 1 := by
  induction t generalizing lo with
  | nil => cases found
  | cons p t ih =>
    obtain ⟨i, u⟩ := p
    simp only [Tab.risingFrom, Bool.and_eq_true, decide_eq_true_eq] at rising
    have cons : Tab.modify ((i, u) :: t) k f = (if i = k then (i, f u) else (i, u)) :: Tab.modify t k f := rfl
    rw [cons]
    by_cases here : k = i
    · subst here
      rw [Tab.find, if_pos rfl] at found
      obtain rfl := Option.some.inj found
      rw [Tab.modify_absent f rising.2 (Nat.lt_succ_self k), if_pos rfl, List.map_cons, List.map_cons, List.sum_cons, List.sum_cons]
      omega
    · rw [Tab.find, if_neg here] at found
      rw [if_neg fun e => here e.symm, List.map_cons, List.map_cons, List.sum_cons, List.sum_cons]
      have := ih rising.2 found
      omega

/-- The bins that a team takes of a core's. -/
def binsTaken (s : State) (core : Nat) (p : Nat × Team) : Nat := if teamOn s core p.1 p.2 then p.2.bins.length else 0

theorem binsOn_length (s : State) (core : Nat) : (binsOn s core).length = (s.teams.map (binsTaken s core)).sum := by
  rw [binsOn, teamsOn]
  induction s.teams with
  | nil => rfl
  | cons p ps ih =>
    rw [List.map_cons, List.sum_cons, ← ih, List.filter_cons, binsTaken]
    split <;> simp [*]

/-! ### Filing threads -/

/-- The bin key of thread t of team tk with a next PC. -/
def fileKey (s : State) (tk t pc : Nat) : Cap × Nat := ((s.wave (waveKey tk (t / 32))).getC 31, pc)

/-- Threads of a team have been filed, each under its key; nothing else has changed but the numbers taken. -/
structure FiledAll (s t : State) (tk : Nat) (team : Team) (nexts : List (Nat × Nat)) : Prop where
  rest : t = { s with teams := t.teams, threads := t.threads, nextId := t.nextId }
  threads : ∀ k, t.thread k = if k ∈ nexts.map (fun n => threadKey tk n.1) then { s.thread k with status := .filed } else s.thread k
  filed : ∃ team', t.teams.find tk = some team' ∧ team'.core = team.core ∧ BinsGrow team.bins team'.bins ∧
    ∀ n ∈ nexts, InBin team'.bins n.1 (fileKey s tk n.1 n.2)
  room : t.teams.wf = true ∧ (binsOn t team.core).length ≤ (binsOn s team.core).length + nexts.length

/-- What a team's change of bins adds to the bins of a core. -/
theorem binsOn_setBins {s t : State} {tk core : Nat} {team : Team} {cs : List Bin} (found : s.teams.find tk = some team) (wf : s.teams.wf = true)
    (gangs : t.gangs = s.gangs) (teams : t.teams = s.teams.modify tk fun x => { x with bins := cs }) (more : cs.length ≤ team.bins.length + 1) :
    (binsOn t core).length ≤ (binsOn s core).length + 1 := by
  have on : teamOn t core = teamOn s core := by funext k x; rw [teamOn, teamOn, gangs]
  have taken : binsTaken t core = binsTaken s core := by funext p; rw [binsTaken, binsTaken, on]
  rw [binsOn_length, binsOn_length, taken, teams]
  refine Tab.sum_modify_le _ _ wf found ?_
  simp only [binsTaken]
  rw [show teamOn s core tk { team with bins := cs } = teamOn s core tk team from rfl]
  split <;> omega

theorem fileBin_roomy {s : State} {tk t pc : Nat} {team : Team} (found : s.teams.find tk = some team) (wf : s.teams.wf = true)
    (room : (binsOn s team.core).length < 64) : ∃ u, fileBin s tk t pc = some u ∧ FiledAll s u tk team [(t, pc)] := by
  obtain ⟨cs, added, more, grow, inBin⟩ := addToBin_roomy (bs := team.bins) (det := isDet s tk) (t := t) (pc := pc) (seq := s.nextId)
    (code := (s.wave (waveKey tk (t / 32))).getC 31) room
  simp only [fileBin, found, added]
  refine ⟨_, rfl, rfl, fun k => ?_, ⟨{ team with bins := cs }, ?_, rfl, grow, ?_⟩, ?_, ?_⟩
  · simp only [State.thread, Tab.find_put, List.map_cons, List.map_nil, List.mem_singleton]
    split
    · next e => rw [e]; rfl
    · rfl
  · simp only [State.setTeam_teams, Tab.find_modify, if_true, found, Option.map_some]
  · intro n member
    rw [List.mem_singleton.1 member]
    exact inBin
  · simp only [Tab.wf, State.setTeam_teams, Tab.risingFrom_modify]
    exact wf
  · exact binsOn_setBins found wf rfl rfl more

theorem FiledAll.nil {s : State} {tk : Nat} {team : Team} (found : s.teams.find tk = some team) (wf : s.teams.wf = true) :
    FiledAll s s tk team [] :=
  ⟨rfl, fun _ => rfl, ⟨team, found, rfl, BinsGrow.refl _, fun _ h => by cases h⟩, wf, Nat.le_refl _⟩

theorem FiledAll.cons {s u v : State} {tk : Nat} {team team' : Team} {n : Nat × Nat} {nexts : List (Nat × Nat)} (one : FiledAll s u tk team [n])
    (found : u.teams.find tk = some team') (many : FiledAll u v tk team' nexts) : FiledAll s v tk team (n :: nexts) := by
  obtain ⟨team1, found1, core1, grow1, in1⟩ := one.filed
  obtain rfl : team' = team1 := Option.some.inj (found.symm.trans found1)
  obtain ⟨team2, found2, core2, grow2, in2⟩ := many.filed
  have waves : u.waves = s.waves := by rw [one.rest]
  have key (m : Nat × Nat) : fileKey u tk m.1 m.2 = fileKey s tk m.1 m.2 := by simp only [fileKey, State.wave, waves]
  refine ⟨?_, fun k => ?_, ⟨team2, found2, core2.trans core1, grow1.trans grow2, ?_⟩, many.room.1, ?_⟩
  · rw [many.rest, one.rest]
  · rw [many.threads, one.threads, List.map_cons, List.map_cons, List.map_nil]
    simp only [List.mem_cons, List.not_mem_nil, or_false]
    by_cases first : k = threadKey tk n.1
    · have listed : k = threadKey tk n.1 ∨ k ∈ nexts.map (fun n => threadKey tk n.1) := Or.inl first
      rw [if_pos first, if_pos listed]
      split <;> rfl
    · simp only [first, false_or, if_false]
  · intro m member
    rcases List.mem_cons.1 member with rfl | member
    · exact (in1 m List.mem_cons_self).grow grow2
    · exact key m ▸ in2 m member
  · have h1 := one.room.2
    have h2 := many.room.2
    rw [core1] at h2
    simp only [List.length_cons, List.length_nil] at h1 ⊢
    omega

/-- With bins enough on the core, every thread is filed. -/
theorem fileAll_roomy {tk : Nat} (nexts : List (Nat × Nat)) {s : State} {team : Team} (found : s.teams.find tk = some team)
    (wf : s.teams.wf = true) (room : (binsOn s team.core).length + nexts.length ≤ 64) :
    ∃ t, fileAll s tk nexts = some t ∧ FiledAll s t tk team nexts := by
  induction nexts generalizing s team with
  | nil => exact ⟨s, rfl, FiledAll.nil found wf⟩
  | cons n nexts ih =>
    obtain ⟨t, pc⟩ := n
    rw [List.length_cons] at room
    obtain ⟨u, filed, one⟩ := fileBin_roomy (t := t) (pc := pc) found wf (by omega)
    obtain ⟨team1, found1, core1, -⟩ := one.filed
    have room1 := one.room.2
    rw [List.length_singleton, ← core1] at room1
    obtain ⟨v, filed2, many⟩ := ih found1 one.room.1 (by rw [core1] at *; omega)
    exact ⟨v, by rw [fileAll, filed]; exact filed2, one.cons found1 many⟩

/-! ### A group that decides its lanes' next places -/

theorem countIssue_thread (s : State) (c : Ctx) (u : Bool) (k : Nat) : ∃ n, (countIssue s c u).thread k = { s.thread k with issued := n } := by
  simp only [State.thread, countIssue, Tab.find_mapVals]
  cases s.threads.find k with
  | none => exact ⟨Thread.init.issued, rfl⟩
  | some t =>
    simp only [Option.map_some, Option.getD_some]
    split
    · exact ⟨_, rfl⟩
    · exact ⟨t.issued, rfl⟩

/-- A gang but for its counters. -/
def CountersOnly (g h : Gang) : Prop := ∃ cs, h = { g with counters := cs }

theorem CountersOnly.count (g : Gang) (sel n : Nat) : CountersOnly g (g.count sel n) := ⟨_, rfl⟩

theorem CountersOnly.trans {g h i : Gang} (first : CountersOnly g h) (second : CountersOnly h i) : CountersOnly g i := by
  obtain ⟨cs, rfl⟩ := first
  obtain ⟨ds, rfl⟩ := second
  exact ⟨ds, rfl⟩

/-- The gang after an issue has been counted (R388). -/
def Gang.tallied (g : Gang) (c : Ctx) (u : Bool) : Gang :=
  let g := g.count 2 (if u then max 1 (waveNos c.lanes).length else 1)
  let g := if u then g else g.count 3 1
  if c.inHeat then g.count 8 1 else g

theorem countIssue_gang (s : State) (c : Ctx) (u : Bool) (k : Nat) : (countIssue s c u).gangs.find k =
    if k = c.gk then (s.gangs.find k).map fun g => g.tallied c u else s.gangs.find k := by
  simp only [countIssue, Tab.find_modify, Gang.tallied]

theorem Gang.tallied_counters (g : Gang) (c : Ctx) (u : Bool) : CountersOnly g (g.tallied c u) := by
  have first := CountersOnly.count g 2 (if u then max 1 (waveNos c.lanes).length else 1)
  unfold Gang.tallied
  generalize g.count 2 _ = h at first ⊢
  have second : CountersOnly g (if u then h else h.count 3 1) := by
    cases u
    · exact first.trans (CountersOnly.count h 3 1)
    · exact first
  cases c.inHeat
  · exact second
  · exact second.trans (CountersOnly.count _ 8 1)

/-- The gang's counters after an issue. -/
theorem countIssue_gangs {s : State} {c : Ctx} (u : Bool) (found : s.gangs.find c.gk = some c.gang) : ∃ cs, ∀ k,
    (countIssue s c u).gangs.find k = (s.gangs.find k).map fun g => if k = c.gk then { g with counters := cs } else g := by
  obtain ⟨cs, tallied⟩ := Gang.tallied_counters c.gang c u
  refine ⟨cs, fun k => ?_⟩
  rw [countIssue_gang]
  split
  · next e => rw [e, found, Option.map_some, Option.map_some, tallied]
  · cases s.gangs.find k <;> rfl

/-- Counting an issue moves no team off its core. -/
theorem countIssue_binsOn {s : State} {c : Ctx} {u : Bool} (found : s.gangs.find c.gk = some c.gang) (core : Nat) :
    binsOn (countIssue s c u) core = binsOn s core := by
  obtain ⟨cs, gangs⟩ := countIssue_gangs u found
  have on : teamOn (countIssue s c u) core = teamOn s core := by
    funext tk t
    simp only [teamOn, gangs]
    congr 1
    cases s.gangs.find (gangOfTeam tk) with
    | none => rfl
    | some g => simp only [Option.map_some, Option.any_some]; split <;> rfl
  simp only [binsOn, teamsOn, on]
  rfl

section
variable {i : Instr} {s : State} {c : Ctx} {next : Ctx → Lane → Nat}

/-- R102: lanes that agree go on as a group. -/
theorem jumped_of_whole (of : Ctx.Of s c) (ends : (issOf i).wend = true) (quiet : (issOf i).mem = false) (pc : Nat) :
    Jumped s ((countIssue (acted i s c) (acting i c) true).goto c.gkey pc) c (c.at pc) := by
  refine ⟨rfl, ?_, ?_, fun k other => ?_⟩
  · obtain ⟨cs, gangs⟩ := countIssue_gangs (s := acted i s c) (c := acting i c) true of.gang
    exact ⟨cs, gangs⟩
  · simp only [State.goto, State.setGroup_groups, Tab.find_modify, countIssue, acted, pastWaits_group, if_true, of.group, Option.map_some,
      pruned, ends, quiet, Bool.false_eq_true, if_false, Ctx.at]
  · simp only [State.goto, State.setGroup_groups, Tab.find_modify, countIssue, acted, pastWaits_group, if_neg other]

/-- R102, R104: the group dissolves where the core has bins enough. -/
theorem dissolve_roomy (of : Ctx.Of s c) (room : BinRoom s c) : ∃ t, dissolve (countIssue (acted i s c) (acting i c) true) c.gkey
      (c.lanes.map fun l => (l.t, next c l)) = some t ∧
    Filed s t c c.lanes (fun l => (l.wv.getC 31, next c l)) ∧ t.waves = s.waves := by
  obtain ⟨wf, bins⟩ := room
  let s1 := (countIssue (acted i s c) (acting i c) true).freeGroup c.gkey
  have sameBins : binsOn s1 c.team.core = binsOn s c.team.core := countIssue_binsOn (s := acted i s c) (c := acting i c) of.gang _
  obtain ⟨t, filed, all⟩ := fileAll_roomy (s := s1) (tk := c.tk) (c.lanes.map fun l => (l.t, next c l)) of.team wf
    (by rw [sameBins, List.length_map]; exact bins)
  have waves : t.waves = s.waves := by rw [all.rest]; rfl
  refine ⟨t, by rw [dissolve, ← of.tk]; exact filed, ⟨?_, ?_, ?_, fun l member => ?_, fun l member => ?_⟩, waves⟩
  · rw [all.rest]; rfl
  · rw [all.rest]; rfl
  · rw [all.rest]
    exact (Tab.find_del _ _ _).trans (if_pos rfl)
  · obtain ⟨key, thread, -⟩ := of.lane member
    obtain ⟨n, counted⟩ := countIssue_thread (acted i s c) (acting i c) true l.key
    refine ⟨n, ?_⟩
    rw [all.threads, if_pos, show s1.thread l.key = _ from counted, thread]
    · rfl
    · rw [List.map_map, List.mem_map]
      exact ⟨l, member, key.symm⟩
  · obtain ⟨-, -, waveKey_eq, wave⟩ := of.lane member
    obtain ⟨team, found, -, -, inBins⟩ := all.filed
    obtain ⟨b, bin, holds, keyed⟩ := inBins (l.t, next c l) (List.mem_map.2 ⟨l, member, rfl⟩)
    refine ⟨team, b, found, bin, holds, keyed.trans ?_⟩
    rw [fileKey, wave, waveKey_eq]
    rfl

/-- A window end whose effect sends every lane to its next place, under the code of its wave, is a branch. -/
theorem branches_of_proceed (encoded : isEvent i = false) (ends : (issOf i).wend = true) (quiet : (issOf i).mem = false)
    (eff : ∀ c s, (issOf i).eff (acting i c) s = proceed (acting i c) s (c.lanes.map fun l => (l.t, l.code, next c l))) :
    Branches i (fun _ _ => none) (fun _ w => w.wv) fun c l => (l.wv.getC 31, next c l) := by
  refine ⟨fun s c p issues _ together => ?_, fun s c issues _ apart room => ?_, fun s c pre w post cause obj off _ _ _ h => by cases h⟩
  all_goals
    have of := Ctx.of issues.current
    rw [exec_issues encoded issues, eff]
    simp only [proceed, List.map_map]
  · rw [if_pos]
    · have head : ((c.lanes.map ((fun n : Nat × Cap × Nat => n.2.2) ∘ fun l => (l.t, l.code, next c l))).headD (acting i c).g.pc) = p.2 := by
        cases lanes : c.lanes with
        | nil => exact absurd lanes issues.lanes
        | cons l ls => exact congrArg Prod.snd (together l (by rw [lanes]; exact List.mem_cons_self))
      rw [head]
      exact ⟨_, rfl, jumped_of_whole of ends quiet _, fun k => countIssue_thread (acted i s c) (acting i c) true k,
        fun w member => ((of.sub (List.mem_of_mem_filter member)).2).symm, fun k _ => rfl⟩
    · rw [allSame_iff]
      intro x hx y hy
      obtain ⟨l, hl, rfl⟩ := List.mem_map.1 hx
      obtain ⟨m, hm, rfl⟩ := List.mem_map.1 hy
      exact (together l hl).trans (together m hm).symm
  · obtain ⟨l, hl, m, hm, differ⟩ := apart
    obtain ⟨t, dissolved, filed, waves⟩ := dissolve_roomy (i := i) (next := next) of room
    rw [if_neg]
    · have effect : dissolve (countIssue (acted i s c) (acting i c) true) (acting i c).gkey
          (c.lanes.map ((fun n : Nat × Cap × Nat => (n.1, n.2.2)) ∘ fun l => (l.t, l.code, next c l))) = some t := dissolved
      refine ⟨t, ?_, filed, fun w member => ?_, fun k _ => ?_⟩
      · rw [effect]
        rfl
      · rw [State.wave, waves]; exact ((of.sub (List.mem_of_mem_filter member)).2).symm
      · rw [State.wave, waves]; rfl
    · rw [allSame_iff]
      intro same
      exact differ (same (l.code, next c l) (List.mem_map.2 ⟨l, hl, rfl⟩) (m.code, next c m) (List.mem_map.2 ⟨m, hm, rfl⟩))

end

/-- Settles O20: all four are `branch` with their own test. -/
theorem branchResults : Obligations.BranchResults := by
  unfold Obligations.BranchResults
  intro k o p member
  simp only [List.mem_cons, List.not_mem_nil, or_false] at member
  obtain rfl | rfl | rfl | rfl := member <;>
    exact branches_of_proceed rfl rfl rfl fun c s => by
      simp only [← branchTarget_eq]
      rfl

end Sys2Proof.Machine
end

section
/-! Module events: boot, resets, settings, power, temperatures and the management window (R404, R415, R421, R440 to R450). -/
namespace Sys2Proof.Machine

/-! ### Boot and resets -/

section
variable {s : State}

theorem FwImage.ok_iff (i : FwImage) (svn : Nat) : i.ok svn = true ↔
    i.magicOk = true ∧ i.body.length = i.size ∧ i.digest = Config.sha512 i.body ∧ Config.firmwareSigOk i.head i.sig = true ∧ svn ≤ i.svn := by
  simp only [FwImage.ok, digestOf, Bool.and_eq_true, beq_iff_eq, decide_eq_true_eq, and_assoc]

theorem bootRomStart_rom (boot : s.boot = .rom) : exec .bootRomStart s = .next { s with boot := .checking s.activeSlot } := by
  show execBootRomStart s = _
  simp only [execBootRomStart, boot]

theorem bootRomStart_checking {n : Nat} {i : FwImage} (boot : s.boot = .checking n) (slot : s.slots.find n = some i) :
    exec .bootRomStart s = .next
      (if i.magicOk = true ∧ i.body.length = i.size ∧ i.digest = Config.sha512 i.body ∧ Config.firmwareSigOk i.head i.sig = true ∧ s.fusedSvn ≤ i.svn then
        { s with boot := .verified, runningSlot := n } else { s with boot := .fallback }) := by
  show execBootRomStart s = _
  simp only [execBootRomStart, boot, slotOk, slot, ← FwImage.ok_iff]
  exact (apply_ite _ _ _ _).symm

theorem bootRomStart_fallback (boot : s.boot = .fallback) : exec .bootRomStart s = .next (if slotOk s (1 - s.activeSlot) = true then
    { s with boot := .verified, runningSlot := 1 - s.activeSlot } else { s with boot := .recovery, fns := [(0, Fn.physical)] }) := by
  show execBootRomStart s = _
  simp only [execBootRomStart, boot, otherSlot]
  exact (apply_ite _ _ _ _).symm

theorem bootRomStart_verified {i : FwImage} (boot : s.boot = .verified) (slot : s.slots.find s.runningSlot = some i) : exec .bootRomStart s = .next
    { s with boot := .initialising, runningSvn := i.svn, m0 := extend s.m0 i.digest, serviceCores := List.range 32 } := by
  show execBootRomStart s = _
  simp only [execBootRomStart, boot, slot]

theorem trainingDone_ready (boot : s.boot = .initialising) :
    exec .trainingDone s = .next { s with boot := .ready, colours := [], valid := [], fns := [(0, Fn.physical)] } := if_pos boot

/-- A reset clears the module's own memory and keeps what stands outside it. -/
theorem readByte_resetModule (s : State) (a : Nat) : readByte (resetModule s).mem a = if 2 ^ 64 ≤ a then readByte s.mem a else 0 := by
  refine (sget_filter 0#8 s.mem (fun k => decide (2 ^ 64 ≤ k)) a).trans ?_
  simp only [decide_eq_true_eq]
  rfl

theorem moduleReset_elsewhere (boot : s.boot ≠ .ready) : exec .moduleReset s = .next s := if_pos boot

/-- Where no launch is open, a function's end completes none. -/
theorem resetAll_idle (idle : ∀ fn, openLaunches s fn = []) (fns : List Nat) : resetAll fns s = .next s := by
  induction fns with
  | nil => rfl
  | cons fn fns ih =>
    rw [resetAll, idle]
    cases s.fns.find fn <;> exact ih

theorem moduleReset_idle (boot : s.boot = .ready) (idle : ∀ fn, openLaunches s fn = []) : exec .moduleReset s = exec .coldReset s := by
  show execModuleReset s = execColdReset s
  rw [execModuleReset, if_neg (not_not.2 boot), resetAll_idle idle]
  rfl

end

/-! ### Settings -/

section
variable {s : State} {fn n v : Nat} {f : Fn}

theorem settingWrite_elsewhere (boot : s.boot ≠ .ready) : exec (.settingWrite fn n v) s = .next s := if_pos boot

/-- In Ready, a setting of a function that may exist. -/
theorem settingWrite_ready (ready : s.boot = .ready) (exist : fn ≤ 64) (notDebug : n ≠ 12)
    (setting : applySetting ((s.fns.find fn).getD Fn.init) n v = some f)
    (free : ((n = 3 && quadsBusy s fn f.quads) || (n = 13 && !freshObjs s ((s.fns.find fn).getD Fn.init) (imageOf (v / 2 ^ 64)))) = false) :
    exec (.settingWrite fn n v) s = .next
      (let fns := if n = 3 then s.fns.mapVals fun k g => if k = fn then g else { g with quads := g.quads.filter fun q => !f.quads.contains q } else s.fns
        let s1 := { s with fns := fns.put fn f, m1 := noteSettings s (fns.put fn f) }
        if n = 13 then mapImage s1 f (imageOf (v / 2 ^ 64)) else s1) := by
  show execSettingWrite fn n v s = _
  rw [execSettingWrite, if_neg (not_not.2 ready), if_neg (Nat.not_lt.2 exist), if_neg notDebug, setting]
  simp only [free, Bool.false_eq_true, if_false]

theorem settingWrite_plain (ready : s.boot = .ready) (exist : fn ≤ 64) (plain : n ∉ [3, 12, 13])
    (setting : applySetting ((s.fns.find fn).getD Fn.init) n v = some f) :
    exec (.settingWrite fn n v) s = .next { s with fns := s.fns.put fn f, m1 := noteSettings s (s.fns.put fn f) } := by
  simp only [List.mem_cons, List.not_mem_nil, or_false, not_or] at plain
  obtain ⟨notQuads, notDebug, notImage⟩ := plain
  rw [settingWrite_ready ready exist notDebug setting (by simp [notQuads, notImage])]
  simp only [notQuads, notImage, if_false]

theorem settingWrite_image (ready : s.boot = .ready) (exist : fn ≤ 64) (setting : applySetting ((s.fns.find fn).getD Fn.init) 13 v = some f)
    (fresh : freshObjs s ((s.fns.find fn).getD Fn.init) (imageOf (v / 2 ^ 64)) = true) :
    exec (.settingWrite fn 13 v) s = .next
      (mapImage { s with fns := s.fns.put fn f, m1 := noteSettings s (s.fns.put fn f) } f (imageOf (v / 2 ^ 64))) := by
  rw [settingWrite_ready ready exist (by decide) setting (by rw [fresh]; rfl)]
  rfl

/-- R98: the image stands under the handle in the lowest digit. -/
theorem applySetting_image {g : Fn} (setting : applySetting g 13 v = some f) : f.images.find (v % 2 ^ 64) = some (imageOf (v / 2 ^ 64)) := by
  obtain ⟨-, is⟩ := (Option.ite_none_left_eq_some).1 setting
  obtain rfl := Option.some.inj is
  have handle : digit v 0 = v % 2 ^ 64 := by rw [digit, Nat.mul_zero, Nat.pow_zero, Nat.div_one]
  rw [handle, Tab.find_put, if_pos rfl]

/-- R39: setting 12 names a launch of the function and what the debugger does to it. -/
theorem settingWrite_debug {lk op : Nat} {l : Launch} (ready : s.boot = .ready) (exist : fn ≤ 64) (low : op < 4)
    (launch : s.launches.find lk = some l) (owner : l.fn = fn) : exec (.settingWrite fn 12 (4 * lk + op)) s = .next (debug s lk op).wake := by
  have named : (4 * lk + op) / 4 = lk := by omega
  have does : (4 * lk + op) % 4 = op := by omega
  show execSettingWrite fn 12 (4 * lk + op) s = _
  rw [execSettingWrite, if_neg (not_not.2 ready), if_neg (Nat.not_lt.2 exist), if_pos rfl, named, does, launch]
  simp [owner]

theorem quadsBusy_eq_false {qs : List Nat}
    (free : ∀ gk g, (gk, g) ∈ s.gangs → g.occupies = true → (s.fnOf (launchOfGang gk) = fn ↔ g.quad ∈ qs)) : quadsBusy s fn qs = false := by
  rw [quadsBusy, List.any_eq_false]
  rintro ⟨gk, g⟩ member busy
  simp only [Bool.and_eq_true, bne_iff_ne] at busy
  obtain ⟨occupies, differ⟩ := busy
  refine differ ?_
  rw [Bool.eq_iff_iff, beq_iff_eq, List.contains_iff_mem]
  exact free gk g member occupies

/-- R421: the quads that a function gets leave every other. -/
theorem settingWrite_quads (ready : s.boot = .ready) (exist : fn ≤ 64)
    (is : f = { (s.fns.find fn).getD Fn.init with quads := (List.range Config.quads).filter fun k => v.testBit k })
    (free : ∀ gk g, (gk, g) ∈ s.gangs → g.occupies = true → (s.fnOf (launchOfGang gk) = fn ↔ g.quad ∈ f.quads)) :
    ∃ t, exec (.settingWrite fn 3 v) s = .next t ∧ t.fns.find fn = some f ∧
      (∀ k g, k ≠ fn → s.fns.find k = some g → ∃ g', t.fns.find k = some g' ∧ ∀ q, q ∈ g'.quads ↔ q ∈ g.quads ∧ q ∉ f.quads) ∧ t.mem = s.mem := by
  have setting : applySetting ((s.fns.find fn).getD Fn.init) 3 v = some f := by
    rw [is]
    simp only [applySetting, maskList, bit_eq_testBit]
  rw [settingWrite_ready ready exist (by decide) setting (by simp [quadsBusy_eq_false free])]
  refine ⟨_, rfl, ?_, fun k g other found => ?_, rfl⟩
  · exact (Tab.find_put _ _ _ _).trans (if_pos rfl)
  · have after : (s.fns.mapVals fun k g => if k = fn then g else { g with quads := g.quads.filter fun q => !f.quads.contains q }).find k =
        some (if k = fn then g else { g with quads := g.quads.filter fun q => !f.quads.contains q }) := by rw [Tab.find_mapVals, found]; rfl
    refine ⟨_, (Tab.find_put _ _ _ _).trans ((if_neg other).trans after), fun q => ?_⟩
    simp only [if_neg other, List.mem_filter, Bool.not_eq_true', ← Bool.not_eq_true, List.contains_iff_mem]

/-- R404: an entry of the capability table as the value of setting 11. -/
theorem applySetting_capability {h : Nat} {k : Cap} (nonzero : 0 < h) (small : h < 65536) :
    applySetting f 11 (h + 65536 * k.bits.toNat + (if k.valid then 2 ^ 144 else 0)) =
      if k.wellMade = true then some { f with caps := f.caps.put h k } else none := by
  obtain ⟨bits, valid⟩ := k
  have size := bits.isLt
  let w := h + 65536 * bits.toNat + (if valid then 2 ^ 144 else 0)
  have handle : w % 65536 = h := by simp only [w]; split <;> omega
  have field : BitVec.ofNat 128 (w / 65536) = bits := by
    refine BitVec.eq_of_toNat_eq ?_
    rw [BitVec.toNat_ofNat]
    simp only [w]
    split <;> omega
  have flag : bit w 144 = valid := by
    have top : w / 2 ^ 144 % 2 = if valid then 1 else 0 := by simp only [w]; split <;> omega
    rw [bit, top]
    cases valid <;> rfl
  show (if w % 65536 = 0 ∨ (!(⟨BitVec.ofNat 128 (w / 65536), bit w 144⟩ : Cap).wellMade) = true then none else
    some { f with caps := f.caps.put (w % 65536) ⟨BitVec.ofNat 128 (w / 65536), bit w 144⟩ }) = _
  rw [handle, field, flag]
  cases (⟨bits, valid⟩ : Cap).wellMade
  · simp
  · simp [Nat.pos_iff_ne_zero.1 nonzero]

theorem Cap.wellMade_spec {k : Cap} (made : k.wellMade = true) : (k.valid = true → k.object ≠ 0) ∧ k.bits.toNat % 16 = 0 ∧ k.rights < 64 := by
  simp only [Cap.wellMade, Bool.and_eq_true, Bool.or_eq_true, beq_iff_eq, bne_iff_ne, Bool.not_eq_true'] at made
  obtain ⟨⟨low, rights⟩, object⟩ := made
  refine ⟨fun valid => object.resolve_left (by simp [valid]), ?_, by omega⟩
  simpa [Cap.field] using low

end

/-! ### Dividers and power -/

section
variable {s : State}

/-- The divider that a named quad gets: 8 on a die in the over-temperature action (R442). -/
def dividerSet (s : State) (p : Nat × Nat) : Nat := if sget .cool s.thermal (dieOfQuad p.1) = .hot then 8 else p.2

theorem setDividers_eq (s : State) (ds : List (Nat × Nat)) :
    setDividers s ds = { s with dividers := ds.foldl (fun t p => sset 1 t p.1 (dividerSet s p)) s.dividers } := rfl

/-- A quad that is not named keeps its divider. -/
theorem sget_setDividers_unnamed {ds : List (Nat × Nat)} {q : Nat} (unnamed : ∀ p ∈ ds, p.1 ≠ q) :
    sget 1 (setDividers s ds).dividers q = sget 1 s.dividers q := by
  rw [setDividers_eq]
  generalize s.dividers = t
  induction ds generalizing t with
  | nil => rfl
  | cons p ds ih =>
    rw [List.foldl_cons, ih fun p' member => unnamed p' (List.mem_cons_of_mem _ member), sget_sset,
      if_neg (unnamed p List.mem_cons_self).symm]

/-- Entries of one quad that all give it the same divider set it so. -/
theorem sget_setDividers_named {ds : List (Nat × Nat)} {q v : Nat} (agree : ∀ p ∈ ds, p.1 = q → dividerSet s p = v)
    (named : ∃ p ∈ ds, p.1 = q) : sget 1 (setDividers s ds).dividers q = v := by
  rw [setDividers_eq]
  generalize s.dividers = t
  induction ds generalizing t with
  | nil => simp at named
  | cons p ds ih =>
    have agreeLater : ∀ p' ∈ ds, p'.1 = q → dividerSet s p' = v := fun p' member => agree p' (List.mem_cons_of_mem _ member)
    rw [List.foldl_cons]
    by_cases later : ∃ p' ∈ ds, p'.1 = q
    · exact ih agreeLater later _
    · have here : p.1 = q := by
        obtain ⟨p', member, is⟩ := named
        rcases List.mem_cons.1 member with rfl | member
        · exact is
        · exact absurd ⟨p', member, is⟩ later
      have after := sget_setDividers_unnamed (s := { s with dividers := sset 1 t p.1 (dividerSet s p) }) (ds := ds) (q := q)
        fun p' member is => later ⟨p', member, is⟩
      rw [setDividers_eq] at after
      refine after.trans ?_
      rw [sget_sset, if_pos here.symm, agree p List.mem_cons_self here]

/-- R415, R440, R441: a sample within its span sets the dividers named and records the draw. -/
theorem powerSample_records {rates : List Nat} {ds : List (Nat × Nat)} (due : s.sampled ≤ s.now / 5 / 10000) (legal : dividersOk ds = true)
    (sets : (if 2400 < projectedDraw rates then slows s ds else restores s ds) = true) : ∃ t, exec (.powerSample rates ds) s = .next t ∧
    t = { s with dividers := t.dividers, sensors := t.sensors, sampled := s.now / 5 / 10000 + 1 } ∧
    sget 0 t.sensors 0 = min (projectedDraw rates) (if ds = [] then 2880 else 2400) ∧
    (∀ q d, ds = [(q, d)] → sget 1 t.dividers q = (if sget .cool s.thermal (q / 40) = .hot then 8 else d)) ∧
    ∀ q, (∀ p ∈ ds, p.1 ≠ q) → sget 1 t.dividers q = sget 1 s.dividers q := by
  refine ⟨{ setDividers s ds with sensors := sset 0 s.sensors 0 (sampledDraw (projectedDraw rates) !ds.isEmpty), sampled := s.span + 1 }, ?_, rfl, ?_, ?_, ?_⟩
  · refine if_pos ?_
    have span : decide (s.sampled ≤ s.span) = true := decide_eq_true due
    rw [legal, span]
    exact sets
  · refine (sget_sset _ _ _ _ _).trans ((if_pos rfl).trans ?_)
    cases ds <;> rfl
  · rintro q d rfl
    refine sget_setDividers_named (fun p member _ => ?_) ⟨_, List.mem_cons_self, rfl⟩
    rw [List.mem_singleton.1 member]
    rfl
  · exact fun q unnamed => sget_setDividers_unnamed unnamed

theorem powerSample_early {rates : List Nat} {ds : List (Nat × Nat)} (early : s.now / 5 / 10000 < s.sampled) :
    exec (.powerSample rates ds) s = notNow := by
  refine if_neg ?_
  have span : decide (s.sampled ≤ s.span) = false := decide_eq_false (Nat.not_le.2 early)
  rw [span]
  exact Bool.false_ne_true

theorem projectedDraw_five (x₁ x₂ x₃ x₄ x₅ : Nat) :
    projectedDraw [x₁, x₂, x₃, x₄, x₅] = 600 * x₁ / 100 + 350 * x₂ / 100 + 600 * x₃ / 100 + 200 * x₄ / 100 + 450 * x₅ / 100 := by
  simp [projectedDraw, Config.powerBudget, Nat.add_assoc]

/-- The class that a quad stands in the power manager's list with is its own. -/
theorem quadClass_of_powerQuads {q c : Nat} (listed : (q, c) ∈ powerQuads s) : quadClass s q = some c := by
  rw [powerQuads, List.mem_filterMap] at listed
  obtain ⟨q', -, is⟩ := listed
  obtain ⟨c', cls, same⟩ := Option.map_eq_some_iff.1 is
  obtain ⟨rfl, rfl⟩ := Prod.mk.inj same
  exact cls

/-- The class that a test on the power manager's list reads for a quad that stands there. -/
theorem find_powerQuads {q c : Nat} (listed : (q, c) ∈ powerQuads s) : (powerQuads s).find? (·.1 == q) = some (q, c) := by
  cases found : (powerQuads s).find? (·.1 == q) with
  | none =>
    rw [List.find?_eq_none] at found
    exact absurd (beq_self_eq_true q) (found _ listed)
  | some p =>
    obtain ⟨q', c'⟩ := p
    have is : q' = q := by simpa using List.find?_some found
    subst is
    have same := (quadClass_of_powerQuads (List.mem_of_find?_eq_some found)).symm.trans (quadClass_of_powerQuads listed)
    rw [Option.some.inj same]

/-- R415: over the limit, quads slow, and none while one of a higher class number runs at full rate. -/
theorem slows_spec {ds : List (Nat × Nat)} (slow : slows s ds = true) : (ds = [] → ∀ q c, (q, c) ∈ powerQuads s → s.divider q = 8) ∧
    ∀ p ∈ ds, s.divider p.1 < p.2 ∧
      ∃ c, (p.1, c) ∈ powerQuads s ∧ ∀ q d, (q, d) ∈ powerQuads s → c < d → 1 < (setDividers s ds).divider q := by
  simp only [slows, Bool.and_eq_true, List.all_eq_true, List.any_eq_true, decide_eq_true_eq, Bool.or_eq_true, beq_iff_eq, Bool.not_eq_true',
    List.isEmpty_eq_false_iff] at slow
  obtain ⟨⟨rise, some⟩, order⟩ := slow
  refine ⟨fun empty q c listed => (some.resolve_left fun h => h empty) _ listed, fun p member => ⟨(rise p member).1, ?_⟩⟩
  obtain ⟨⟨q, c⟩, listed, is⟩ := (rise p member).2
  obtain rfl : q = p.1 := is
  refine ⟨c, listed, fun q d other above => (order p member _ other).resolve_left ?_⟩
  rw [find_powerQuads listed]
  exact Nat.not_le.2 above

/-- R415, R442: with headroom and no die hot, dividers fall, and none while a quad of a higher class number stays slowed. -/
theorem restores_spec {ds : List (Nat × Nat)} (restore : restores s ds = true) : ∀ p ∈ ds,
    (∀ die, die < 4 → sget 0 s.sensors (16 + die) < 100 ∧ sget .cool s.thermal die = .cool) ∧ p.2 < s.divider p.1 ∧
    ∀ c, (p.1, c) ∈ powerQuads s → ∀ q d, (q, d) ∈ powerQuads s → c < d → (setDividers s ds).divider q = 1 := by
  simp only [restores, Bool.and_eq_true, List.all_eq_true, decide_eq_true_eq, Bool.or_eq_true, beq_iff_eq, List.isEmpty_iff] at restore
  obtain ⟨⟨cool, fall⟩, order⟩ := restore
  intro p member
  refine ⟨fun die low => ?_, fall p member, fun c listed q d other above => (order p member _ other).resolve_left ?_⟩
  · have cooled := cool.resolve_left (List.ne_nil_of_mem member)
    simp only [Machine.cooled, List.all_eq_true, List.mem_range, Bool.and_eq_true, decide_eq_true_eq, beq_iff_eq] at cooled
    exact cooled die low
  · rw [find_powerQuads listed]
    exact Nat.not_le.2 above

end

/-! ### Temperatures -/

section
variable {s : State} {die temp : Nat}

theorem sget_readDie (s : State) (die temp : Nat) : sget 0 (readDie s die temp).sensors (16 + die) = temp :=
  (sget_sset _ _ _ _ _).trans (if_pos rfl)

/-- R442, 100 °C to below 105 °C. -/
theorem thermalThrottle_slows {ds : List (Nat × Nat)} (hot : hottest s die temp = true) (from100 : 100 ≤ temp) (below : temp < 105)
    (action : sget .cool s.thermal die = .cool ∨ 103 ≤ temp) (legal : dividersOk ds = true) (cool : cools s die ds = true) :
    ∃ t, exec (.thermalThrottle die temp ds) s = .next t ∧ t = { s with dividers := t.dividers, sensors := t.sensors } ∧
      sget 0 t.sensors (16 + die) = temp := by
  refine ⟨setDividers (readDie s die temp) ds, if_pos ?_, rfl, sget_readDie s die temp⟩
  simpa [hot, from100, below, legal, cool] using action

theorem sget_thermal_set (s : State) (die : Nat) (h : Heatness) : sget .cool (sset .cool s.thermal die h) die = h := by
  rw [sget_sset, if_pos rfl]

/-- A die whose temperature has brought it into the over-temperature action. -/
def overheated (s : State) (die temp : Nat) : State := { readDie s die temp with thermal := sset .cool s.thermal die .hot }

theorem overTemperature_next (hot : hottest s die temp = true) (from105 : 105 ≤ temp) (upTo : temp ≤ 115) (cool : sget .cool s.thermal die = .cool) :
    exec (.overTemperature die temp) s =
      .next { setDividers (overheated s die temp) ((dieQuads die).map (·, 8)) with reports := (1, die) :: s.reports } :=
  if_pos (by simp [hot, from105, upTo, cool])

/-- R442, 105 °C to 115 °C: the die's own quads, at divider 8. -/
theorem overTemperature_holds (hot : hottest s die temp = true) (from105 : 105 ≤ temp) (upTo : temp ≤ 115)
    (cool : sget .cool s.thermal die = .cool) : ∃ t, exec (.overTemperature die temp) s = .next t ∧
    t = { s with dividers := t.dividers, sensors := t.sensors, thermal := t.thermal, reports := (1, die) :: s.reports } ∧ sget .cool t.thermal die = .hot ∧
    (∀ q, q / 40 = die → sget 1 t.dividers q = 8) ∧ ∀ q, q / 40 ≠ die → sget 1 t.dividers q = sget 1 s.dividers q := by
  refine ⟨_, overTemperature_next hot from105 upTo cool, ?_, ?_, fun q own => ?_, fun q other => ?_⟩
  · simp only [setDividers_eq, overheated, readDie]
  · simp only [setDividers_eq, overheated, sget_thermal_set]
  · refine sget_setDividers_named (s := overheated s die temp) (ds := (dieQuads die).map (·, 8)) (fun p member is => ?_) ⟨(q, 8), ?_, rfl⟩
    · obtain ⟨q', -, rfl⟩ := List.mem_map.1 member
      exact ite_self 8
    · refine List.mem_map.2 ⟨q, List.mem_map.2 ⟨q % 40, List.mem_range.2 (Nat.mod_lt _ (by decide)), ?_⟩, rfl⟩
      simp only [Config.quadsPerDie]
      omega
  · refine sget_setDividers_unnamed (s := overheated s die temp) (ds := (dieQuads die).map (·, 8)) fun p member is => other ?_
    obtain ⟨q', own, rfl⟩ := List.mem_map.1 member
    obtain ⟨k, low, rfl⟩ := List.mem_map.1 own
    have bound : k < 40 := List.mem_range.1 low
    simp only [Config.quadsPerDie] at is
    omega

/-- No die reads above the hottest. -/
theorem sensor_le_topTemp (s : State) {d : Nat} (die : d < 4) : sget 0 s.sensors (16 + d) ≤ topTemp s := by
  have dies : topTemp s = max (max (max (max 0 (sget 0 s.sensors 16)) (sget 0 s.sensors 17)) (sget 0 s.sensors 18)) (sget 0 s.sensors 19) := rfl
  rw [dies]
  interval_cases d <;> simp

/-- R442: the row of the hottest die's temperature is in force. -/
theorem rowHolds_spec {t : State} (row : rowHolds s t = true) : (∀ d, d < 4 → sget 0 t.sensors (16 + d) ≤ topTemp t) ∧
    (topTemp t < 100 ∨ (topTemp t < 105 ∧ 100 ≤ topTemp s) ∨
      topTemp t ≤ 115 ∧ ∃ d, d < 4 ∧ sget 0 t.sensors (16 + d) = topTemp t ∧ sget .cool t.thermal d = .hot) := by
  refine ⟨fun d die => sensor_le_topTemp t die, ?_⟩
  simp only [rowHolds, Bool.or_eq_true, Bool.and_eq_true, decide_eq_true_eq, List.any_eq_true, List.mem_range, beq_iff_eq, or_assoc] at row
  exact row

theorem overTemperatureClear_leaves (hot : sget .cool s.thermal die = .hot) (below : temp < 103)
    (row : rowHolds s { s with sensors := sset 0 s.sensors (16 + die) temp, thermal := sset .cool s.thermal die .cool } = true) :
    ∃ t, exec (.overTemperatureClear die temp) s = .next t ∧ t = { s with sensors := t.sensors, thermal := t.thermal } ∧
      sget .cool t.thermal die = .cool :=
  ⟨_, if_pos ⟨hot, below, row⟩, rfl, sget_thermal_set s die .cool⟩

theorem thermalTrip_stops (here : die < 4) (above : 115 < temp) : ∃ t, exec (.thermalTrip die temp) s = .next t ∧
    t = { s with sensors := t.sensors, boot := .tripped } := ⟨_, if_pos ⟨here, above⟩, rfl⟩

end

/-! ### The management window -/

section
variable {s : State} {fn object off size data : Nat} {op : HostOp}

theorem hostMemoryAccess_window (read : op.op = 3) (linked : hostCut s = false) :
    exec (.hostMemoryAccess 0 object off size op data) s = .next (readWindow s off size) := by
  show execHostMemoryAccess 0 object off size op data s = _
  rw [execHostMemoryAccess, if_pos ⟨read, rfl⟩, linked]
  rfl

/-- R444: before Ready every other window reads zero. -/
theorem hostMemoryAccess_elsewhere (boot : s.boot ≠ .ready) (other : op.op ≠ 3 ∨ fn ≠ 0) :
    exec (.hostMemoryAccess fn object off size op data) s = .next
      (if op.op = 0 ∧ hostCut s = false then { s with replies := ((bytesOf 0 size).map (BitVec.ofNat 8)) :: s.replies } else s) := by
  show execHostMemoryAccess fn object off size op data s = _
  rw [execHostMemoryAccess, if_neg (by rintro ⟨h, g⟩; exact other.elim (· h) (· g)), if_pos boot]
  simp only [Bool.and_eq_true, decide_eq_true_eq, Bool.not_eq_true']
  rfl

/-- R450: inside the feature list the window gives its bytes. -/
theorem readWindow_reply (s : State) (off size : Nat) : ∃ bs, (readWindow s off size).replies = bs :: s.replies ∧ bs.length = size ∧
    ∀ i, i < size → off + i < 0x48 → bs[i]? = some (featureByte (off + i)) := by
  refine ⟨_, rfl, by simp, fun i inside listed => ?_⟩
  rw [List.getElem?_map, List.getElem?_range inside]
  exact congrArg some (if_pos listed)

/-- R450: the words of the list that the spec gives. -/
theorem readWindow_words (s : State) : ∀ p ∈ [(0x000, 0x0120080401010001), (0x008, 0x0000000000400428), (0x010, 0x0000000101010005),
    (0x020, 0x0000000002010042), (0x040, 0)], (readWindow s p.1 8).replies = ((bytesOf p.2 8).map (BitVec.ofNat 8)) :: s.replies := by
  intro p member
  simp only [List.mem_cons, List.not_mem_nil, or_false] at member
  obtain rfl | rfl | rfl | rfl | rfl := member <;> rfl

theorem featureNext_headers : [featureNext 0 0x0120080401010001, featureNext 0x10 0x0000000101010005, featureNext 0x20 0x0000000002010042,
    featureNext 0x40 0] = [some 0x10, some 0x20, some 0x40, none] := rfl

end

/-- Settles O59: each clause is the lemma of its event. -/
theorem moduleEvents : Obligations.ModuleEvents := by
  unfold Obligations.ModuleEvents
  refine ⟨fun s => bootRomStart_rom, fun s n i => bootRomStart_checking, fun s => bootRomStart_fallback, fun s i => bootRomStart_verified,
    fun s => trainingDone_ready, fun s => ⟨resetModule s, rfl, rfl, rfl, rfl, rfl, rfl, rfl, rfl, rfl, rfl, rfl, rfl, rfl, rfl, rfl, rfl, rfl, rfl, rfl,
      readByte_resetModule s⟩, fun s => moduleReset_elsewhere, fun s => moduleReset_idle, ?settings⟩
  case settings =>
    refine ⟨fun s fn n v f => settingWrite_plain, fun s fns => rfl, fun f v w x => rfl, fun s fn n v => settingWrite_elsewhere,
      fun s fn v f ready exist setting fresh => ⟨applySetting_image setting, settingWrite_image ready exist setting fresh⟩,
      fun s fn lk op l => settingWrite_debug, fun s fn v f => settingWrite_quads, fun f v => ⟨?_, rfl, rfl, rfl, rfl, fun h k => applySetting_capability⟩,
      fun k => Cap.wellMade_spec, ?power⟩
    · simp only [applySetting, List.contains_iff_mem]
    case power =>
      refine ⟨fun s rates ds => powerSample_records, fun s rates ds => powerSample_early, projectedDraw_five, fun s ds => slows_spec,
        fun s ds => restores_spec, ?thermal⟩
      case thermal =>
        exact ⟨fun s die temp ds => thermalThrottle_slows, fun s die temp => overTemperature_holds, fun s t => rowHolds_spec,
          fun s die temp => overTemperatureClear_leaves, fun s die temp => thermalTrip_stops,
          fun s object off size op data => hostMemoryAccess_window, fun s fn object off size op data => hostMemoryAccess_elsewhere,
          readWindow_reply, readWindow_words, featureNext_headers⟩

end Sys2Proof.Machine
end

section
/-! Uniform instructions that check every subset first (R127, R139, R154 to R156, R358). -/
namespace Sys2Proof.Machine

theorem firstBad_congr {c : Ctx} {f g : Sub → Option (Cause × Nat × Nat)} (same : ∀ w, f w = g w) : firstBad c f = firstBad c g :=
  congrArg (firstBad c) (funext same)

/-- An advance alone leaves every wave as it stands. -/
theorem subsBecome_kept {s s1 : State} {c : Ctx} {I : Iss} {b : Bool} {k : Nat} (of : Ctx.Of s c) (threads : ∀ k, s1.thread k = s.thread k)
    (waves : ∀ k, s1.wave k = s.wave k) : SubsBecome s (advance s1 (c.guarded k) I b) (c.guarded k) fun _ w => w.wv where
  subs w member := by rw [advance_wave, waves, (of.sub (List.mem_of_mem_filter member)).2]
  others k _ := by rw [advance_wave, waves]
  threads := advance_threadsKept threads

/-- A uniform instruction with a check and without an effect. -/
theorem subChecked_of_keeps {i : Instr} {n : Nat} {bad : Ctx → Sub → Option (Cause × Nat × Nat)} (encoded : isEvent i = false)
    (words : n = 1 + (issOf i).lits)
    (eff : ∀ c s, (issOf i).eff c s = match firstBad c (bad c) with
      | some t => .trap t
      | none => .done s) : SubChecked i n bad fun _ w => w.wv := by
  refine ⟨fun s c issues good => ?_, fun s c pre w post cause obj off issues subs before fails => ?_⟩
  · have of := Ctx.of issues.current
    rw [exec_issues encoded issues, eff, firstBad_none good]
    exact ⟨_, rfl, moved_of_advance of rfl rfl (J := issOf i) rfl words, subsBecome_kept of (fun _ => rfl) fun _ => rfl⟩
  · rw [exec_issues encoded issues, eff, firstBad_some subs before fails]
    rfl

/-- R154 to R156: a capability instruction that checks every subset and then writes c_d. -/
theorem subChecked_of_cIss {i : Instr} {g d : Nat} {readsC readsS : List Nat} {bad bad' : Sub → Option (Cause × Nat × Nat)} {f : Sub → Cap}
    (encoded : isEvent i = false) (iss : issOf i = cIss g d readsC readsS bad f) (check : ∀ w, bad w = bad' w) :
    SubChecked i 1 (fun _ => bad') (putC d fun _ => f) := by
  obtain rfl : bad = bad' := funext check
  exact subChecked_of encoded (by rw [iss]; rfl) fun c s => by rw [iss]; rfl

theorem Cap.has_eq (k : Cap) (rt : Right) : k.has rt = k.rights.testBit rt.bit := bit_eq_testBit _ _

/-- R154: the checks of CBND. -/
theorem cbndBad_eq (a b : Nat) (w : Sub) : cbndBad a b w =
    if (w.wv.getC a).valid = false then some (.capInvalid, (w.wv.getC a).object, ((w.wv.getC a).base + (w.wv.getS b).toNat) % 2 ^ 64)
    else if (w.wv.getC a).length < (w.wv.getS b).toNat + (w.wv.getS (b + 1)).toNat then
      some (.capBounds, (w.wv.getC a).object, ((w.wv.getC a).base + (w.wv.getS b).toNat) % 2 ^ 64) else none := by
  simp only [cbndBad, Bool.not_eq_true', gt_iff_lt]

/-- R127: HMAP's check passes where every byte of both tables names a register that may be renamed. -/
theorem hmapBad_eq (regs a b : Nat) (w : Sub) : hmapBad regs a b w =
    if ∀ k < 8, (w.wv.getS a).toNat / 256 ^ k % 256 < min regs 120 ∧ (w.wv.getS b).toNat / 256 ^ k % 256 < min regs 120
    then none else some (.heatViolation, 0, 0) := by
  refine if_congr ?_ rfl rfl
  simp only [Bool.and_eq_true, List.all_eq_true, List.mem_range, decide_eq_true_eq, forall₂_and]
  rfl

/-- R358: the checks of CKCHK in one subset. -/
def ckchkBad (a b m : Nat) (w : Sub) : Option (Cause × Nat × Nat) :=
  if (w.wv.getK a).kind ≠ (w.wv.getK b).kind then some (.illegalInstruction, 0, 0)
  else if m = 0 ∧ w.wv.getK a ≠ w.wv.getK b then some (.checkFailed, 0, 0) else none

theorem ckchk_eff (a b m : Nat) (c : Ctx) (s : State) : (issOf (.ckchk a b m)).eff c s = match firstBad c (ckchkBad a b m) with
    | some t => .trap t
    | none => .done (if m = 0 then s else eachSub c s fun w => w.wv.setQ m (decide (w.wv.getK a = w.wv.getK b))) := rfl

theorem ckchkBad_zero (a b : Nat) (w : Sub) : ckchkBad a b 0 w =
    if (w.wv.getK a).kind ≠ (w.wv.getK b).kind then some (.illegalInstruction, 0, 0)
    else if w.wv.getK a ≠ w.wv.getK b then some (.checkFailed, 0, 0) else none := by
  simp only [ckchkBad, true_and]

theorem ckchkBad_predicate {a b m : Nat} (predicate : m ≠ 0) (w : Sub) : ckchkBad a b m w =
    if (w.wv.getK a).kind ≠ (w.wv.getK b).kind then some (.illegalInstruction, 0, 0) else none := by
  simp only [ckchkBad, predicate, false_and, if_false]

/-- Settles O16: three are `cIss`, HMAP writes both tables of each subset, and CKCHK with m = 0 writes nothing. -/
theorem checkedUniformResults : Obligations.CheckedUniformResults := by
  unfold Obligations.CheckedUniformResults
  refine ⟨fun d a b g => ?_, fun d a b g => ?_, fun d a b g => ?_, fun a b => ?_, fun a b => ?_, fun a b m predicate => ?_⟩
  · exact subChecked_of_cIss rfl rfl (cbndBad_eq a b)
  · refine subChecked_of_cIss rfl rfl fun w => ?_
    cases (w.wv.getC a).valid <;> rfl
  · refine subChecked_of_cIss rfl rfl fun w => ?_
    simp only [Cap.has_eq, Right.bit, Bool.not_eq_true']
  · exact subChecked_of rfl rfl fun c s => by rw [← firstBad_congr (hmapBad_eq c.team.regs a b)]; rfl
  · exact subChecked_of_keeps rfl rfl fun c s => by rw [ckchk_eff, firstBad_congr (ckchkBad_zero a b), if_pos rfl]
  · exact subChecked_of rfl rfl fun c s => by rw [ckchk_eff, firstBad_congr (ckchkBad_predicate predicate), if_neg predicate]; rfl

end Sys2Proof.Machine
end

section
/-! Traps and their resumption (R113, R136, R390 to R392). -/
namespace Sys2Proof.Machine

/-- R390: the record of a trap of a group whose gang is no reduce kernel. -/
theorem trapRecord_of_gang {s : State} {tk : Nat} {group : Option Nat} {a : TrapArgs} {gang : Gang}
    (found : s.gangs.find (gangOfTeam tk) = some gang) (plain : gang.reduceOf = none) : trapRecord s tk group a =
      { cause := a.cause, deferredPrecise := a.deferredPrecise, fatal := a.fatal, heat := a.heat, pathB := a.pathB
        team := tk % 4, lane := a.thread % 32, wave := a.thread / 32, heatPos := a.heatPos
        vf := s.fnOf (launchOfGang (gangOfTeam tk)), gang := gangOfTeam tk % 65536, owner := gangOfTeam tk, word := a.word, pc := a.pc
        object := a.object, offset := a.offset, vt := gang.vt / 5, rt := s.now / 5 % 2 ^ 64, deferred := a.deferred, code := a.code
        launch := launchOfGang (gangOfTeam tk), group := group, resume := a.resume, shut := a.shut, done := false } := by
  simp only [trapRecord, found, plain, Option.isSome_none, Bool.false_eq_true, if_false, Gang.vtick, State.rt]

theorem takeTrap_traps (s : State) (k j : Nat) (a : TrapArgs) : (takeTrap s k a).traps.find j =
    if j = s.nextId then some (trapRecord s (teamOfGroup k) (some k) a) else s.traps.find j :=
  Tab.find_put _ _ _ _

/-- R113: the windows of the named instructions are closed. -/
theorem shutWindows_eq (g : Group) (xs : List Nat) : g.shutWindows xs =
    { g with windows := g.windows.map fun w => if w.xact ∈ xs then { w with left := 0 } else w } := by
  simp only [Group.shutWindows, List.contains_iff_mem]

theorem resumeTrap_traps (s : State) (rec k : Nat) : (resumeTrap s rec).traps.find k =
    if k = rec then (s.traps.find k).map fun r => { r with done := true } else s.traps.find k := by
  rw [resumeTrap, Tab.find_modify]

theorem resumeTrap_groups {s : State} {rec : Nat} {r : TrapRec} (found : s.traps.find rec = some r) (k : Nat) :
    (resumeTrap s rec).groups.find k = (s.groups.find k).map fun g =>
      if g.status = .trapped rec then { g.shutWindows r.shut with status := .ready } else g := by
  simp only [resumeTrap, found, Option.map_some, Option.getD_some, Tab.find_mapVals]

/-- Settles O25: what a trap writes, and what its resumption does, table by table. -/
theorem trapRecordsAndResume : Obligations.TrapRecordsAndResume := by
  unfold Obligations.TrapRecordsAndResume
  refine ⟨fun s k a g gang group found plain => ⟨rfl, fun j other => ?_, ?_, fun j other => ?_, ?_⟩,
    fun s rec r found => ⟨rfl, ?_, fun k other => ?_, fun k g group => ?_⟩⟩
  · rw [takeTrap_group, if_neg other]
  · rw [takeTrap_group, if_pos rfl, group, Option.map_some]
  · rw [takeTrap_traps, if_neg other]
  · rw [takeTrap_traps, if_pos rfl, trapRecord_of_gang found plain]
  · rw [resumeTrap_traps, if_pos rfl, found, Option.map_some]
  · rw [resumeTrap_traps, if_neg other]
  · rw [resumeTrap_groups found, group, Option.map_some, shutWindows_eq]

end Sys2Proof.Machine
end

section
/-! Jumps of a whole group (R102, R112, R121, R128). -/
namespace Sys2Proof.Machine

/-- A window end leaves its group with no window and otherwise as it stood. -/
theorem acted_group_of_end {i : Instr} {s : State} {c : Ctx} (of : Ctx.Of s c) (ends : (issOf i).wend = true) (quiet : (issOf i).mem = false) :
    (acted i s c).groups.find c.gkey = some { c.g with windows := [] } := by
  rw [acted, pastWaits_group, if_pos rfl, of.group, Option.map_some, pruned, if_pos ends, if_neg (by rw [quiet]; exact Bool.false_ne_true)]

/-- A window end that has written waves and now sets its group's place. -/
theorem jumped_of_setGroup {i : Instr} {s s1 : State} {c : Ctx} {place : Group} (of : Ctx.Of s c) (ends : (issOf i).wend = true)
    (quiet : (issOf i).mem = false) (only : s1 = { acted i s c with waves := s1.waves }) (f : Group → Group)
    (placed : f { c.g with windows := [] } = place) :
    Jumped s ((countIssue s1 (acting i c) true).setGroup c.gkey f) c place := by
  have groups : (countIssue s1 (acting i c) true).groups = (acted i s c).groups := by rw [only]; rfl
  have gang : s1.gangs.find (acting i c).gk = some (acting i c).gang := by rw [only]; exact of.gang
  obtain ⟨cs, gangs⟩ := countIssue_gangs (c := acting i c) true gang
  refine ⟨by rw [only]; rfl, ⟨cs, fun k => ?_⟩, ?_, fun k other => ?_⟩
  · rw [State.setGroup_gangs, gangs, only]
    rfl
  · rw [State.setGroup_groups, Tab.find_modify, if_pos rfl, groups, acted_group_of_end of ends quiet, Option.map_some, placed]
  · rw [State.setGroup_groups, Tab.find_modify, if_neg other, groups, acted, pastWaits_group, if_neg other]

end Sys2Proof.Machine
end

section
/-! CALL, RET and JMPC (R121 to R123). -/
namespace Sys2Proof.Machine

/-- What a window end writes before its threads go to their next places: waves, and of them those of the acting subsets. -/
structure Writes (i : Instr) (write : Ctx → State → State) (new : Ctx → Sub → Wave) : Prop where
  only : ∀ c s, write c s = { s with waves := (write c s).waves }
  become : ∀ s c, Ctx.Of s c → WavesBecome s (write (acting i c) (acted i s c)) (acting i c) new

theorem writes_nothing (i : Instr) : Writes i (fun _ s => s) fun _ w => w.wv where
  only _ _ := rfl
  become _ _ of := ⟨fun _ member => ((of.sub (List.mem_of_mem_filter member)).2).symm, fun _ _ => rfl⟩

theorem writes_eachSub (i : Instr) (new : Ctx → Sub → Wave) : Writes i (fun c s => eachSub c s (new c)) new where
  only _ _ := putSubs_rest _ _
  become s c of := by
    obtain ⟨subs, others, -⟩ := subsBecome (s := s) (s1 := acted i s c) (c := acting i c) (I := issOf i) (b := false) (new := new)
      (guarded_subs_pairwise of _) (fun _ => rfl) fun _ => rfl
    exact ⟨subs, others⟩

section
variable {i : Instr} {s s1 : State} {c : Ctx}

/-- R102, R104: where waves have been written, the group dissolves under the code that they then hold. -/
theorem dissolve_written {pc : Lane → Nat} (of : Ctx.Of s c) (only : s1 = { acted i s c with waves := s1.waves }) (room : BinRoom s c) :
    ∃ t, dissolve (countIssue s1 (acting i c) true) c.gkey (c.lanes.map fun l => (l.t, pc l)) = some t ∧
      Filed s t c c.lanes (fun l => ((s1.wave l.wk).getC 31, pc l)) ∧ t.waves = s1.waves := by
  obtain ⟨wf, bins⟩ := room
  let s2 := (countIssue s1 (acting i c) true).freeGroup c.gkey
  have teams : s2.teams = s.teams := show s1.teams = s.teams by rw [only]; rfl
  have threads : s1.thread = s.thread := by rw [only]; rfl
  have gang : s1.gangs.find (acting i c).gk = some (acting i c).gang := by rw [only]; exact of.gang
  have sameBins : binsOn s2 c.team.core = binsOn s c.team.core :=
    (countIssue_binsOn (u := true) gang c.team.core).trans (by rw [only]; rfl)
  obtain ⟨t, filed, all⟩ := fileAll_roomy (s := s2) (tk := c.tk) (c.lanes.map fun l => (l.t, pc l)) (by rw [teams]; exact of.team)
    (by rw [teams]; exact wf) (by rw [sameBins, List.length_map]; exact bins)
  refine ⟨t, by rw [dissolve, ← of.tk]; exact filed, ⟨?_, ?_, ?_, fun l member => ?_, fun l member => ?_⟩, by rw [all.rest]; rfl⟩
  · rw [all.rest]; show s1.mem = s.mem; rw [only]; rfl
  · rw [all.rest]; show s1.accesses = s.accesses; rw [only]; rfl
  · rw [all.rest]
    exact (Tab.find_del _ _ _).trans (if_pos rfl)
  · obtain ⟨key, thread, -⟩ := of.lane member
    obtain ⟨n, counted⟩ := countIssue_thread s1 (acting i c) true l.key
    refine ⟨n, ?_⟩
    rw [all.threads, if_pos, show s2.thread l.key = _ from counted, threads, thread]
    rw [List.map_map, List.mem_map]
    exact ⟨l, member, key.symm⟩
  · obtain ⟨-, -, waveKey_eq, -⟩ := of.lane member
    obtain ⟨team, found, -, -, inBins⟩ := all.filed
    obtain ⟨b, bin, holds, keyed⟩ := inBins (l.t, pc l) (List.mem_map.2 ⟨l, member, rfl⟩)
    refine ⟨team, b, found, bin, holds, keyed.trans ?_⟩
    rw [fileKey, waveKey_eq]
    rfl

variable {bad : Sub → Option (Cause × Nat × Nat)} {write : Ctx → State → State} {new : Ctx → Sub → Wave} {next : Ctx → Lane → Cap × Nat}

/-- A window end that checks every subset, writes waves and sends every lane to its next place is a branch, where the code capability of each
place is what the lane's wave then holds. -/
theorem branches_of_checked (encoded : isEvent i = false) (ends : (issOf i).wend = true) (quiet : (issOf i).mem = false)
    (writes : Writes i write new)
    (eff : ∀ c s, (issOf i).eff (acting i c) s = match firstBad (acting i c) bad with
      | some t => .trap t
      | none => proceed (acting i c) (write (acting i c) s) (c.lanes.map fun l => (l.t, next c l)))
    (code : ∀ s c, Ctx.Of s c → ∀ l ∈ c.lanes, ((write (acting i c) (acted i s c)).wave l.wk).getC 31 = (next c l).1) :
    Branches i (fun _ => bad) new next := by
  refine ⟨fun s c p issues good together => ?_, fun s c issues good apart room => ?_,
    fun s c pre w post cause obj off issues subs before fails => ?_⟩
  · have of := Ctx.of issues.current
    have only := writes.only (acting i c) (acted i s c)
    rw [exec_issues encoded issues, eff, firstBad_none good]
    simp only [proceed, List.map_map]
    rw [if_pos]
    · have head : ((c.lanes.map ((fun n : Nat × Cap × Nat => n.2.2) ∘ fun l => (l.t, next c l))).headD (acting i c).g.pc) = p.2 := by
        cases lanes : c.lanes with
        | nil => exact absurd lanes issues.lanes
        | cons l ls => exact congrArg Prod.snd (together l (by rw [lanes]; exact List.mem_cons_self))
      rw [head]
      refine ⟨_, rfl, jumped_of_setGroup of ends quiet only _ rfl, fun k => ?_, writes.become s c of⟩
      have threads : (write (acting i c) (acted i s c)).thread = s.thread := by rw [only]; rfl
      rw [← threads]
      exact countIssue_thread _ _ true k
    · rw [allSame_iff]
      intro x hx y hy
      obtain ⟨l, hl, rfl⟩ := List.mem_map.1 hx
      obtain ⟨m, hm, rfl⟩ := List.mem_map.1 hy
      exact (together l hl).trans (together m hm).symm
  · have of := Ctx.of issues.current
    obtain ⟨l, hl, m, hm, differ⟩ := apart
    obtain ⟨t, dissolved, filed, waves⟩ := dissolve_written (pc := fun l => (next c l).2) of (writes.only (acting i c) (acted i s c)) room
    rw [exec_issues encoded issues, eff, firstBad_none good]
    simp only [proceed, List.map_map]
    rw [if_neg]
    · have effect : dissolve (countIssue (write (acting i c) (acted i s c)) (acting i c) true) (acting i c).gkey
          (c.lanes.map ((fun n : Nat × Cap × Nat => (n.1, n.2.2)) ∘ fun l => (l.t, next c l))) = some t := dissolved
      obtain ⟨subs, others⟩ := writes.become s c of
      rw [effect]
      refine ⟨t, rfl, ⟨filed.mem, filed.accesses, filed.slot, filed.threads, fun l member => ?_⟩, fun w member => ?_, fun k other => ?_⟩
      · obtain ⟨team, b, found, bin, holds, keyed⟩ := filed.bins l member
        exact ⟨team, b, found, bin, holds, keyed.trans (Prod.ext (code s c of l member) rfl)⟩
      · rw [State.wave, waves]; exact subs w member
      · rw [State.wave, waves]; exact others k other
    · rw [allSame_iff]
      intro same
      exact differ (same (next c l) (List.mem_map.2 ⟨l, hl, rfl⟩) (next c m) (List.mem_map.2 ⟨m, hm, rfl⟩))
  · rw [exec_issues encoded issues, eff, firstBad_some subs before fails]
    rfl

end

/-! ### The subset of a lane -/

/-- A lane's wave is that of the subset of its wave-of-origin (R101). -/
theorem Ctx.Of.sub_of_lane {s : State} {c : Ctx} (of : Ctx.Of s c) {l : Lane} (member : l ∈ c.lanes) :
    ∃ w ∈ c.subs, w.wk = l.wk ∧ w.wv = l.wv := by
  obtain ⟨-, -, waveKey_eq, wave⟩ := of.lane member
  rw [of.subs, mkSubs]
  refine ⟨_, List.mem_map.2 ⟨l.t / 32, List.mem_eraseDups.2 (List.mem_map.2 ⟨l, member, rfl⟩), rfl⟩, waveKey_eq.symm, ?_⟩
  rw [wave, waveKey_eq]

/-- Guard 0 always holds (R78). -/
theorem guarded_zero (c : Ctx) : c.guarded 0 = c := by
  have all : c.subs.filter (fun w => guardOk 0 w.wv) = c.subs := List.filter_eq_self.2 fun _ _ => rfl
  rw [Ctx.guarded, all]

/-! ### CALL -/

/-- R121: the link that CALL leaves in s62. -/
def callLink (c : Ctx) (w : Sub) : Wave := w.wv.setS 62 (BitVec.ofNat 64 (c.g.pc + 4))

theorem call_jumps {o : Nat} {s : State} {c : Ctx} (issues : Issues (.call o) s c) :
    ∃ t, exec (.call o) s = .next t ∧ Jumped s t c (c.at (branchTo c o)) ∧ ThreadsKept s t ∧ WavesBecome s t c callLink := by
  have of := Ctx.of issues.current
  have writes := writes_eachSub (.call o) callLink
  have become := writes.become s c of
  rw [show acting (.call o) c = c from guarded_zero c] at become
  rw [exec_issues (i := .call o) rfl issues, show acting (.call o) c = c from guarded_zero c]
  refine ⟨_, rfl, ?_, fun k => ?_, become⟩
  · have jumped := jumped_of_setGroup (i := .call o) (place := c.at (branchTo c o)) of rfl rfl (writes.only c (acted (.call o) s c))
      (fun g => { g with pc := branchTarget c.g.pc o, status := .ready, acted := [] }) (by rw [branchTarget_eq]; rfl)
    rwa [show acting (.call o) c = c from guarded_zero c] at jumped
  · have threads : (eachSub c (acted (.call o) s c) (callLink c)).thread = s.thread := by rw [writes.only]; rfl
    rw [← threads]
    exact countIssue_thread _ c true k

/-! ### RET -/

/-- R122: the check of RET in one subset. -/
def retBad (a : Nat) (w : Sub) : Option (Cause × Nat × Nat) :=
  if (w.wv.getS a).toNat % 4 = 0 then none else some (.alignment, (w.wv.getC 31).object, (w.wv.getS a).toNat)

/-- R122: where RET sends a lane. -/
def retTo (a g : Nat) (c : Ctx) (l : Lane) : Cap × Nat := (l.wv.getC 31, if l.wv.getQ g then (l.wv.getS a).toNat else c.g.pc + 4)

theorem ret_eff (a g : Nat) (c : Ctx) (s : State) : (issOf (.ret a g)).eff (acting (.ret a g) c) s =
    match firstBad (acting (.ret a g) c) (retBad a) with
    | some t => .trap t
    | none => proceed (acting (.ret a g) c) s (c.lanes.map fun l => (l.t, retTo a g c l)) := by
  rw [← firstBad_congr (f := fun w => if (w.wv.getS a).toNat % 4 ≠ 0 then some (.alignment, (w.wv.getC 31).object, (w.wv.getS a).toNat) else none)
    fun w => by rw [retBad, ite_not]]
  rfl

/-! ### JMPC -/

/-- R123: the wave of a subset after JMPC. -/
def jmpcLink (d a : Nat) (c : Ctx) (w : Sub) : Wave := (w.wv.setS d (BitVec.ofNat 64 (c.g.pc + 4))).setC 31 (w.wv.getC a)

/-- R123: where JMPC sends a lane. -/
def jmpcTo (a b g : Nat) (c : Ctx) (l : Lane) : Cap × Nat :=
  if l.wv.getQ g then (l.wv.getC a, (l.wv.getS b).toNat) else (l.wv.getC 31, c.g.pc + 4)

theorem Wave.getC_setC_same (w : Wave) {r : Nat} (k : Cap) (other : r ≠ 0) : (w.setC r k).getC r = k := by
  simp only [Wave.getC, Wave.setC, if_neg other, sget_sset, if_true]

theorem Wave.setS_c (w : Wave) (d : Nat) (v : W64) : (w.setS d v).c = w.c := by
  unfold Wave.setS
  split <;> rfl

theorem jmpc_eff (d a b g : Nat) (c : Ctx) (s : State) : (issOf (.jmpc d a b g)).eff (acting (.jmpc d a b g) c) s =
    match firstBad (acting (.jmpc d a b g) c) (jmpcBad a b) with
    | some t => .trap t
    | none => proceed (acting (.jmpc d a b g) c) (eachSub (acting (.jmpc d a b g) c) s (jmpcLink d a c))
        (c.lanes.map fun l => (l.t, jmpcTo a b g c l)) := by
  have link : (fun w : Sub => { w.wv.setS d (BitVec.ofNat 64 (c.g.pc + 4)) with c := sset Cap.null w.wv.c 31 (w.wv.getC a) }) = jmpcLink d a c := by
    funext w
    rw [jmpcLink, Wave.setC, if_neg (by decide), Wave.setS_c]
  have sends : (fun l : Lane => if l.guarded g then (l.t, l.wv.getC a, (l.wv.getS b).toNat) else (l.t, l.code, c.g.pc + 4)) =
      fun l => (l.t, jmpcTo a b g c l) := by
    funext l
    rw [jmpcTo, apply_ite (Prod.mk l.t)]
    rfl
  rw [← link, ← sends]
  rfl

/-- The code capability of a lane's next place is what JMPC has left in its wave. -/
theorem jmpc_code {d a b g : Nat} {s : State} {c : Ctx} (of : Ctx.Of s c) {l : Lane} (member : l ∈ c.lanes) :
    ((eachSub (acting (.jmpc d a b g) c) (acted (.jmpc d a b g) s c) (jmpcLink d a c)).wave l.wk).getC 31 = (jmpcTo a b g c l).1 := by
  obtain ⟨subs, others⟩ := (writes_eachSub (.jmpc d a b g) (jmpcLink d a)).become s c of
  obtain ⟨w, sub, sameKey, sameWave⟩ := of.sub_of_lane member
  by_cases taken : l.wv.getQ g = true
  · have acts : w ∈ (acting (.jmpc d a b g) c).subs := List.mem_filter.2 ⟨sub, by rw [sameWave]; exact taken⟩
    have written := subs w acts
    rw [sameKey] at written
    rw [jmpcTo, if_pos taken, ← sameWave]
    exact (congrArg (·.getC 31) written).trans (Wave.getC_setC_same _ _ (by decide))
  · have kept := others l.wk fun v acts sameWk => ?_
    · rw [jmpcTo, if_neg taken, (of.lane member).2.2.2]
      exact congrArg (·.getC 31) kept
    · refine taken ?_
      obtain ⟨inSubs, guard⟩ := List.mem_filter.1 acts
      rw [(of.sub inSubs).2, ← sameWk, ← (of.lane member).2.2.2] at guard
      exact guard

/-- R123: the checks of JMPC in one subset, in their order. -/
theorem jmpcBad_eq (a b : Nat) (w : Sub) : jmpcBad a b w =
    if (w.wv.getC a).valid = false then some (.capInvalid, 0, 0) else if (w.wv.getC a).rights.testBit 2 = false then some (.capRights, 0, 0)
    else if (w.wv.getS b).toNat % 4 = 0 then none else some (.alignment, (w.wv.getC a).object, (w.wv.getS b).toNat) := by
  simp only [jmpcBad, Cap.has_eq, Right.bit, Bool.not_eq_true', ite_not]

/-- Settles O21: CALL jumps whole; RET and JMPC are checked branches, JMPC after it has written its links. -/
theorem callReturnJumpResults : Obligations.CallReturnJumpResults := by
  unfold Obligations.CallReturnJumpResults
  refine ⟨fun o s c issues => call_jumps issues, fun a g => ?_, fun d a b g => ?_⟩
  · exact branches_of_checked (next := retTo a g) rfl rfl rfl (writes_nothing _) (fun c s => ret_eff a g c s) fun s c of l member => by
      rw [retTo, (of.lane member).2.2.2]
      rfl
  · have branches := branches_of_checked (bad := jmpcBad a b) (next := jmpcTo a b g) rfl rfl rfl (writes_eachSub (.jmpc d a b g) (jmpcLink d a))
      (fun c s => jmpc_eff d a b g c s) fun s c of l member => jmpc_code of member
    rw [funext (jmpcBad_eq a b)] at branches
    exact branches

end Sys2Proof.Machine
end

section
/-! EXIT of a group in which a thread that has exited still stands (R125): the clause on the end of its team does not hold. -/
namespace Sys2Proof.Machine

/-- A state in which thread 32, which has exited, still stands in a group, beside thread 0. q1 holds in wave 0 and not in wave 1. -/
def exitedInGroup : State := { State.reset with
  boot := .ready, fns := [(0, Fn.init)], launches := [(0, nameCtx.launch)], gangs := [(0, nameCtx.gang)], teams := [(0, nameCtx.team)]
  waves := [(0, Wave.init.setQ 1 true)], threads := [(0, Thread.init), (32, { Thread.init with status := .exited })]
  groups := [(0, ⟨[0, 32], 0, .ready, none, [], [], [], 1, 0, none, false⟩)], nextId := 100, cur := some 0 }

/-- The context of its group. -/
def exitedCtx : Ctx := (ctx? exitedInGroup).get (by decide +kernel)

/-- `exit q1` issues there. -/
theorem exitedInGroup_issues : Issues (.exit 1) exitedInGroup exitedCtx where
  current := by decide +kernel
  heat := by decide +kernel
  waits := by decide +kernel
  lanes := by decide +kernel
  guard := by decide +kernel
  clear := by decide +kernel

/-- The other hypotheses of the clause: there are bins enough, the team has not ended, and the state holds both threads. -/
theorem exitedInGroup_meets : exitedInGroup.teams.wf = true ∧
    (binsOn exitedInGroup exitedCtx.team.core).length + exitedCtx.lanes.length ≤ 64 ∧ exitedCtx.team.ended = false ∧
    ∀ l ∈ exitedCtx.lanes, (exitedInGroup.threads.find l.key).isSome = true := by decide +kernel

/-- Whether team 0 has ended in the state that an outcome answers, and whether it has no thread that is live there. -/
def endedAndEmpty : Host.Outcome State Fault Refusal → Option (Bool × Bool)
  | .next t => (t.teams.find 0).map fun team => (team.ended, (liveThreads t 0).isEmpty)
  | _ => none

/-- Thread 0 exits, which ends the team; then thread 32 is filed, and is live. -/
theorem exitedInGroup_ends : exitedCtx.tk = 0 ∧ endedAndEmpty (exec (.exit 1) exitedInGroup) = some (true, false) := by decide +kernel

/-- Refutes O22: its clause on the end of the team does not ask that the group's threads are live. Where a thread that has exited still stands in
the group and its guard does not hold (`exitedInGroup`), the team ends with the last other thread, and then that thread is filed. -/
theorem not_reformAndExitResults : ¬ Obligations.ReformAndExitResults := by
  unfold Obligations.ReformAndExitResults
  rintro ⟨-, exits⟩
  obtain ⟨wf, room, going, held⟩ := exitedInGroup_meets
  obtain ⟨t, next, -, -, -, -, teams⟩ := exits 1 exitedInGroup exitedCtx exitedInGroup_issues ⟨wf, room⟩
  obtain ⟨key, after⟩ := exitedInGroup_ends
  rw [key] at teams
  rw [next, endedAndEmpty, Option.map_eq_some_iff] at after
  obtain ⟨team, found, values⟩ := after
  obtain ⟨ended, live⟩ := Prod.ext_iff.1 values
  obtain ⟨-, ends, -⟩ := teams team found
  have empty : liveThreads t 0 = [] := (ends going held).1 ended
  rw [empty] at live
  exact Bool.noConfusion live

end Sys2Proof.Machine
end

section
/-! NOP, HEAT and the waits (R117, R118, R126, R128). -/
namespace Sys2Proof.Machine

/-- The instructions of the group's windows that are not complete (R117). -/
def incompleteOf (s : State) (c : Ctx) : List Nat := (c.g.windows.map (·.xact)).filter fun x => !isComplete s c.tk x

/-- An instruction whose effect is none moves its group on. -/
theorem goesOn_of_done {i : Instr} {s : State} {c : Ctx} (encoded : isEvent i = false) (issues : Issues i s c) (oneWord : (issOf i).lits = 0)
    (eff : (issOf i).eff (acting i c) (acted i s c) = .done (acted i s c)) :
    ∃ t, exec i s = .next t ∧ Moved s t c 1 ∧ ThreadsKept s t ∧ WavesKept s t := by
  rw [exec_issues encoded issues, eff]
  exact ⟨_, rfl, moved_of_advance (Ctx.of issues.current) rfl rfl (J := issOf i) rfl (by rw [oneWord]),
    advance_threadsKept fun _ => rfl, fun _ => rfl⟩

theorem waits_of_wait {i : Instr} {s : State} {c : Ctx} (encoded : isEvent i = false) (issues : Issues i s c)
    (eff : (issOf i).eff (acting i c) (acted i s c) = .wait) : exec i s = .next (waitState (acted i s c) c) := by
  rw [exec_issues encoded issues, eff]
  rfl

/-! ### HEAT -/

/-- R128: the group stands at the first instruction of its body, each lane's path latched. -/
theorem heat_enters {k n m : Nat} {s : State} {c : Ctx} (issues : Issues (.heat k n m) s c) :
    ∃ t, exec (.heat k n m) s = .next t ∧ ThreadsKept s t ∧ WavesKept s t ∧
      Jumped s t c { c.at (c.g.pc + 4 * (if n ≤ 16 then 2 else 3)) with heat := some ⟨n, m, 0, (c.lanes.filter fun l => l.th.getP k).map (·.t)⟩ } := by
  have of := Ctx.of issues.current
  rw [exec_issues (heat_encoded k n m) issues]
  refine ⟨_, rfl, fun j => countIssue_thread (acted (.heat k n m) s c) _ true j, fun _ => rfl, jumped_of_setGroup of rfl rfl rfl _ ?_⟩
  split <;> rfl

/-! ### WAITM and WAITS -/

theorem waitm_eff (n : Nat) (s : State) (c : Ctx) : (issOf (.waitm n)).eff (acting (.waitm n) c) (acted (.waitm n) s c) =
    if (incompleteOf s c).length ≤ n then
      .done (if n = 0 then (acted (.waitm n) s c).setGroup c.gkey fun g => { g with windows := [] } else acted (.waitm n) s c)
    else match ((incompleteOf s c).filter (allFaulted s)).drop n with
      | x :: _ => .park x
      | [] => .wait := rfl

theorem Tab.modify_modify {α : Type} (t : Tab α) (k : Nat) (f g : α → α) : (t.modify k f).modify k g = t.modify k (g ∘ f) := by
  simp only [Tab.modify, List.map_map]
  refine List.map_congr_left fun p _ => ?_
  simp only [Function.comp]
  split <;> simp [*]

/-- An issue as WAITM's that is a window end: what `waitm 0` does to the windows. -/
def closing : Iss := { issWaitm 0 with wend := true }

theorem waitm_closes (s : State) (c : Ctx) :
    ((acted (.waitm 0) s c).setGroup c.gkey fun g => { g with windows := [] }) = pastWaits s c closing := by
  simp only [acted, pastWaits, State.setGroup, Tab.modify_modify]
  rfl

/-- R117: `waitm 0` goes on without a window. -/
theorem waitm_zero {s : State} {c : Ctx} (issues : Issues (.waitm 0) s c) (complete : (incompleteOf s c).length ≤ 0) :
    ∃ t, exec (.waitm 0) s = .next t ∧ Moved s t c 1 ∧ ThreadsKept s t ∧ WavesKept s t ∧
      ∃ g, t.groups.find c.gkey = some g ∧ g.windows = [] := by
  have of := Ctx.of issues.current
  rw [exec_issues (i := .waitm 0) rfl issues, waitm_eff, if_pos complete, if_pos rfl, waitm_closes]
  refine ⟨_, rfl, moved_of_advance of rfl rfl (J := closing) rfl rfl, advance_threadsKept fun _ => rfl, fun _ => rfl, ?_⟩
  have group : (advance (pastWaits s c closing) (acting (.waitm 0) c) (issOf (.waitm 0)) false).groups.find c.gkey =
      ((pastWaits s c closing).groups.find c.gkey).map fun g => g.advance (acting (.waitm 0) c) (issOf (.waitm 0)) false :=
    (advance_group _ _ _ _ _).trans (if_pos rfl)
  rw [group, pastWaits_group, if_pos rfl, of.group]
  exact ⟨_, rfl, rfl⟩

/-- R117: once few enough are incomplete the group goes on, and past `waitm 0` it has no window. -/
theorem waitm_goesOn {n : Nat} {s : State} {c : Ctx} (issues : Issues (.waitm n) s c) (few : (incompleteOf s c).length ≤ n) :
    ∃ t, exec (.waitm n) s = .next t ∧ Moved s t c 1 ∧ ThreadsKept s t ∧ WavesKept s t ∧
      (n = 0 → ∃ g, t.groups.find c.gkey = some g ∧ g.windows = []) := by
  cases n with
  | zero =>
    obtain ⟨t, next, moved, threads, waves, closed⟩ := waitm_zero issues few
    exact ⟨t, next, moved, threads, waves, fun _ => closed⟩
  | succ n =>
    obtain ⟨t, next, moved, threads, waves⟩ := goesOn_of_done (i := .waitm (n + 1)) rfl issues rfl (by rw [waitm_eff, if_pos few]; rfl)
    exact ⟨t, next, moved, threads, waves, fun h => absurd h (Nat.succ_ne_zero n)⟩

/-- R117: while too many are incomplete, and none of them has only faulted accesses, the group waits. -/
theorem waitm_waits {n : Nat} {s : State} {c : Ctx} (issues : Issues (.waitm n) s c) (many : n < (incompleteOf s c).length)
    (sound : ∀ w ∈ c.g.windows, allFaulted s w.xact = false) : exec (.waitm n) s = .next (waitState (acted (.waitm n) s c) c) := by
  have noneFaulted : (incompleteOf s c).filter (allFaulted s) = [] := by
    rw [List.filter_eq_nil_iff]
    intro x member
    obtain ⟨w, window, rfl⟩ := List.mem_map.1 (List.mem_of_mem_filter member)
    rw [sound w window]
    exact Bool.false_ne_true
  refine waits_of_wait (i := .waitm n) rfl issues ?_
  rw [waitm_eff, if_neg (Nat.not_le.2 many), noneFaulted, List.drop_nil]

theorem waits_eff (n : Nat) (s : State) (c : Ctx) : (issOf (.waits n)).eff (acting (.waits n) c) (acted (.waits n) s c) =
    if (c.lanes.all fun l => decide (storesOf s c.tk l.t ≤ n)) = true then .done (acted (.waits n) s c) else .wait := rfl

/-- Settles O23: NOP and HEAT by their effects, each wait by whether what it waits for is over. -/
theorem heatAndWaitResults : Obligations.HeatAndWaitResults := by
  unfold Obligations.HeatAndWaitResults
  refine ⟨fun g s c issues => ?_, fun k n m s c issues => heat_enters issues, fun n s c issues few => waitm_goesOn issues few,
    fun n s c issues many sound => waitm_waits issues many sound, fun n s c issues few => ?_, fun n s c issues many => ?_⟩
  · rw [exec_issues (i := .nop g) rfl issues]
    have of := Ctx.of issues.current
    exact ⟨_, rfl, moved_of_advance of rfl rfl (J := issOf (.nop g)) rfl rfl, subsBecome_kept of (fun _ => rfl) fun _ => rfl⟩
  · refine goesOn_of_done (i := .waits n) rfl issues rfl ?_
    rw [waits_eff, if_pos]
    exact List.all_eq_true.2 fun l member => decide_eq_true (few l member)
  · obtain ⟨l, member, more⟩ := many
    refine waits_of_wait (i := .waits n) rfl issues ?_
    rw [waits_eff, if_neg]
    exact fun all => absurd (of_decide_eq_true (List.all_eq_true.1 all l member)) (Nat.not_le.2 more)

end Sys2Proof.Machine
end

section
/-! Lane stores at issue (R115, R230, R232, R234, R235): the bytes that they send, and block stores. -/
namespace Sys2Proof.Machine

theorem disp32_eq_toInt (w : Nat) : disp32 w = (BitVec.ofNat 32 w).toInt := by
  rw [BitVec.toInt_eq_toNat_cond, BitVec.toNat_ofNat]
  simp only [disp32, sextN]
  split <;> split <;> omega

/-! ### The bytes of a store -/

/-- Words from a place on make one number, low word first. -/
theorem sum_words (f : Nat → Nat) (k : Nat) :
    (List.range k).foldr (fun i acc => f i + 4294967296 * acc) 0 = ((List.range k).map fun i => f i * 2 ^ (32 * i)).sum := by
  induction k generalizing f with
  | zero => rfl
  | succ k ih =>
    have shift (i : Nat) : f (i + 1) * 2 ^ (32 * (i + 1)) = 4294967296 * (f (i + 1) * 2 ^ (32 * i)) := by rw [Nat.mul_add, Nat.pow_add]; ring
    have tail := ih fun i => f (i + 1)
    rw [List.range_succ_eq_map, List.foldr_cons, List.foldr_map, List.map_cons, List.map_map, List.sum_cons, tail]
    simp only [Function.comp_def, Nat.succ_eq_add_one, shift, List.sum_map_mul_left, Nat.mul_zero, Nat.pow_zero, Nat.mul_one]

theorem plainData_eq (n k t : Nat) : plainData n k t = fieldBytes n k t := by
  funext c l
  simp only [plainData, fieldBytes, List.foldr_map, List.any_map, flagIf, ← sum_words]
  rfl

/-- Every plain, format or spill store and its twin with a displacement. -/
theorem storeForms_of {i : Nat → Nat → Nat → Nat → Instr} {j : Nat → Nat → Nat → Nat → Nat → Instr} {n k : Nat}
    {data : Nat → Ctx → Lane → Nat × Flags5 × Nat} (encoded : ∀ t x b la w, isEvent (i t x b la) = false ∧ isEvent (j t x b la w) = false)
    (iss : ∀ t x b la w, issOf (i t x b la) = laneStore n k (data t) 0 0 t x b la ∧
      issOf (j t x b la w) = laneStore n k (data t) 1 (disp32 w) t x b la)
    (guarded : ∀ t c g l, data t (c.guarded g) l = data t c l) : StoreForms i j n k data := by
  intro t x b la w
  obtain ⟨encodedI, encodedJ⟩ := encoded t x b la w
  obtain ⟨issI, issJ⟩ := iss t x b la w
  rw [← disp32_eq_toInt]
  exact ⟨laneStores_of encodedI issI (guarded t) rfl, laneStores_of encodedJ issJ (guarded t) rfl⟩

/-- R230: a store of plain fields. -/
theorem storeForms_of_plain {i : Nat → Nat → Nat → Nat → Instr} {j : Nat → Nat → Nat → Nat → Nat → Instr} {n k : Nat}
    (encoded : ∀ t x b la w, isEvent (i t x b la) = false ∧ isEvent (j t x b la w) = false)
    (iss : ∀ t x b la w, issOf (i t x b la) = laneStore n k (plainData n k t) 0 0 t x b la ∧
      issOf (j t x b la w) = laneStore n k (plainData n k t) 1 (disp32 w) t x b la) : StoreForms i j n k (fieldBytes n k) := by
  rw [← funext (plainData_eq n k)]
  exact storeForms_of encoded iss fun _ _ _ _ => rfl

/-- R232: a store of final roundings. -/
theorem storeForms_of_rounded {i : Nat → Nat → Nat → Nat → Instr} {j : Nat → Nat → Nat → Nat → Nat → Instr} {n : Nat} {f : Fmt}
    (encoded : ∀ t x b la w, isEvent (i t x b la) = false ∧ isEvent (j t x b la w) = false)
    (iss : ∀ t x b la w, issOf (i t x b la) = laneStore n 1 (fmtData f t) 0 0 t x b la ∧
      issOf (j t x b la w) = laneStore n 1 (fmtData f t) 1 (disp32 w) t x b la) : StoreForms i j n 1 (roundedBytes f) :=
  storeForms_of encoded iss fun _ _ _ _ => rfl

/-! ### Block stores -/

theorem blockWants_rights {n : Nat} {disp : Int} {x b : Nat} {rt : Right} {c : Ctx} : ∀ q ∈ blockWants n disp x b rt c, q.2.2.rights ≠ [] := by
  intro q member
  obtain ⟨l, -, member⟩ := List.mem_flatMap.1 member
  rcases List.mem_pair.1 member with rfl | rfl <;> exact List.cons_ne_nil _ _

theorem blockWants_reqs (n : Nat) (disp : Int) (x b : Nat) (rt : Right) (c : Ctx) :
    (blockWants n disp x b rt c).map reqOf = c.lanes.flatMap fun l => [(blockReqs n disp x b c l).1, (blockReqs n disp x b c l).2] := by
  rw [blockWants, List.map_flatMap]
  rfl

/-- The requests of a block store, two a lane, are the lanes' pairs. -/
theorem pairUp_reqs (n : Nat) (disp : Int) (x b : Nat) (c : Ctx) (ls : List Lane) :
    pairUp n disp c x ls (ls.flatMap fun l => [(blockReqs n disp x b c l).1, (blockReqs n disp x b c l).2]) =
      ls.map fun l => ⟨l, blockIndex (c.src l x), (blockAddr (c.src l x) n disp).1, (blockReqs n disp x b c l).1, (blockReqs n disp x b c l).2⟩ := by
  induction ls with
  | nil => rfl
  | cons l ls ih => rw [List.flatMap_cons, List.map_cons, ← ih]; rfl

/-- What a block store makes of its blocks: for each its accesses, and the flags of each wave. -/
def blocksMade (zb4 : Bool) (n : Nat) (disp : Int) (t x b : Nat) (c : Ctx) : List (List (Req × AKind) × List (Nat × Flags5)) :=
  (storeBlocks n disp x b c).map (blockStores c zb4 n t)

theorem blockStores_guarded (c : Ctx) (g : Nat) (zb4 : Bool) (n t : Nat) : blockStores (c.guarded g) zb4 n t = blockStores c zb4 n t := by
  funext ps
  cases ps <;> rfl

/-- A guard is no part of what a block store makes. -/
theorem blocksMade_guarded (zb4 : Bool) (n : Nat) (disp : Int) (t x b : Nat) (c : Ctx) (g : Nat) :
    blocksMade zb4 n disp t x b (c.guarded g) = blocksMade zb4 n disp t x b c := by
  rw [blocksMade, blockStores_guarded]
  rfl

/-- The accesses of a block store, in rank order. -/
def blockAccs (zb4 : Bool) (n : Nat) (disp : Int) (t x b : Nat) (c : Ctx) : List (Req × AKind) := inRankOrder c (blocksMade zb4 n disp t x b c)

/-- The lanes of a context have consumed two draws each. -/
def drawnTwice (c : Ctx) (s : State) : State := atIssue c s fun l => ⟨l.th.drew 2, 0⟩

theorem blockStore_eff {zb4 : Bool} {n lits t x b la : Nat} {disp : Int} {c : Ctx} (pass : WantsPass (blockWants n disp x b .w c)) (s : State) :
    (blockStore zb4 n lits disp t x b la).eff c s =
      if windowFits c s ((blockAccs zb4 n disp t x b c).map (·.1)) then
        .done (sendStores c ((drawnTwice c s).raiseAll ((blocksMade zb4 n disp t x b c).flatMap (·.2)))
          (c.issued [x, t, t + 1]) (blockAccs zb4 n disp t x b c))
      else .wait := by
  have made : blocksMade zb4 n disp t x b c = (blocksOf [] (pairUp n disp c x c.lanes
      (c.lanes.flatMap fun l => [(blockReqs n disp x b c l).1, (blockReqs n disp x b c l).2]))).map (blockStores c zb4 n t) := by
    rw [pairUp_reqs]
    rfl
  show (match checkWants c (blockWants n disp x b .w c) with | .error e => _ | .ok qs => _) = _
  rw [checkWants_ok pass blockWants_rights, blockWants_reqs, blockAccs, made]
  rfl

/-! ### Flags of several waves -/

theorem foldl_or (fs : List Flags5) (f : Flags5) : fs.foldl (· ||| ·) f = f ||| fs.foldl (· ||| ·) 0 := by
  induction fs generalizing f with
  | nil => exact BitVec.or_zero.symm
  | cons g fs ih =>
    rw [List.foldl_cons, List.foldl_cons, ih, ih (0 ||| g), BitVec.or_assoc]
    exact congrArg (fun x => f ||| (x ||| fs.foldl (· ||| ·) 0)) BitVec.zero_or.symm

theorem raiseAll_rest (fs : List (Nat × Flags5)) (s : State) : s.raiseAll fs = { s with waves := (s.raiseAll fs).waves } := by
  induction fs generalizing s with
  | nil => rfl
  | cons p fs ih =>
    rw [State.raiseAll, ih, raise_rest]

theorem raiseAll_wave (fs : List (Nat × Flags5)) (s : State) (k : Nat) :
    (s.raiseAll fs).wave k = (s.wave k).raise (((fs.filter fun p => p.1 == k).map (·.2)).foldl (· ||| ·) 0) := by
  induction fs generalizing s with
  | nil => exact (Wave.raise_zero _).symm
  | cons p fs ih =>
    obtain ⟨w, f⟩ := p
    rw [State.raiseAll, ih, wave_raise, List.filter_cons]
    by_cases here : k = w
    · subst here
      rw [if_pos rfl, if_pos (beq_self_eq_true k), Wave.raise_raise, List.map_cons, List.foldl_cons, foldl_or _ (0 ||| f)]
      exact congrArg (fun x => (s.wave k).raise (x ||| _)) BitVec.zero_or.symm
    · rw [if_neg here, if_neg (by simpa using fun e => here e.symm)]

theorem flagsTo_none (c : Ctx) (k : Nat) : flagsTo c k noFlags = 0 := by
  have none (ls : List Lane) : (ls.map (noFlags c)).foldl (· ||| ·) 0 = (0 : Flags5) := by
    induction ls with
    | nil => rfl
    | cons l ls ih =>
      rw [List.map_cons, List.foldl_cons, show (0 : Flags5) ||| noFlags c l = 0 from BitVec.zero_or]
      exact ih
  exact none _

/-! ### What a block store leaves -/

theorem launchAccs_threads (accs : List Access) (s : State) : (s.launchAccs accs).threads = s.threads := by rw [launchAccs_rest]

theorem advance_thread_congr {s t : State} {c : Ctx} {I : Iss} {b : Bool} {k : Nat} (same : s.threads = t.threads) :
    (advance s c I b).thread k = (advance t c I b).thread k := by
  rw [advance_thread, advance_thread, same]

section
variable {i : Instr} {zb4 : Bool} {n words lits t x b la : Nat} {disp : Int} {s : State} {c : Ctx}

/-- What the effect of a block store is for the context that acts. -/
theorem blockStore_acts (iss : issOf i = blockStore zb4 n lits disp t x b la) (pass : WantsPass (blockWants n disp x b .w c)) :
    (issOf i).eff (acting i c) (acted i s c) =
      if windowFits c s ((blockAccs zb4 n disp t x b c).map (·.1)) then
        .done (sendStores (acting i c) ((drawnTwice (acting i c) (acted i s c)).raiseAll
          ((blocksMade zb4 n disp t x b c).flatMap (·.2))) (c.issued [x, t, t + 1]) (blockAccs zb4 n disp t x b c))
      else .wait := by
  have eff := blockStore_eff (zb4 := zb4) (lits := lits) (t := t) (la := la) (c := acting i c) pass (acted i s c)
  rw [← iss] at eff
  rw [eff, blockAccs, acting, blocksMade_guarded]
  rfl

theorem sendStores_guarded (c : Ctx) (g : Nat) (s : State) (info : Issued) (reqs : List (Req × AKind)) :
    sendStores (c.guarded g) s info reqs = (s.launchAccs (reqs.map fun q => writeAccess c info q.1 q.2 false)).setGang c.gk
      (·.count 5 (reqs.map fun q => q.1.threads.length).sum) := rfl

/-- Lanes that consume two draws and stores that leave, with flags raised in some waves. -/
theorem sendStores_drawn (of : Ctx.Of s c) (I : Iss) (g : Nat) (flags : List (Nat × Flags5)) (info : Issued) (reqs : List (Req × AKind)) {u : State}
    (result : u = advance (sendStores (c.guarded g) ((drawnTwice (c.guarded g) (pastWaits s c I)).raiseAll flags) info reqs) (c.guarded g) I false) :
    Sent s u c (1 + I.lits) (reqs.map fun q => writeAccess c info q.1 q.2 false) ∧
      (∀ l ∈ c.lanes, u.thread l.key = (l.th.drew 2).counted) ∧
      (∀ k, (∀ l ∈ c.lanes, k ≠ l.key) → u.thread k = s.thread k) ∧
      ∀ k, u.wave k = (s.wave k).raise (((flags.filter fun p => p.1 == k).map (·.2)).foldl (· ||| ·) 0) := by
  rw [sendStores_guarded] at result
  generalize reqs.map (fun q => writeAccess c info q.1 q.2 false) = accs at result ⊢
  obtain ⟨lanes, others, waves⟩ := lanesBecome_sent (c' := c.guarded g) (I := I) (J := I) (new := fun _ l => l.th.drew 2) (fl := noFlags) accs id of rfl
  have only : (drawnTwice (c.guarded g) (pastWaits s c I)).raiseAll flags = { pastWaits s c I with
      threads := ((drawnTwice (c.guarded g) (pastWaits s c I)).raiseAll flags).threads
      waves := ((drawnTwice (c.guarded g) (pastWaits s c I)).raiseAll flags).waves } := by
    rw [raiseAll_rest, show drawnTwice (c.guarded g) (pastWaits s c I) = _ from putLanes_rest _ _]
  have same : (((drawnTwice (c.guarded g) (pastWaits s c I)).raiseAll flags).launchAccs accs).threads =
      ((drawnTwice (c.guarded g) (pastWaits s c I)).launchAccs accs).threads := by
    rw [launchAccs_threads, launchAccs_threads, raiseAll_rest]
  have kept (k : Nat) : (drawnTwice (c.guarded g) (pastWaits s c I)).wave k = s.wave k := by
    rw [← launchAccs_wave accs, ← Wave.raise_zero (s.wave k), ← flagsTo_none (c.guarded g) k]
    exact waves k
  subst result
  refine ⟨sent_of_advance (c' := c.guarded g) (I := I) (J := I) of rfl rfl only (fun _ => rfl) rfl, fun l member => ?_, fun k other => ?_,
    fun k => ?_⟩
  · exact (advance_thread_congr (I := I) (b := false) same).trans (lanes l member)
  · exact (advance_thread_congr (I := I) (b := false) same).trans (others k other)
  · show (((drawnTwice (c.guarded g) (pastWaits s c I)).raiseAll flags).launchAccs accs).wave k = _
    rw [launchAccs_wave, raiseAll_wave, kept]

/-- R234: the blocks' stores leave, every lane consumes two draws, and the blocks' flags go to the waves. -/
theorem blockStore_sends (encoded : isEvent i = false) (iss : issOf i = blockStore zb4 n lits disp t x b la) (count : words = 1 + lits)
    (issues : Issues i s c) (pass : WantsPass (blockWants n disp x b .w c))
    (fits : windowFits c s ((blockAccs zb4 n disp t x b c).map (·.1)) = true) : ∃ u, exec i s = .next u ∧
      Sent s u c words ((blockAccs zb4 n disp t x b c).map fun q => writeAccess c (c.issued [x, t, t + 1]) q.1 q.2 false) ∧
      (∀ l ∈ c.lanes, u.thread l.key = (l.th.drew 2).counted) ∧
      (∀ k, (∀ l ∈ c.lanes, k ≠ l.key) → u.thread k = s.thread k) ∧
      ∀ k, u.wave k = (s.wave k).raise (((((blocksMade zb4 n disp t x b c).flatMap (·.2)).filter fun p => p.1 == k).map (·.2)).foldl (· ||| ·) 0) := by
  rw [exec_issues encoded issues, blockStore_acts iss pass, if_pos fits]
  obtain rfl : words = 1 + (issOf i).lits := by rw [iss]; exact count
  exact ⟨_, rfl, sendStores_drawn (Ctx.of issues.current) (issOf i) (issOf i).guard _ _ _ rfl⟩

/-- Every block store is one of this shape. -/
theorem blockStores_of (encoded : isEvent i = false) (iss : issOf i = blockStore zb4 n lits disp t x b la) (count : words = 1 + lits) :
    BlockStores i words zb4 n disp t x b := by
  refine ⟨fun s c issues pass fits => blockStore_sends encoded iss count issues pass fits, fun s c issues pass full => ?_,
    memTraps_of encoded fun c s => by rw [iss]; rfl⟩
  have eff := blockStore_acts (i := i) (s := s) iss pass
  rw [if_neg (show ¬ windowFits c s ((blockAccs zb4 n disp t x b c).map (·.1)) = true from fun fits => Bool.false_ne_true (full.symm.trans fits))] at eff
  exact waits_of_wait encoded issues eff

end

/-- R234: ST.zb4 or ST.zb8, and its twin with a displacement. -/
theorem blockStores_pair {i j : Instr} {zb4 : Bool} {n t x b la w : Nat} (encodedI : isEvent i = false) (encodedJ : isEvent j = false)
    (issI : issOf i = blockStore zb4 n 0 0 t x b la) (issJ : issOf j = blockStore zb4 n 1 (disp32 w) t x b la) :
    BlockStores i 1 zb4 n 0 t x b ∧ BlockStores j 2 zb4 n (BitVec.ofNat 32 w).toInt t x b := by
  rw [← disp32_eq_toInt]
  exact ⟨blockStores_of encodedI issI rfl, blockStores_of encodedJ issJ rfl⟩

/-- Settles O27: the plain stores send their fields, the format stores their final roundings, VSPILL the image, each as a `laneStore`; the block
stores are `blockStore`. -/
theorem laneStoresSendAccesses : Obligations.LaneStoresSendAccesses := by
  unfold Obligations.LaneStoresSendAccesses
  refine ⟨?b8, ?b16, ?b32, ?b64, ?b128, ?bf16, ?f16, ?e4m3, ?e5m2, ?spill, fun t x b la w => ?zb4, fun t x b la w => ?zb8⟩
  case b8 => exact storeForms_of_plain (fun _ _ _ _ _ => ⟨rfl, rfl⟩) fun _ _ _ _ _ => ⟨rfl, rfl⟩
  case b16 => exact storeForms_of_plain (fun _ _ _ _ _ => ⟨rfl, rfl⟩) fun _ _ _ _ _ => ⟨rfl, rfl⟩
  case b32 => exact storeForms_of_plain (fun _ _ _ _ _ => ⟨rfl, rfl⟩) fun _ _ _ _ _ => ⟨rfl, rfl⟩
  case b64 => exact storeForms_of_plain (fun _ _ _ _ _ => ⟨rfl, rfl⟩) fun _ _ _ _ _ => ⟨rfl, rfl⟩
  case b128 => exact storeForms_of_plain (fun _ _ _ _ _ => ⟨rfl, rfl⟩) fun _ _ _ _ _ => ⟨rfl, rfl⟩
  case bf16 => exact storeForms_of_rounded (fun _ _ _ _ _ => ⟨rfl, rfl⟩) fun _ _ _ _ _ => ⟨rfl, rfl⟩
  case f16 => exact storeForms_of_rounded (fun _ _ _ _ _ => ⟨rfl, rfl⟩) fun _ _ _ _ _ => ⟨rfl, rfl⟩
  case e4m3 => exact storeForms_of_rounded (fun _ _ _ _ _ => ⟨rfl, rfl⟩) fun _ _ _ _ _ => ⟨rfl, rfl⟩
  case e5m2 => exact storeForms_of_rounded (fun _ _ _ _ _ => ⟨rfl, rfl⟩) fun _ _ _ _ _ => ⟨rfl, rfl⟩
  case spill => exact storeForms_of (fun _ _ _ _ _ => ⟨rfl, rfl⟩) (fun _ _ _ _ _ => ⟨rfl, rfl⟩) fun _ _ _ _ => rfl
  case zb4 => exact blockStores_pair rfl rfl rfl rfl
  case zb8 => exact blockStores_pair rfl rfl rfl rfl

end Sys2Proof.Machine
end

section
/-! The thin group that yields (R107) beside one whose gang is stopping (R412): the clause on which was formed first does not hold. -/
namespace Sys2Proof.Machine

/-- A group of one thread that was formed as number n. -/
def thinFormed (n : Nat) : Group := ⟨[0], 0, .ready, none, [], [], [], n, 0, none, false⟩

/-- A state in which two gangs of one launch have a team each on core 0, with a group of one thread. That of gang 0, which is quiescing, was formed
first. -/
def stoppingBeside : State := { State.reset with
  boot := .ready, fns := [(0, Fn.init)], launches := [(0, nameCtx.launch)], gangs := [(0, { nameCtx.gang with status := .quiescing }), (1, nameCtx.gang)]
  teams := [(0, nameCtx.team), (4, nameCtx.team)], groups := [(0, thinFormed 1), (257, thinFormed 2)], nextId := 100 }

/-- The group of gang 1 yields, and that of gang 0 is a thin one on the core too, of no deterministic launch. -/
theorem stoppingBeside_yields : thinGroup stoppingBeside 0 = some (257, thinFormed 2) ∧ (0, thinFormed 1) ∈ groupsOn stoppingBeside 0 ∧
    isDet stoppingBeside (teamOfGroup 0) = false := by decide +kernel

/-- Refutes O43: its clause on the thin group asks that no thin group of the core was formed before the one that yields, whereas `thinGroup` looks
only at those of gangs in service. In `stoppingBeside` the group of a quiescing gang, which stands on the core too, was formed before. -/
theorem not_groupFormationEvents : ¬ Obligations.GroupFormationEvents := by
  unfold Obligations.GroupFormationEvents
  rintro ⟨-, -, -, -, -, formedFirst, -⟩
  obtain ⟨yields, stands, free⟩ := stoppingBeside_yields
  obtain ⟨-, -, -, first⟩ := formedFirst stoppingBeside 0 257 (thinFormed 2) yields
  exact absurd (first (0, thinFormed 1) stands (by decide) rfl free) (by decide)

end Sys2Proof.Machine
end

section
/-! Stores, CTAG, atomics and contributions as they are performed at their home (R115, R143, R162, R260 to R269, R312). -/
namespace Sys2Proof.Machine

/-! ### An access that is ready -/

theorem onReady_run {s : State} {id : Nat} {a : Access} {f : Fn} (ready : Ready s id a f) (g : Access → Fn → Out) : onReady s id g = g a f := by
  obtain ⟨found, fn, issued, clear⟩ := ready
  have here : accOf s id = some (a, f) := by rw [accOf, found]; simp only [fn, Option.map_some]
  rw [onReady, here]
  simp only [issued, clear, beq_self_eq_true, Bool.and_self, if_true]

/-- Beside loads and CTAGs an access is checked as one range. -/
theorem checkAccess_whole {s : State} {f : Fn} {a : Access} (noLoad : ∀ ps, a.kind ≠ .load ps) (noTag : ∀ g col, a.kind ≠ .tag g col) :
    checkAccess s f a = checkAt s f a a.off a.size := by
  unfold checkAccess
  split
  · next ps kind => exact absurd kind (noLoad ps)
  · next g col kind => exact absurd kind (noTag g col)
  · rfl

/-! ### What else a write touches: the frames of its parts -/

theorem noteWrite_rest (s : State) (tk obj : Nat) (i : PageInfo) :
    noteWrite s tk obj i = { s with launches := (noteWrite s tk obj i).launches } := by
  unfold noteWrite
  split <;> rfl

theorem noteHost_rest (s : State) (tk : Nat) (i : PageInfo) : noteHost s tk i = { s with launches := (noteHost s tk i).launches } := by
  unfold noteHost
  split <;> rfl

theorem unforesee_rest (s : State) (a : Access) : s.unforesee a = { s with gangs := (s.unforesee a).gangs } := by
  unfold State.unforesee
  split <;> rfl

theorem corrected_rest (s : State) (a : Nat) : s.corrected a = { s with errorCounts := (s.corrected a).errorCounts } := by
  unfold State.corrected
  split <;> rfl

theorem writeMem_rest (s : State) (a n v : Nat) : s.writeMem a n v = { s with
    mem := (s.writeMem a n v).mem, valid := (s.writeMem a n v).valid, past := (s.writeMem a n v).past, versions := (s.writeMem a n v).versions } := by
  unfold State.writeMem
  split <;> rfl

theorem onAgents_rest (ks : List Nat) (f : Agent → Agent) (s : State) : s.onAgents ks f = { s with threads := (s.onAgents ks f).threads } := by
  unfold State.onAgents
  induction ks generalizing s with
  | nil => rfl
  | cons k ks ih => rw [List.foldl_cons, ih]; rfl

/-! ### Threads as agents -/

theorem OnlyAgents.refl (s : State) : OnlyAgents s s := fun _ => ⟨_, rfl⟩

theorem OnlyAgents.trans {s t u : State} (first : OnlyAgents s t) (second : OnlyAgents t u) : OnlyAgents s u := by
  intro k
  obtain ⟨a, ha⟩ := first k
  obtain ⟨b, hb⟩ := second k
  exact ⟨b, by rw [hb, ha]⟩

theorem OnlyAgents.of_threads {s t u : State} (first : OnlyAgents s t) (same : u.threads = t.threads) : OnlyAgents s u := by
  intro k
  rw [State.thread, same]
  exact first k

theorem onAgents_only (ks : List Nat) (f : Agent → Agent) (s : State) : OnlyAgents s (s.onAgents ks f) := by
  unfold State.onAgents
  induction ks generalizing s with
  | nil => exact OnlyAgents.refl s
  | cons k ks ih =>
    refine OnlyAgents.trans (fun j => ?_) (ih (s.setThread k fun t => { t with agent := f t.agent }))
    rw [thread_setThread]
    split
    · next here => exact ⟨_, by rw [here]⟩
    · exact ⟨_, rfl⟩

theorem putWords_agent (ds : List Nat) (th : Thread) (m : Nat) (g : Agent) :
    ({ th with agent := g } : Thread).putWords ds m = { th.putWords ds m with agent := g } := by
  induction ds generalizing th m with
  | nil => rfl
  | cons d ds ih => exact ih (th.setV d ⟨BitVec.ofNat 32 m, false⟩) (m / 4294967296)

/-! ### Validity bits (R143) -/

theorem clearHalves_reads (v : Tab Bool) (a k h : Nat) :
    sget false (clearHalves v a k) h = if a / 16 ≤ h ∧ h < a / 16 + k then false else sget false v h := by
  induction k generalizing v with
  | zero => rw [clearHalves, if_neg (by omega)]
  | succ k ih =>
    rw [clearHalves, ih, sget_sset]
    by_cases last : h = a / 16 + k
    · rw [if_neg (by omega), if_pos last, if_pos (by omega)]
    · rw [if_neg last]
      exact if_congr (by omega) rfl rfl

theorem writeMem_valid (s : State) {a n : Nat} (v : Nat) (sized : 0 < n) (h : Nat) :
    sget false (s.writeMem a n v).valid h = if a / 16 ≤ h ∧ h ≤ (a + n - 1) / 16 then false else sget false s.valid h := by
  have order : a / 16 ≤ (a + n - 1) / 16 := Nat.div_le_div_right (by omega)
  rw [State.writeMem, if_neg (by omega)]
  simp only [clearHalves_reads]
  exact if_congr (by omega) rfl rfl

/-! ### The orders of writes (R312) -/

theorem pushPast_find (s : State) (m : Made) (n a v b : Nat) : (s.pushPast m a n v).find b = if a ≤ b ∧ b < a + n then
    some (⟨m.no, m.place, BitVec.ofNat 8 (v / 256 ^ (b - a)), m.valid, m.relAt (s.pastOf b)⟩ :: s.pastOf b) else s.past.find b := by
  induction n generalizing a v with
  | zero => rw [State.pushPast, if_neg (by omega)]
  | succ n ih =>
    rw [State.pushPast, Tab.find_put, ih]
    by_cases first : b = a
    · rw [if_pos first, if_pos (by omega), first, Nat.sub_self, Nat.pow_zero, Nat.div_one]
    · rw [if_neg first]
      by_cases later : a + 1 ≤ b ∧ b < a + 1 + n
      · have place : b - a = b - (a + 1) + 1 := by omega
        rw [if_pos later, if_pos (by omega), place, Nat.pow_succ', Nat.div_div_eq_div_mul]
      · rw [if_neg later, if_neg (by omega)]

/-- A write that an agent has pushed enters the orders of its bytes. s0: the state in which it is made, whose orders are those of s. -/
theorem entersOrder_of_push {s s0 t : State} {m : Made} {place : Place} {c : Bool} {a n v : Nat}
    (made : m.no = s.writeNo + 1 ∧ m.place = place ∧ m.valid = c)
    (same : s0.past = s.past ∧ ∀ b, s0.pastOf b = s.pastOf b) (count : t.writeNo = s.writeNo + 1) (past : t.past = s0.pushPast m a n v) :
    EntersOrder s t place c a n v := by
  obtain ⟨no, rfl, rfl⟩ := made
  refine ⟨count, fun b low high => ⟨m.relAt (s.pastOf b), ?_⟩, fun b outside => ?_⟩
  · rw [State.pastOf, past, pushPast_find, if_pos ⟨low, high⟩, same.2, no]
    rfl
  · rw [past, pushPast_find, if_neg (by omega), same.1]

/-! ### One write of an access -/

/-- First the threads, then the launches of a state are touched. -/
theorem frame_of_parts {s t u : State} (first : t = { s with threads := t.threads }) (second : u = { t with launches := u.launches }) :
    u = { s with threads := u.threads, launches := u.launches } := by
  rw [first] at second
  rw [second]

/-- The write that an access makes in a state. -/
def accMade (s : State) (a : Access) (i : PageInfo) (valid rmw : Bool) : Made :=
  ⟨.team a.team, s.writeNo + 1, valid, relOf (.team a.team) i.atomScope (i.kind == 2) a.rel, rmw⟩

theorem noteMade_rest (s : State) (a : Access) (i : PageInfo) (no : Nat) :
    s.noteMade a i no = { s with threads := (s.noteMade a i no).threads } := onAgents_rest _ _ s

theorem writeAs_rest (s : State) (m : Made) (a n v : Nat) (sized : 0 < n) : s.writeAs m a n v = { s with
    mem := writeLE s.mem a n v, valid := (s.writeMem a n v).valid, versions := (s.writeMem a n v).versions
    past := s.pushPast m a n v, writeNo := max s.writeNo m.no } := by
  rw [State.writeAs, State.writeMem, if_neg (by omega)]

section
variable (s : State) (a : Access) (i : PageInfo) (v : Nat) (valid rmw : Bool)

theorem writeAcc_rest : writeAcc s a i v valid rmw = { s.writeAs (accMade s a i valid rmw) i.phys a.size v with
    threads := (writeAcc s a i v valid rmw).threads, launches := (writeAcc s a i v valid rmw).launches } :=
  frame_of_parts (noteMade_rest ..) (noteWrite_rest ..)

theorem writeAcc_frame (sized : 0 < a.size) : writeAcc s a i v valid rmw = { s with
    mem := writeLE s.mem i.phys a.size v, valid := (s.writeMem i.phys a.size v).valid, versions := (s.writeMem i.phys a.size v).versions
    past := s.pushPast (accMade s a i valid rmw) i.phys a.size v, writeNo := s.writeNo + 1
    threads := (writeAcc s a i v valid rmw).threads, launches := (writeAcc s a i v valid rmw).launches } := by
  have count : max s.writeNo (accMade s a i valid rmw).no = s.writeNo + 1 := Nat.max_eq_right (Nat.le_succ _)
  calc writeAcc s a i v valid rmw = _ := writeAcc_rest s a i v valid rmw
    _ = _ := by rw [writeAs_rest _ _ _ _ _ sized, count]

theorem writeAcc_valid (sized : 0 < a.size) : (writeAcc s a i v valid rmw).valid = (s.writeMem i.phys a.size v).valid := by
  rw [writeAcc_frame s a i v valid rmw sized]

theorem writeAcc_keeps : (writeAcc s a i v valid rmw).colours = s.colours ∧ (writeAcc s a i v valid rmw).accesses = s.accesses ∧
    (writeAcc s a i v valid rmw).waves = s.waves ∧ (writeAcc s a i v valid rmw).teams = s.teams := by
  rw [writeAcc_rest, State.writeAs, writeMem_rest]
  exact ⟨rfl, rfl, rfl, rfl⟩

theorem writeAcc_agents : OnlyAgents s (writeAcc s a i v valid rmw) := by
  have write : (s.writeAs (accMade s a i valid rmw) i.phys a.size v).threads = s.threads := by rw [State.writeAs, writeMem_rest]
  refine OnlyAgents.of_threads (((OnlyAgents.refl s).of_threads write).trans
    (onAgents_only (a.threads.map (threadKey a.team)) (·.made (View.ofWrite (i.kind == 2) (s.writeNo + 1) i.phys a.size)) _)) ?_
  rw [writeAcc, noteWrite_rest]
  rfl

end

/-! ### An access that has left -/

/-- No other access leaves with one that is performed. -/
theorem accGone_dropAcc {s t : State} (id : Nat) (same : t.accesses = s.accesses) : AccGone s (t.dropAcc id).wake id := by
  intro j
  rw [← same]
  exact Tab.find_del ..

/-! ### Stores (R115) -/

/-- The bytes and orders that one write of an access leaves, whatever else changes after it. s0: the state in which it is made, with the memory and
orders of s. -/
theorem writeAcc_bytes {s s0 t : State} {a : Access} {i : PageInfo} {v : Nat} {valid rmw : Bool} (sized : 0 < a.size)
    (from_s : s0.mem = s.mem ∧ s0.valid = s.valid ∧ s0.past = s.past ∧ s0.writeNo = s.writeNo)
    (mem : t.mem = (writeAcc s0 a i v valid rmw).mem) (past : t.past = (writeAcc s0 a i v valid rmw).past)
    (count : t.writeNo = (writeAcc s0 a i v valid rmw).writeNo) :
    readLE t.mem i.phys a.size = v % 256 ^ a.size ∧ BytesKept s t i.phys a.size ∧ EntersOrder s t (.team a.team) valid i.phys a.size v := by
  obtain ⟨memS, validS, pastS, noS⟩ := from_s
  rw [writeAcc_frame s0 a i v valid rmw sized] at mem past count
  refine ⟨?_, fun b outside => ?_, entersOrder_of_push (s0 := s0) ⟨congrArg (· + 1) noS, rfl, rfl⟩ ⟨pastS, fun b => ?_⟩
    (count.trans (congrArg (· + 1) noS)) past⟩
  · rw [mem, readLE_writeLE]
  · rw [mem, readByte_writeLE_outside _ _ _ _ _ outside, memS]
  · rw [State.pastOf, State.pastOf, pastS, memS, validS]

/-- The state that a store to memory leaves: one write of its access; CST then sets its half's validity bit. -/
def afterStore (s : State) (id : Nat) (a : Access) (i : PageInfo) (data : Nat) (cb : Option Bool) : State :=
  (({ writeAcc s a i data (cb.getD false) false with
    valid := cb.elim (writeAcc s a i data (cb.getD false) false).valid
      (sset false (writeAcc s a i data (cb.getD false) false).valid (i.phys / 16)) }).dropAcc id).wake

theorem store_runs {s : State} {id : Nat} {a : Access} {f : Fn} {data : Nat} {cb : Option Bool} {i : PageInfo} (ready : Ready s id a f)
    (kind : a.kind = .store data cb) (checked : checkAt s f a a.off a.size = .ok i) (noBuffer : toBuffer s a = none) :
    exec (.storeAcknowledged id) s = .next (afterStore s id a i data cb) := by
  have whole : checkAccess s f a = .ok i := by rw [checkAccess_whole (by simp [kind]) (by simp [kind]), checked]
  have run : exec (.storeAcknowledged id) s = execStoreAcknowledged id s := rfl
  rw [run, execStoreAcknowledged, onReady_run ready, kind]
  simp only [whole, noBuffer]
  cases cb <;> rfl

theorem store_performed {s : State} {id : Nat} {a : Access} {f : Fn} {data : Nat} {cb : Option Bool} {i : PageInfo} (ready : Ready s id a f)
    (kind : a.kind = .store data cb) (checked : checkAt s f a a.off a.size = .ok i) (noBuffer : toBuffer s a = none) (sized : 0 < a.size) :
    ∃ t, exec (.storeAcknowledged id) s = .next t ∧ readLE t.mem i.phys a.size = data % 256 ^ a.size ∧ BytesKept s t i.phys a.size ∧
      EntersOrder s t (.team a.team) (cb.getD false) i.phys a.size data ∧
      (∀ h, sget false t.valid h = if cb.isSome = true ∧ h = i.phys / 16 then cb.getD false
        else if i.phys / 16 ≤ h ∧ h ≤ (i.phys + a.size - 1) / 16 then false else sget false s.valid h) ∧
      t.colours = s.colours ∧ AccGone s t id ∧ OnlyAgents s t ∧ t.waves = s.waves ∧ t.teams = s.teams := by
  obtain ⟨bytes, kept, order⟩ := writeAcc_bytes (t := afterStore s id a i data cb) sized ⟨rfl, rfl, rfl, rfl⟩ rfl rfl rfl
  obtain ⟨colours, accesses, waves, teams⟩ := writeAcc_keeps s a i data (cb.getD false) false
  refine ⟨_, store_runs ready kind checked noBuffer, bytes, kept, order, fun h => ?_, colours,
    accGone_dropAcc id accesses, (writeAcc_agents s a i data (cb.getD false) false).of_threads rfl, waves, teams⟩
  rw [← writeMem_valid s data sized h, ← writeAcc_valid s a i data (cb.getD false) false sized]
  cases cb with
  | none => rfl
  | some b => exact (sget_sset ..).trans (if_congr (by simp) rfl rfl)

/-- A store to the engine buffer of an active run writes that buffer alone (R368). -/
theorem bufferStore_performed {s : State} {id : Nat} {a : Access} {f : Fn} {data : Nat} {cb : Option Bool} {p : Nat} (ready : Ready s id a f)
    (kind : a.kind = .store data cb) (colour : a.colour = 0) (buffer : toBuffer s a = some p) :
    exec (.storeAcknowledged id) s = .next ((bufferWrite s p a.off a.size data).dropAcc id).wake := by
  have passes : ∃ i, checkAccess s f a = .ok i := by
    rw [checkAccess_whole (by simp [kind]) (by simp [kind]), checkAt]
    simp only [kind, AKind.ty, buffer, colour, Option.isSome_some, if_true]
    exact ⟨_, rfl⟩
  obtain ⟨i, checked⟩ := passes
  have run : exec (.storeAcknowledged id) s = execStoreAcknowledged id s := rfl
  rw [run, execStoreAcknowledged, onReady_run ready, kind]
  simp only [checked, buffer]

/-! ### CTAG (R162) -/

theorem recolour_frame (s : State) (a : Access) (col : Nat) (p : PageInfo) : recolour s a col p = { s with
    colours := sset 0 s.colours (p.phys / 32) col, valid := sset false (sset false s.valid (p.phys / 16) false) (p.phys / 16 + 1) false
    past := (s.forget p.phys 32).past, versions := bumpSectors s.versions (p.phys / 32) 1, launches := (recolour s a col p).launches } :=
  noteWrite_rest ..

/-- What a CTAG's access is after its next granule; none: that was the last. -/
def tagAfter (a : Access) (g col : Nat) : Option Access := if g ≤ 1 then none else some { a with kind := .tag (g - 1) col, off := a.off + 32 }

/-- A CTAG recolours its next granule and stays in flight until its last. -/
theorem tag_runs {s : State} {id : Nat} {a : Access} {f : Fn} {g col : Nat} {i : PageInfo} (ready : Ready s id a f) (kind : a.kind = .tag g col)
    (checked : checkAccess s f a = .ok i) : ∃ accs, exec (.storeAcknowledged id) s = .next ({ recolour s a col i with accesses := accs }).wake ∧
      accs.find id = tagAfter a g col ∧ ∀ j, j ≠ id → accs.find j = s.accesses.find j := by
  have run : exec (.storeAcknowledged id) s = execStoreAcknowledged id s := rfl
  have same : (recolour s a col i).accesses = s.accesses := by rw [recolour_frame]
  rw [run, execStoreAcknowledged, onReady_run ready, kind]
  simp only [checked, tagAfter]
  split
  · refine ⟨_, rfl, ?_, fun j other => ?_⟩
    · rw [Tab.find_del, if_pos rfl]
    · rw [Tab.find_del, if_neg other, same]
  · refine ⟨_, rfl, ?_, fun j other => ?_⟩
    · rw [Tab.find_modify, if_pos rfl, same, ready.found]
      rfl
    · rw [Tab.find_modify, if_neg other, same]

theorem tag_performed {s : State} {id : Nat} {a : Access} {f : Fn} {g col : Nat} {i : PageInfo} (ready : Ready s id a f) (kind : a.kind = .tag g col)
    (checked : checkAccess s f a = .ok i) : ∃ t, exec (.storeAcknowledged id) s = .next t ∧ t.mem = s.mem ∧ t.threads = s.threads ∧
      t.waves = s.waves ∧ t.accesses.find id = tagAfter a g col ∧ (∀ j, j ≠ id → t.accesses.find j = s.accesses.find j) ∧
      (∀ n, sget 0 t.colours n = if n = i.phys / 32 then col else sget 0 s.colours n) ∧
      ∀ h, sget false t.valid h = if h = i.phys / 16 ∨ h = i.phys / 16 + 1 then false else sget false s.valid h := by
  obtain ⟨accs, run, here, others⟩ := tag_runs ready kind checked
  rw [recolour_frame] at run
  refine ⟨_, run, rfl, rfl, rfl, here, others, fun n => sget_sset .., fun h => ?_⟩
  refine (sget_sset false _ _ h false).trans ?_
  rw [sget_sset]
  by_cases second : h = i.phys / 16 + 1
  · rw [if_pos second, if_pos (.inr second)]
  · rw [if_neg second]
    exact if_congr (by simp [second]) rfl rfl

/-! ### Atomics (R260 to R265) -/

theorem noteAtomic_onAgents (s : State) (a : Access) (i : PageInfo) : ∃ ks g, noteAtomic s a i = s.onAgents ks g := by
  rw [noteAtomic]
  exact ⟨_, _, rfl⟩

theorem noteAtomic_rest (s : State) (a : Access) (i : PageInfo) : noteAtomic s a i = { s with threads := (noteAtomic s a i).threads } := by
  obtain ⟨ks, g, eq⟩ := noteAtomic_onAgents s a i
  rw [eq]
  exact onAgents_rest ks g s

theorem noteAtomic_agents (s : State) (a : Access) (i : PageInfo) : OnlyAgents s (noteAtomic s a i) := by
  obtain ⟨ks, g, eq⟩ := noteAtomic_onAgents s a i
  rw [eq]
  exact onAgents_only ks g s

/-- The state in which an atomic writes: its thread has read the newest writes of its word. -/
def atomicRead (s : State) (a : Access) (i : PageInfo) : State := noteAtomic (s.corrected i.phys) a i

theorem atomicRead_rest (s : State) (a : Access) (i : PageInfo) : atomicRead s a i = { s with
    threads := (atomicRead s a i).threads, errorCounts := (atomicRead s a i).errorCounts } := by
  have read : atomicRead s a i = { s.corrected i.phys with threads := (atomicRead s a i).threads } := noteAtomic_rest ..
  rw [corrected_rest] at read
  rw [read]

theorem atomicRead_agents (s : State) (a : Access) (i : PageInfo) : OnlyAgents s (atomicRead s a i) := by
  have same : (s.corrected i.phys).threads = s.threads := by rw [corrected_rest]
  exact OnlyAgents.trans ((OnlyAgents.refl s).of_threads same) (noteAtomic_agents (s.corrected i.phys) a i)

/-- The state after an atomic's write; none: it writes nothing. -/
def atomicWrite (s : State) (a : Access) (i : PageInfo) : Option Nat → State
  | some v => writeAcc s a i v false true
  | none => noteHost s a.team i

theorem atomicWrite_agents (s : State) (a : Access) (i : PageInfo) (w : Option Nat) : OnlyAgents s (atomicWrite s a i w) := by
  cases w with
  | some v => exact writeAcc_agents s a i v false true
  | none => exact (OnlyAgents.refl s).of_threads (by rw [atomicWrite, noteHost_rest])

theorem atomicWrite_keeps (s : State) (a : Access) (i : PageInfo) (w : Option Nat) : (atomicWrite s a i w).colours = s.colours ∧
    (atomicWrite s a i w).accesses = s.accesses ∧ (atomicWrite s a i w).waves = s.waves ∧ (atomicWrite s a i w).teams = s.teams := by
  cases w with
  | some v => exact writeAcc_keeps ..
  | none =>
    rw [atomicWrite, noteHost_rest]
    exact ⟨rfl, rfl, rfl, rfl⟩

/-- The return of an atomic: its lane has the old value, its wave the flags, and the access is gone. -/
def giveBack (s : State) (id : Nat) (a : Access) (dst : List Nat) (m : Nat) (fl : Flags5) : State :=
  ((((s.setThread (threadKey a.team (a.threads.headD 0)) (·.putWords dst m)).raise (waveKey a.team (a.threads.headD 0 / 32)) fl).unforesee a).dropAcc id).wake

section
variable (s : State) (id : Nat) (a : Access) (dst : List Nat) (m : Nat) (fl : Flags5) (k : Nat)

theorem giveBack_keeps : (giveBack s id a dst m fl).mem = s.mem ∧ (giveBack s id a dst m fl).past = s.past ∧
    (giveBack s id a dst m fl).writeNo = s.writeNo ∧ (giveBack s id a dst m fl).colours = s.colours ∧
    (giveBack s id a dst m fl).teams = s.teams ∧ AccGone s (giveBack s id a dst m fl) id := by
  rw [giveBack, unforesee_rest, raise_rest]
  exact ⟨rfl, rfl, rfl, rfl, rfl, accGone_dropAcc id rfl⟩

theorem giveBack_thread : (giveBack s id a dst m fl).thread k =
    if k = threadKey a.team (a.threads.headD 0) then (s.thread k).putWords dst m else s.thread k := by
  rw [giveBack, unforesee_rest]
  refine (thread_raise (s.setThread _ _) _ k fl).trans ((thread_setThread s _ k _).trans ?_)
  split
  · next here => rw [here]
  · rfl

theorem giveBack_wave : (giveBack s id a dst m fl).wave k = if k = waveKey a.team (a.threads.headD 0 / 32) then (s.wave k).raise fl else s.wave k := by
  rw [giveBack, unforesee_rest]
  refine (wave_raise (s.setThread _ _) _ k fl).trans ?_
  split
  · next here =>
    rw [here]
    rfl
  · rfl

end

/-- The state that an atomic leaves. -/
def afterAtomic (s : State) (id : Nat) (a : Access) (i : PageInfo) (dst : List Nat) (r : Option Nat × Flags5) : State :=
  giveBack (atomicWrite (atomicRead s a i) a i r.1) id a dst (readLE s.mem i.phys a.size) r.2

theorem atomic_runs {s : State} {id : Nat} {a : Access} {f : Fn} {op x y : Nat} {arm : RMode} {dst : List Nat} {i : PageInfo} (ready : Ready s id a f)
    (kind : a.kind = .atomic op x y arm dst) (checked : checkAt s f a a.off a.size = .ok i) :
    exec (.atomicPerformed id) s = .next (afterAtomic s id a i dst (atomicNew op x y (readLE s.mem i.phys a.size) arm)) := by
  have whole : checkAccess s f a = .ok i := by rw [checkAccess_whole (by simp [kind]) (by simp [kind]), checked]
  have run : exec (.atomicPerformed id) s = execAtomicPerformed id s := rfl
  rw [run, execAtomicPerformed, onReady_run ready, kind]
  simp only [whole, afterAtomic]
  cases (atomicNew op x y (readLE s.mem i.phys a.size) arm).1 <;> rfl

section
variable (s : State) (id : Nat) (a : Access) (i : PageInfo) (dst : List Nat) (r : Option Nat × Flags5)

theorem afterAtomic_keeps : AccGone s (afterAtomic s id a i dst r) id ∧ (afterAtomic s id a i dst r).colours = s.colours ∧
    (afterAtomic s id a i dst r).teams = s.teams := by
  obtain ⟨-, -, -, colours, teams, gone⟩ := giveBack_keeps (atomicWrite (atomicRead s a i) a i r.1) id a dst (readLE s.mem i.phys a.size) r.2
  obtain ⟨colours', accesses', -, teams'⟩ := atomicWrite_keeps (atomicRead s a i) a i r.1
  rw [atomicRead_rest] at colours' accesses' teams'
  refine ⟨fun j => (gone j).trans ?_, colours.trans ?_, teams.trans ?_⟩
  · rw [atomicRead_rest, accesses']
  · rw [atomicRead_rest, colours']
  · rw [atomicRead_rest, teams']

/-- An atomic's write is the write of its access in the state in which its thread has read the word. -/
theorem afterAtomic_memory (sized : 0 < a.size) : BytesKept s (afterAtomic s id a i dst r) i.phys a.size ∧
    readLE (afterAtomic s id a i dst r).mem i.phys a.size =
      (match r.1 with | some v => v % 256 ^ a.size | none => readLE s.mem i.phys a.size) ∧
    (match r.1 with
      | some v => EntersOrder s (afterAtomic s id a i dst r) (.team a.team) false i.phys a.size v
      | none => (afterAtomic s id a i dst r).past = s.past) := by
  obtain ⟨mem, past, count, -⟩ := giveBack_keeps (atomicWrite (atomicRead s a i) a i r.1) id a dst (readLE s.mem i.phys a.size) r.2
  have from_s : (atomicRead s a i).mem = s.mem ∧ (atomicRead s a i).valid = s.valid ∧ (atomicRead s a i).past = s.past ∧
      (atomicRead s a i).writeNo = s.writeNo := by
    rw [atomicRead_rest]
    exact ⟨rfl, rfl, rfl, rfl⟩
  obtain ⟨w, fl⟩ := r
  cases w with
  | some v =>
    obtain ⟨bytes, kept, order⟩ := writeAcc_bytes sized from_s mem past count
    exact ⟨kept, bytes, order⟩
  | none =>
    obtain ⟨memS, -, pastS, -⟩ := from_s
    have host : (atomicWrite (atomicRead s a i) a i none).mem = (atomicRead s a i).mem ∧
        (atomicWrite (atomicRead s a i) a i none).past = (atomicRead s a i).past := by
      rw [atomicWrite, noteHost_rest]
      exact ⟨rfl, rfl⟩
    have memory : (afterAtomic s id a i dst (none, fl)).mem = s.mem := (mem.trans host.1).trans memS
    exact ⟨fun b _ => by rw [memory], by rw [memory], (past.trans host.2).trans pastS⟩

theorem afterAtomic_thread (k : Nat) : ∃ g, (afterAtomic s id a i dst r).thread k = { (if k = threadKey a.team (a.threads.headD 0) then
      (s.thread k).putWords dst (readLE s.mem i.phys a.size) else s.thread k) with agent := g } := by
  obtain ⟨g, agent⟩ := OnlyAgents.trans (atomicRead_agents s a i) (atomicWrite_agents (atomicRead s a i) a i r.1) k
  refine ⟨g, ?_⟩
  rw [afterAtomic, giveBack_thread, agent, putWords_agent]
  split <;> rfl

theorem afterAtomic_wave (k : Nat) : (afterAtomic s id a i dst r).wave k =
    if k = waveKey a.team (a.threads.headD 0 / 32) then (s.wave k).raise r.2 else s.wave k := by
  obtain ⟨-, -, waves, -⟩ := atomicWrite_keeps (atomicRead s a i) a i r.1
  have same : (atomicRead s a i).waves = s.waves := by rw [atomicRead_rest]
  rw [afterAtomic, giveBack_wave, State.wave, waves, same]
  rfl

end

theorem atomic_performed {s : State} {id : Nat} {a : Access} {f : Fn} {op x y : Nat} {arm : RMode} {dst : List Nat} {i : PageInfo}
    (ready : Ready s id a f) (kind : a.kind = .atomic op x y arm dst) (checked : checkAt s f a a.off a.size = .ok i) (sized : 0 < a.size) :
    let m := readLE s.mem i.phys a.size
    ∃ t, exec (.atomicPerformed id) s = .next t ∧ BytesKept s t i.phys a.size ∧
      readLE t.mem i.phys a.size = (match (atomicNew op x y m arm).1 with | some v => v % 256 ^ a.size | none => m) ∧
      (match (atomicNew op x y m arm).1 with | some v => EntersOrder s t (.team a.team) false i.phys a.size v | none => t.past = s.past) ∧
      (∀ k, ∃ g, t.thread k = { (if k = threadKey a.team (a.threads.headD 0) then (s.thread k).putWords dst m else s.thread k) with agent := g }) ∧
      (∀ k, t.wave k = if k = waveKey a.team (a.threads.headD 0 / 32) then (s.wave k).raise (atomicNew op x y m arm).2 else s.wave k) ∧
      AccGone s t id ∧ t.colours = s.colours ∧ t.teams = s.teams := by
  intro m
  obtain ⟨kept, bytes, order⟩ := afterAtomic_memory s id a i dst (atomicNew op x y m arm) sized
  exact ⟨_, atomic_runs ready kind checked, kept, bytes, order, afterAtomic_thread s id a i dst _,
    afterAtomic_wave s id a i dst _, afterAtomic_keeps s id a i dst _⟩

/-! ### Ordered contributions (R267, R269) -/

theorem find_modify_of_find {α : Type} {t : Tab α} {k : Nat} {x : α} (found : t.find k = some x) (g : α → α) : (t.modify k g).find k = some (g x) := by
  rw [Tab.find_modify, if_pos rfl, found]
  rfl

/-- The contribution that an access leaves in the ordered buffer, or in the shadow where the buffer is full. -/
def contribOf (s : State) (a : Access) (tm : Team) (v : W32) (sq : Nat) (bars : Tab Nat) : Contrib :=
  ⟨a.obj, a.off, a.threads.headD 0, sq, v, decide (2048 ≤ bufferUse s tm.core), bars, a.info⟩

/-- The team with one more contribution in its buffer. -/
def withContrib (c : Contrib) (t : Team) : Team := { t with buffer := t.buffer ++ [c] }

theorem endFlush_goesOn {s : State} {tk : Nat} {tm : Team} (found : s.teams.find tk = some tm) (goesOn : tm.ended = false) : endFlush s tk = s := by
  rw [endFlush, found]
  simp only [Option.any_some, goesOn, Bool.false_and, Bool.false_eq_true, if_false]

/-- The state that a contribution with room leaves: it stands in its team's buffer. The end's flush is not due. -/
theorem ordered_runs {s : State} {id : Nat} {a : Access} {f : Fn} {v : W32} {sq : Nat} {bars : Tab Nat} {i : PageInfo} {tm : Team} (ready : Ready s id a f)
    (kind : a.kind = .ordered v sq bars) (checked : checkAt s f a a.off a.size = .ok i) (team : s.teams.find a.team = some tm)
    (goesOn : tm.ended = false) (room : bufferUse s tm.core < 2048 ∨ shadowUse tm + 16 ≤ tm.shadow) :
    ∃ ls, exec (.orderedValidate id) s = .next ((({ s with launches := ls }).setTeam a.team (withContrib (contribOf s a tm v sq bars))).dropAcc id).wake := by
  have whole : checkAccess s f a = .ok i := by rw [checkAccess_whole (by simp [kind]) (by simp [kind]), checked]
  have run : exec (.orderedValidate id) s = execOrderedValidate id s := rfl
  have fits : (decide (2048 ≤ bufferUse s tm.core) && decide (tm.shadow < shadowUse tm + 16)) = false := by
    simp only [Bool.and_eq_false_iff, decide_eq_false_iff_not]
    omega
  rw [run, execOrderedValidate, onReady_run ready, kind]
  simp only [whole, team, fits, Bool.false_eq_true, if_false]
  rw [noteHost_rest, endFlush_goesOn (tm := withContrib (contribOf s a tm v sq bars) tm) ?_ goesOn]
  · exact ⟨_, rfl⟩
  · exact find_modify_of_find team (withContrib (contribOf s a tm v sq bars))

theorem ordered_enters {s : State} {id : Nat} {a : Access} {f : Fn} {v : W32} {sq : Nat} {bars : Tab Nat} {i : PageInfo} {tm : Team} (ready : Ready s id a f)
    (kind : a.kind = .ordered v sq bars) (checked : checkAt s f a a.off a.size = .ok i) (team : s.teams.find a.team = some tm)
    (goesOn : tm.ended = false) (room : bufferUse s tm.core < 2048 ∨ shadowUse tm + 16 ≤ tm.shadow) :
    ∃ t, exec (.orderedValidate id) s = .next t ∧ t.mem = s.mem ∧ AccGone s t id ∧
      t.teams.find a.team = some (withContrib (contribOf s a tm v sq bars) tm) ∧
      (∀ k, k ≠ a.team → t.teams.find k = s.teams.find k) ∧ t.threads = s.threads ∧ t.waves = s.waves := by
  obtain ⟨ls, run⟩ := ordered_runs ready kind checked team goesOn room
  refine ⟨_, run, rfl, accGone_dropAcc id rfl, find_modify_of_find team (withContrib (contribOf s a tm v sq bars)),
    fun k other => (Tab.find_modify ..).trans (if_neg other), rfl, rfl⟩

/-- The launch of a team whose function is known stands in the table. -/
theorem launch_of_fnOfTeam {s : State} {tk : Nat} {f : Fn} (fn : fnOfTeam s tk = some f) :
    ∃ l, s.launches.find (launchOfGang (gangOfTeam tk)) = some l := by
  obtain ⟨l, found, -⟩ := Option.bind_eq_some_iff.mp fn
  exact ⟨l, found⟩

theorem setFatal_launch {s : State} {lk : Nat} {l : Launch} (found : s.launches.find lk = some l) (r : TrapRec) :
    (setFatal s lk r).launches.find lk = some { l with fatal := some (l.fatal.getD r) } :=
  find_modify_of_find found fun l => { l with fatal := some (l.fatal.getD r) }

/-- A fatal record stands under the next free number and ends its launch (R392). -/
theorem fatalRecord_fatal {s : State} {tk : Nat} {l : Launch} (found : s.launches.find (launchOfGang (gangOfTeam tk)) = some l) (x : TrapArgs) :
    (fatalRecord s tk x).traps.find s.nextId = some (trapRecord s tk none { x with fatal := true, resume := .nothing }) ∧
      ∃ l', (fatalRecord s tk x).launches.find (launchOfGang (gangOfTeam tk)) = some l' ∧ l'.fatal.isSome = true :=
  ⟨(Tab.find_put ..).trans (if_pos rfl), _, setFatal_launch (s := recordOnly s tk { x with fatal := true }) found _, rfl⟩

theorem ordered_endsLaunch {s : State} {id : Nat} {a : Access} {f : Fn} {v : W32} {sq : Nat} {bars : Tab Nat} {i : PageInfo} {tm : Team}
    (ready : Ready s id a f) (kind : a.kind = .ordered v sq bars) (checked : checkAt s f a a.off a.size = .ok i)
    (team : s.teams.find a.team = some tm) (full : 2048 ≤ bufferUse s tm.core) (noRoom : tm.shadow < shadowUse tm + 16) :
    ∃ t r l, exec (.orderedValidate id) s = .next t ∧ t.mem = s.mem ∧ AccGone s t id ∧
      t.traps.find s.nextId = some r ∧ r.cause = .orderedTarget ∧ r.fatal = true ∧ r.deferredPrecise = true ∧ r.object = a.obj ∧ r.offset = a.off ∧
      t.launches.find (launchOfGang (gangOfTeam a.team)) = some l ∧ l.fatal.isSome = true := by
  have whole : checkAccess s f a = .ok i := by rw [checkAccess_whole (by simp [kind]) (by simp [kind]), checked]
  obtain ⟨l, launch⟩ := launch_of_fnOfTeam ready.fn
  obtain ⟨record, l', ended, fatal⟩ := fatalRecord_fatal launch (noRoomRecord s a.team (a.threads.headD 0) a.obj a.off a.info)
  have run : exec (.orderedValidate id) s =
      .next ((fatalRecord s a.team (noRoomRecord s a.team (a.threads.headD 0) a.obj a.off a.info)).dropAcc id).wake := by
    have unfolded : exec (.orderedValidate id) s = execOrderedValidate id s := rfl
    rw [unfolded, execOrderedValidate, onReady_run ready, kind]
    simp only [whole, team, full, noRoom, decide_true, Bool.and_self, if_true]
  exact ⟨_, _, l', run, rfl, accGone_dropAcc id rfl, record, rfl, rfl, rfl, rfl, rfl, ended, fatal⟩

/-- Settles O47: an access that is ready passes its checks once more and is then performed whole. A store or atomic is one write of its access, whose
frame is all else; CTAG touches colours and validity bits; a contribution its team's buffer, or the fatal record that ends its launch. -/
theorem storesAndAtomicsPerformed : Obligations.StoresAndAtomicsPerformed := by
  unfold Obligations.StoresAndAtomicsPerformed
  refine ⟨?_, ?_, ?_, ?_, ?_, ?_⟩
  · intro s id a f data cb i ready kind checked noBuffer sized
    exact store_performed ready kind checked noBuffer sized
  · intro s id a f data cb p ready kind colour buffer
    exact bufferStore_performed ready kind colour buffer
  · intro s id a f g col i ready kind checked
    exact tag_performed ready kind checked
  · intro s id a f op x y arm dst i ready kind checked sized
    exact atomic_performed ready kind checked sized
  · intro s id a f v sq bars i tm ready kind checked team goesOn room
    exact ordered_enters ready kind checked team goesOn room
  · intro s id a f v sq bars i tm ready kind checked team full noRoom
    exact ordered_endsLaunch ready kind checked team full noRoom

end Sys2Proof.Machine
end
